-- ==== Sys2Proof/Word.lean ====
section
/-! DEFINITION. The word types of the NL2 (R4, R48) and the shape of every sparse table of the model. -/

namespace Sys2Proof

abbrev Byte := BitVec 8
abbrev W16 := BitVec 16
abbrev W32 := BitVec 32
abbrev W64 := BitVec 64

/-- Number of a scalar register, of a b, lc or cb register, or of a selector held in a 6-bit field (R25). -/
abbrev Reg := BitVec 6

/-- A 10-bit vector register field (R51). -/
abbrev VField := BitVec 10

/-- A sparse table: pairs of a key and a value, keys strictly rising, no value equal to the table's default. -/
abbrev Assoc (α : Type) := List (Nat × α)

end Sys2Proof
end

