-- ==== Sys2Proof/Config.lean ====
section
/-! DEFINITION. What an implementation fixes, and the free values: constants without a body, of which nothing is known.
Each is named in the assumption log with the rule that leaves it open. -/

namespace Sys2Proof.Config

/-- Position, among the f32 values that R74 allows, of the value that VEXP2 forms for an f32 argument (log 14). -/
opaque exp2Pick : W32 → Nat

/-- The f32 value that VEXP2 forms where the result is a subnormal f32 and not exact: R74 states no bound, and R62 lets it not be
zero (log 14). -/
opaque exp2Subnormal : W32 → W32

/-- As exp2Pick, for VLOG2 (log 14). -/
opaque log2Pick : W32 → Nat

/-- A fresh free value for a choice that the spec leaves to traffic or to the unit; the argument is a tick of the state:
the channel of R200, the pairs a SCAN keeps (R204), the flags of work in flight (R77) (log 8). -/
opaque free : Nat → Nat

/-- The signature of the attestation key over a byte string with a leaf index: the LMOTS part behind its type, and then the path,
2,816 bytes (R392; log 15). -/
opaque signature : List Byte → Nat → Nat → Byte

/-- Bytes of the identity public key behind its two types (R392; log 15). -/
opaque publicKey : Nat → Byte

/-- Address-space context that the host software of this package has bound to function fn of package src, plus 1; 0 where it has
bound none (R314, R315; log 25). -/
opaque binding : Nat → Nat → Nat

/-- The binding of function fn of package src covers a package semaphore file (R315; log 25). -/
opaque boundFile : Nat → Nat → Nat → Bool

end Sys2Proof.Config
end

