-- ==== Sys2Proof/Syntax.lean ====
section
/-! DEFINITION. The instructions and the steps of the NL2: one constructor for each row of spec/opcode_table.json.
Fields that the encoding requires to be zero have no place here; every other field is kept as it stands in the word. -/

namespace Sys2Proof

/-- A prefix word (R37 to R43): kind and the named fields of its payload. -/
inductive Pfx where
  /-- Kind 0: NaN policy, saturation and rounding codes (R38). -/
  | pxm (nan : BitVec 2) (sat : BitVec 2) (rnd : BitVec 3)
  /-- Kind 1: count unit (0 elements, 1 rows), count, and source (1: popped from the CTQ) (R39). -/
  | pxc (unit : BitVec 1) (n : BitVec 14) (src : BitVec 1)
  /-- Kind 2: predicate popped from the CTQ (R40). -/
  | pxp
  /-- Kind 3: first row and number of rows minus 1 (R41). -/
  | pxr (first : BitVec 6) (cnt : BitVec 5)
  /-- Kind 4: ordering class (R42). -/
  | pxo (cls : BitVec 4)
  /-- Kind 5: scale mode (R43). -/
  | pxs (mode : BitVec 2)
  deriving DecidableEq, Repr

/-- Fields of a scalar load or store (SM, R28), with the class of a bound PXO prefix (R42). -/
structure SM where
  pfx : Option (BitVec 4)
  cls : BitVec 4
  h : BitVec 5
  xo : Reg
  x : Reg
  imm : W32
  deriving DecidableEq, Repr

/-- Fields of the vector format V4 (R29). The minor is the constructor's. -/
structure V4 where
  pfx : Option Pfx
  tok : BitVec 4
  mask : BitVec 4
  ty : BitVec 4
  vd : VField
  va : VField
  vb : VField
  vc : VField
  deriving DecidableEq, Repr

/-- Fields of the vector-memory format VM (R30). -/
structure VM where
  pfx : Option Pfx
  tok : BitVec 4
  mask : BitVec 4
  ty : BitVec 4
  cls : BitVec 4
  h : BitVec 5
  xo : Reg
  v : VField
  tail : BitVec 15
  deriving DecidableEq, Repr

/-- Fields of the tile format TL (R31, R228). -/
structure TL where
  pfx : Option Pfx
  tok : BitVec 4
  ta : BitVec 6
  c : BitVec 1
  hint : BitVec 1
  cls : BitVec 4
  h : BitVec 5
  xa : Reg
  xb : Reg
  n12 : BitVec 12
  tr : BitVec 2
  deriving DecidableEq, Repr

/-- Fields of the matrix format MX (R32, R276). -/
structure MX where
  pfx : Option Pfx
  tok : BitVec 4
  acc : BitVec 3
  hint : BitVec 1
  ta : BitVec 6
  ac : BitVec 1
  tb : BitVec 6
  bc : BitVec 1
  va : VField
  vb : VField
  mask : BitVec 4
  ty : BitVec 4
  deriving DecidableEq, Repr

/-- Why a unit is no instruction (R22, R25, R44, R57). -/
inductive Reject where
  /-- Selector 0b11 (R22). -/
  | selector
  /-- A 64-bit first word at an address equal to 4 modulo 8 (R23). -/
  | misaligned
  /-- A major or minor not listed (R55, R56). -/
  | opcode
  /-- A reserved or must-be-zero field that is not zero, or a code the encoding reserves (R25). -/
  | reserved
  /-- A selector field with no instruction behind it that the spec calls an illegal operand (TSTAT, R239). -/
  | operand
  deriving DecidableEq, Repr

/-- What a fabric flit carries (R314, R315, R322). -/
inductive Flit where
  /-- An element of a REMOTE COPY of command c of function fn of the sender: bytes to write at a device virtual address here. `strm`
  numbers the source engine and the class (R322). -/
  | write (c fn strm : Nat) (va : Nat) (bytes : List Byte)
  /-- An element of a REMOTE ACCW: operation, type, rounding and saturation codes, the exact source bits and type. -/
  | accumulate (c fn strm : Nat) (va : Nat) (op ty sty rnd sat : BitVec 4) (bits : W64)
  /-- RSIG of a REMOTE command: package file and signal entry. -/
  | rsig (c fn : Nat) (file : Nat) (entry : BitVec 21)
  /-- Acknowledgement of n more elements of this package's command c, with the flags that their steps set (R297, R303). -/
  | ack (c n : Nat) (flags : BitVec 6)
  /-- The destination of command c reports a fatal cause. -/
  | nack (c : Nat) (cause : Byte)
  deriving DecidableEq, Repr

/-- Which stream a byte event is of (0 slice, 1 LDQ, 2 STQ, 3 the writes and 4 the reads of a command; of the launch front end, 5 the reads
of records, 6 those of topology tables, 7 the writes of completion records), and which events of the item take place: all of them where
which is 0, else those that its bits number (R329). -/
structure AccessPart where
  stream : Nat
  which : Nat
  deriving DecidableEq, Repr

/-- One instruction word unit, or one indivisible step of the device (spec/95). Constructors without fields stand last. A
step of the device that names no task, packet or command acts on the one that the state's `cur` names. -/
inductive Instr where
  /-- ADD (R161). -/
  | add (d a b : Reg)
  /-- SUB (R161). -/
  | sub (d a b : Reg)
  /-- MUL (R161). -/
  | mul (d a b : Reg)
  /-- MULH (R161). -/
  | mulh (d a b : Reg)
  /-- MULHU (R161). -/
  | mulhu (d a b : Reg)
  /-- DIV (R161). -/
  | div (d a b : Reg)
  /-- DIVU (R161). -/
  | divu (d a b : Reg)
  /-- REM (R161). -/
  | rem (d a b : Reg)
  /-- REMU (R161). -/
  | remu (d a b : Reg)
  /-- AND (R161). -/
  | and (d a b : Reg)
  /-- OR (R161). -/
  | or (d a b : Reg)
  /-- XOR (R161). -/
  | xor (d a b : Reg)
  /-- SHL (R161). -/
  | shl (d a b : Reg)
  /-- SHR (R161). -/
  | shr (d a b : Reg)
  /-- SAR (R161). -/
  | sar (d a b : Reg)
  /-- MIN (R161). -/
  | min (d a b : Reg)
  /-- MAX (R161). -/
  | max (d a b : Reg)
  /-- MINU (R161). -/
  | minu (d a b : Reg)
  /-- MAXU (R161). -/
  | maxu (d a b : Reg)
  /-- SLT (R161). -/
  | slt (d a b : Reg)
  /-- SLTU (R161). -/
  | sltu (d a b : Reg)
  /-- SEQ (R161). -/
  | seq (d a b : Reg)
  /-- CLZ (R161). -/
  | clz (d a : Reg)
  /-- CTZ (R161). -/
  | ctz (d a : Reg)
  /-- POPC (R161). -/
  | popc (d a : Reg)
  /-- SEL (R161). -/
  | sel (d a b : Reg)
  /-- IDX2 (R161). -/
  | idx2 (d a b : Reg)
  /-- IDX3 (R161). -/
  | idx3 (d a b : Reg)
  /-- BCLAMP (R161). -/
  | bclamp (d a b : Reg)
  /-- ALIGNUP (R161). -/
  | alignup (d a b : Reg)
  /-- ADDI (R162). -/
  | addi (d a : Reg) (imm : BitVec 12)
  /-- ANDI (R162). -/
  | andi (d a : Reg) (imm : BitVec 12)
  /-- ORI (R162). -/
  | ori (d a : Reg) (imm : BitVec 12)
  /-- XORI (R162). -/
  | xori (d a : Reg) (imm : BitVec 12)
  /-- SHLI (R162). -/
  | shli (d a : Reg) (imm : BitVec 12)
  /-- SHRI (R162). -/
  | shri (d a : Reg) (imm : BitVec 12)
  /-- SARI (R162). -/
  | sari (d a : Reg) (imm : BitVec 12)
  /-- LI, short form (R162). -/
  | liShort (d : Reg) (imm : BitVec 12)
  /-- BR (R166). -/
  | br (disp : BitVec 24)
  /-- BEQ (R167). -/
  | beq (a b : Reg) (disp : BitVec 12)
  /-- BNE (R167). -/
  | bne (a b : Reg) (disp : BitVec 12)
  /-- BLT (R167). -/
  | blt (a b : Reg) (disp : BitVec 12)
  /-- BGE (R167). -/
  | bge (a b : Reg) (disp : BitVec 12)
  /-- BLTU (R167). -/
  | bltu (a b : Reg) (disp : BitVec 12)
  /-- BGEU (R167). -/
  | bgeu (a b : Reg) (disp : BitVec 12)
  /-- BRT, always (R169). -/
  | brt (bd : Reg)
  /-- BRT.nz (R169). -/
  | brtNz (bd a : Reg)
  /-- BRT.z (R169). -/
  | brtZ (bd a : Reg)
  /-- CALL (R166). -/
  | call (disp : BitVec 24)
  /-- LOOP: counter n, trip-count register, displacement to its ENDL (R171). -/
  | loop (n b : Reg) (disp : BitVec 12)
  /-- ENDL: counter n, displacement to the body (R171). -/
  | endl (n : Reg) (disp : BitVec 12)
  /-- CQP: section selector and source (R173). -/
  | cqp (sel a : Reg)
  /-- CQPB (R173). -/
  | cqpb (sel a : Reg)
  /-- RQPOP (R175). -/
  | rqpop (d : Reg)
  /-- NPOP (R175). -/
  | npop (d : Reg)
  /-- QDEPTH: destination and selector (R176). -/
  | qdepth (d sel : Reg)
  /-- XLT: handle, address register, offset register (R208). -/
  | xlt (hd : BitVec 5) (a b : Reg)
  /-- XLTN (R209). -/
  | xltn (hd : BitVec 5) (a : Reg)
  /-- HREL (R210). -/
  | hrel (hd : BitVec 5)
  /-- HCHK: destination, handle, offset register (R210). -/
  | hchk (d : Reg) (ha : BitVec 5) (b : Reg)
  /-- NREL (R211). -/
  | nrel (a : Reg)
  /-- SHAND (R212). -/
  | shand (a b : Reg)
  /-- TSETTLE: destination, slot register, owner selector register (R238). -/
  | tsettle (d a b : Reg)
  /-- TSTAT, slot form (R239). -/
  | tstat (d a : Reg)
  /-- TSTAT.p, partition form (R239). -/
  | tstatP (d : Reg)
  /-- CBW (R323). -/
  | cbw (d a : Reg)
  /-- CEGO: destination and engine (R324). -/
  | cego (d : Reg) (e : BitVec 4)
  /-- CEGO.t: destination, template operand, engine (R324). -/
  | cegoT (d a : Reg) (e : BitVec 4)
  /-- CEPOP (R326). -/
  | cepop (d : Reg) (e : BitVec 4)
  /-- SEMW: destination, threshold register, counter (R133). -/
  | semw (d a : Reg) (n : BitVec 8)
  /-- SEMS: destination, delta register, counter (R133). -/
  | sems (d a : Reg) (n : BitVec 8)
  /-- SEMRD (R133). -/
  | semrd (d : Reg) (n : BitVec 8)
  /-- TRAP (R373). -/
  | trap (imm : BitVec 12)
  /-- SRD: destination, system register number (R372). -/
  | srd (d : Reg) (n : BitVec 12)
  /-- SWR: source, system register number (R372). -/
  | swr (a : Reg) (n : BitVec 12)
  /-- BARO (R376). -/
  | baro (a : Reg) (imm : BitVec 12)
  /-- LI, SL form (R163). -/
  | li (d : Reg) (imm : W32)
  /-- LIH (R163). -/
  | lih (d : Reg) (imm : W32)
  /-- LDB (R164). -/
  | ldb (f : SM)
  /-- LDBS (R164). -/
  | ldbs (f : SM)
  /-- LDH (R164). -/
  | ldh (f : SM)
  /-- LDHS (R164). -/
  | ldhs (f : SM)
  /-- LDW (R164). -/
  | ldw (f : SM)
  /-- LDWS (R164). -/
  | ldws (f : SM)
  /-- LDD (R164). -/
  | ldd (f : SM)
  /-- STB (R164). -/
  | stb (f : SM)
  /-- STH (R164). -/
  | sth (f : SM)
  /-- STW (R164). -/
  | stw (f : SM)
  /-- STD (R164). -/
  | std (f : SM)
  /-- PBR (R168). -/
  | pbr (bd : Reg) (imm : W32)
  /-- CQPM: section selector, registers, descriptor kind, first row, first column (R173, R174). -/
  | cqpm (sel a b : Reg) (kind : BitVec 2) (r0 : BitVec 5) (c0 : BitVec 10)
  /-- BND: queue selector and bound (R177). -/
  | bnd (sel : Reg) (imm : W32)
  /-- FMTP: band-word register and format descriptor (R277, R267). -/
  | fmtp (a : Reg) (desc : BitVec 10)
  /-- FENCE.C: scope code and class mask (R345). -/
  | fenceC (scope : BitVec 3) (mask : W16)
  /-- FENCE.M: queues LDQ, CMQ, STQ in bits 0 to 2, and engines (R327). -/
  | fenceM (queues : BitVec 3) (engines : W16)
  /-- VADD (R252). -/
  | vadd (f : V4)
  /-- VSUB (R252). -/
  | vsub (f : V4)
  /-- VMUL (R252). -/
  | vmul (f : V4)
  /-- VFMA (R252). -/
  | vfma (f : V4)
  /-- VFNMA (R252). -/
  | vfnma (f : V4)
  /-- VMIN (R252). -/
  | vmin (f : V4)
  /-- VMAX (R252). -/
  | vmax (f : V4)
  /-- VABS (R252). -/
  | vabs (f : V4)
  /-- VNEG (R252). -/
  | vneg (f : V4)
  /-- VCLAMP (R252). -/
  | vclamp (f : V4)
  /-- VMOV (R252). -/
  | vmov (f : V4)
  /-- VSEL (R252). -/
  | vsel (f : V4)
  /-- VEXP2 (R253). -/
  | vexp2 (f : V4)
  /-- VLOG2 (R253). -/
  | vlog2 (f : V4)
  /-- VRCP (R253). -/
  | vrcp (f : V4)
  /-- VRSQ (R253). -/
  | vrsq (f : V4)
  /-- VCMP, with its condition code 0 to 7 (R254). -/
  | vcmp (cond : BitVec 3) (f : V4)
  /-- VIADD (R255). -/
  | viadd (f : V4)
  /-- VISUB (R255). -/
  | visub (f : V4)
  /-- VIMUL (R255). -/
  | vimul (f : V4)
  /-- VIMAD (R255). -/
  | vimad (f : V4)
  /-- VAND (R255). -/
  | vand (f : V4)
  /-- VOR (R255). -/
  | vor (f : V4)
  /-- VXOR (R255). -/
  | vxor (f : V4)
  /-- VNOT (R255). -/
  | vnot (f : V4)
  /-- VSHL (R255). -/
  | vshl (f : V4)
  /-- VSHR (R255). -/
  | vshr (f : V4)
  /-- VSAR (R255). -/
  | vsar (f : V4)
  /-- VIMIN (R255). -/
  | vimin (f : V4)
  /-- VIMAX (R255). -/
  | vimax (f : V4)
  /-- VRMAX (R256). -/
  | vrmax (f : V4)
  /-- VRMIN (R256). -/
  | vrmin (f : V4)
  /-- VRSUM (R256). -/
  | vrsum (f : V4)
  /-- VCSUM (R256). -/
  | vcsum (f : V4)
  /-- VRSCAN (R256). -/
  | vrscan (f : V4)
  /-- VSHUF (R257). -/
  | vshuf (f : V4)
  /-- VROT (R257). -/
  | vrot (f : V4)
  /-- VTRN (R257). -/
  | vtrn (f : V4)
  /-- VMSK (R258). -/
  | vmsk (f : V4)
  /-- VMASKQ (R259). -/
  | vmaskq (f : V4)
  /-- VDEFER (R260). -/
  | vdefer (f : V4)
  /-- VDRAIN (R261). -/
  | vdrain (f : V4)
  /-- VRET (R262). -/
  | vret (f : V4)
  /-- VCVT (R281). -/
  | vcvt (f : V4)
  /-- VQNT (R282). -/
  | vqnt (f : V4)
  /-- VLD (R250). -/
  | vld (f : VM)
  /-- VLDS (R250). -/
  | vlds (f : VM)
  /-- VGATH (R250). -/
  | vgath (f : VM)
  /-- VST (R251). -/
  | vst (f : VM)
  /-- VSTS (R251). -/
  | vsts (f : VM)
  /-- VSCAT (R251). -/
  | vscat (f : VM)
  /-- NSTV (R213). -/
  | nstv (f : VM)
  /-- TFETCH (R229). -/
  | tfetch (f : TL)
  /-- TWIN (R230). -/
  | twin (f : TL)
  /-- TADV (R231). -/
  | tadv (f : TL)
  /-- TSHARE (R232). -/
  | tshare (f : TL)
  /-- TUNPARK (R233). -/
  | tunpark (f : TL)
  /-- VLDT (R234). -/
  | vldt (f : TL)
  /-- VLDX (R234). -/
  | vldx (f : TL)
  /-- TPARK (R235). -/
  | tpark (f : TL)
  /-- TWR (R236). -/
  | twr (f : TL)
  /-- TWB (R237). -/
  | twb (f : TL)
  /-- MMA (R278). -/
  | mma (f : MX)
  /-- ACCZ (R279). -/
  | accz (f : MX)
  /-- ACCLD (R280). -/
  | accld (f : MX)
  /-- ACCRD (R280). -/
  | accrd (f : MX)
  /-- The oldest issued entry of queue q (0 LDQ, 1 CMQ, 2 STQ) of task t completes; hs: a handler-set queue (R242). -/
  | entryComplete (t q : Nat) (hs : Bool)
  /-- The last byte of the tile in a physical slot is written (R217). -/
  | tileFillComplete (core slot : Nat)
  /-- The data of the k-th outstanding scalar load of task t returns (R164). -/
  | loadDataReturn (t k : Nat)
  /-- Byte events of the k-th item of a stream of task t are performed, or of an access of command t, of queue t's next record, of the
  table that packet t's walker reads, or of packet t's completion record (R328, R329). -/
  | accessPerformed (t k : Nat) (part : AccessPart)
  /-- The oldest name of task t not yet pushed reaches the NRQ (R202). -/
  | namePush (t : Nat) (hs : Bool)
  /-- The units of a relinquished block become free (R211). -/
  | nameBlockFree (site chan index : Nat)
  /-- The stall counter of a queue reaches its bound (R178). -/
  | queueStall (t q : Nat) (hs : Bool)
  /-- The save of a unit completes (R358). -/
  | unitSaveComplete (core unit : Nat)
  /-- The restore of a unit completes (R358). -/
  | unitRestoreComplete (core unit : Nat)
  /-- A host write by function fn at W0 offset off of a register with no behaviour of its own (R6). -/
  | registerWrite (fn off : Nat) (v : W64)
  /-- A write to LFE_QCFG with EN set (R109). -/
  | queueEnable (fn q : Nat) (v : W64)
  /-- A write to LFE_QCFG with EN clear (R394). -/
  | queueReset (fn q : Nat) (v : W64)
  /-- A write to LFE_QNOTIFY (R110). -/
  | queueNotify (fn q : Nat) (v : W64)
  /-- A write to LFE_WITHDRAW (R124). -/
  | withdrawal (fn q : Nat) (v : W64)
  /-- A write to LFE_SEMVAL (R116). -/
  | semaphoreWrite (fn file n : Nat) (v : W32)
  /-- A write to LFE_KILL (R361). -/
  | lfeKill (fn q : Nat) (v : W64)
  /-- Function fn writes FLR of function f (R366). -/
  | functionLevelReset (fn f : Nat)
  /-- Function fn writes COLD (R394). -/
  | packageColdReset (fn : Nat)
  /-- Function fn writes DIE0 or DIE1 (R394). -/
  | dieWarmReset (fn die : Nat)
  /-- A die warm reset completes (R394). -/
  | dieWarmResetComplete (die : Nat)
  /-- A die warm reset does not complete (R394). -/
  | dieWarmResetTimeout (die : Nat)
  /-- A write of FROZEN 1 (R382). -/
  | barographFreeze (fn : Nat)
  /-- A write of FROZEN 0 (R382). -/
  | barographUnfreeze (fn : Nat)
  /-- A write to HIF_MBNOTIFY (R385). -/
  | mailboxNotify (fn : Nat) (v : W64)
  /-- Firmware serves a load-slot request of function fn (R84). -/
  | loadSlot (fn : Nat)
  /-- The kernel-table check of slot n ends (R84). -/
  | slotLoadComplete (n : Nat)
  /-- Firmware serves an unload request (R84). -/
  | unloadSlot (fn : Nat)
  /-- Firmware serves a revocation request (R193). -/
  | revokeRange (fn : Nat)
  /-- Revocation k completes (R193). -/
  | revocationComplete (k : Nat)
  /-- Firmware serves a quota request (R199). -/
  | setArenaQuota (fn : Nat)
  /-- Firmware serves a site-right request (R195). -/
  | siteRight (fn : Nat)
  /-- Firmware serves an assignment request (R386). -/
  | assignResource (fn : Nat)
  /-- Firmware serves a pin-clearing request (R187). -/
  | clearPins (fn : Nat)
  /-- Firmware serves a staging request; ok and version: what its image holds (R390). -/
  | stageFirmwareImage (fn : Nat) (ok : Bool) (version : W64)
  /-- Firmware serves a hand-over request (R390). -/
  | startFirmwareHandOver (fn : Nat)
  /-- Firmware serves a discard request (R390). -/
  | discardStagedImage (fn : Nat)
  /-- Context F of a core switches images at an idle point (R389). -/
  | firmwareIdlePointSwitch (core : Nat)
  /-- A core fails to switch in time (R390). -/
  | firmwareSwitchTimeout (core : Nat)
  /-- Firmware serves a report request (R391). -/
  | attestationReport (fn : Nat)
  /-- Firmware serves a public-key request (R392). -/
  | readIdentityPublicKey (fn : Nat)
  /-- A record's read from the ring of queue q completes (R111). -/
  | recordRead (q : Nat)
  /-- The oldest spill-ring entry moves into the pool (R130). -/
  | childPoolRefill (die : Nat)
  /-- A core asks for a ticket (R145). -/
  | ticketRequest (core : Nat)
  /-- The walker of packet p hands its next record to a core (R141). -/
  | walkerRecordHandout (p core : Nat)
  /-- The hold-off of a vector expires (R365). -/
  | interruptHoldOffExpiry (fn vec : Nat)
  /-- The k-th signal in flight reaches its counter (R116). -/
  | semaphoreSignal (k : Nat)
  /-- The engine serves PREFETCH command c with some bytes (R308). -/
  | prefetch (bytes : Nat)
  /-- The routing engine of a die finishes reading logits (R287). -/
  | rtePhase1Complete (die : Nat)
  /-- A fabric link is retrained (R381). -/
  | fabricLinkRetrain (port : Nat)
  /-- A hand-over enters DRAINING (R196). -/
  | handoverDraining (site : Nat)
  /-- A hand-over enters WRITING BACK (R196). -/
  | handoverWritingBack (site : Nat)
  /-- A hand-over enters SWITCHING (R196). -/
  | handoverSwitching (site : Nat)
  /-- A hand-over completes (R196). -/
  | handoverComplete (site : Nat)
  /-- The swap engine starts a swap in a group (R185). -/
  | swap (site group : Nat)
  /-- The swap of a site finishes (R185). -/
  | swapComplete (site : Nat)
  /-- A decay period of a site ends (R186). -/
  | decayPeriod (site : Nat)
  /-- A stack enters forced self-refresh (R206). -/
  | selfRefreshEntry (site : Nat)
  /-- A stack leaves self-refresh (R206). -/
  | selfRefreshExit (site : Nat)
  /-- A thermal hold passes 2 ms (R206). -/
  | thermalHoldTimeout (site : Nat)
  /-- An uncorrectable error poisons len bytes at pa (R417). -/
  | uncorrectableMemoryError (pa len : Nat)
  /-- A corrected error is counted (R381). -/
  | correctedMemoryError (site pa : Nat)
  /-- A test strip starts on a core (R272). -/
  | testStrip (core : Nat)
  /-- A test strip ends with the failing sub-arrays given (R273). -/
  | testStripComplete (core : Nat) (failed : W16)
  /-- The slice decodes a word that is no instruction; delta: its byte offset in the unit (R55). -/
  | illegalEncoding (why : Reject) (delta : BitVec 4)
  /-- A write to LFE_CREAD (R114). -/
  | lfeCreadWrite (fn q : Nat) (v : W64)
  /-- Host software unmasks an MSI-X vector (R365). -/
  | vectorUnmask (fn vec : Nat)
  /-- Firmware answers a walker's translation fault (R102). -/
  | walkerTranslationFaultAnswer (p : Nat) (resume : Bool)
  /-- A fabric flit arrives from package src (R322). -/
  | fabricFlitArrival (src : Nat) (flit : Flit)
  /-- A fabric port is lost after retrains (R383). -/
  | fabricPortLost (port : Nat)
  /-- The holding time of the newest issued entry of a queue ends (R242). -/
  | unitHoldingEnd (t q : Nat) (hs : Bool)
  /-- RET (R170). -/
  | ret
  /-- TEND (R172). -/
  | tend
  /-- CBCLR (R323). -/
  | cbclr
  /-- JOIN (R327). -/
  | join
  /-- LAUNCH (R135). -/
  | launch
  /-- ERET (R374). -/
  | eret
  /-- YIELD (R375). -/
  | yield
  /-- NOP (R27). -/
  | nop
  /-- The slice of the task routes the unit at its pc (R155). -/
  | route
  /-- One reduction group of the running MMA of the task completes (R270). -/
  | mmaMicroStep
  /-- The instruction-cache fill that the task waits for completes (R153). -/
  | icacheFill
  /-- The page-table walk of the task finishes (R190). -/
  | translationWalkComplete
  /-- The task reaches its cycle bound (R95). -/
  | taskCycleBound
  /-- The YIELD of the task ends (R375). -/
  | yieldEnd
  /-- A routed fault of the task reaches the slice (R347). -/
  | routedFaultArrival
  /-- The drain of the task is done and the trap is entered (R350). -/
  | trapEntry
  /-- The drain for a firmware-taken fault is done (R355). -/
  | firmwareSwitchOut
  /-- Firmware answers resume (R355). -/
  | firmwareFaultResume
  /-- Firmware answers fatal (R355). -/
  | firmwareFaultFatal
  /-- The drain of the victim is done and the newcomer takes its context (R357). -/
  | preEmptionSwitch
  /-- The registers of the task are written and it starts (R152). -/
  | taskStart
  /-- The task retires (R377). -/
  | taskRetire
  /-- The packet becomes a head, is decoded and its wait list evaluated (R117). -/
  | packetHead
  /-- The residency and post-residency checks of the packet finish (R119). -/
  | residencyCheck
  /-- The LFE dispatches the packet (R117). -/
  | dispatch
  /-- The pulled ticket of the task arrives at its core (R138). -/
  | ticketArrival
  /-- A topology-table read of the packet completes (R102). -/
  | walkerRead
  /-- The packet completes and its record body is issued when there is space (R114). -/
  | packetComplete
  /-- Bytes 8 to 31 of the completion record are performed (R420). -/
  | completionBodyPerformed
  /-- Bytes 0 to 7 are performed and the signal list is applied (R420). -/
  | completionHeaderPerformed
  /-- The interrupt event of the packet is raised (R365). -/
  | interruptEvent
  /-- The command leaves QUEUED (R291). -/
  | commandDequeue
  /-- The command becomes RUNNING (R291). -/
  | commandStart
  /-- One element of the command is applied (R292). -/
  | commandElement
  /-- Firmware answers resume for the held command (R317). -/
  | engineFaultResume
  /-- Firmware answers fatal for the held command (R318). -/
  | engineFaultFatal
  /-- The command ends after its last element (R291). -/
  | commandEnd
  /-- The elements of the COPY command are applied (R301). -/
  | copy
  /-- The elements of the ACCW command are applied (R303). -/
  | accw
  /-- The pairs of the ROTATE command are applied (R306). -/
  | rotate
  /-- The SCAN command selects and writes its pairs (R307). -/
  | scan
  /-- A pending fill is cancelled by its deadline (R309). -/
  | prefetchDeadlineCancel
  /-- The elements of the FILL command are applied (R311). -/
  | fill
  /-- The SIGNAL command applies its signal entry (R312). -/
  | signal
  /-- The RTE command hands its job to the routing engine (R313). -/
  | rte
  /-- The REMOTE COPY command sends its elements (R314). -/
  | remoteCopy
  /-- The REMOTE ACCW command sends its elements (R314). -/
  | remoteAccw
  /-- The REMOTE SIGNAL command sends its signal (R314). -/
  | remoteSignal
  /-- The slice decodes a prefix that cannot bind (R44). -/
  | orphanPrefix
  deriving DecidableEq, Repr

end Sys2Proof
end

