-- ==== Sys2Proof/WellFormed.lean ====
section
/-! DEFINITION. Well-formed instructions: what the encoding can hold and the parameters that a step of the device can
have. A well-formed instruction with words is one that the decoder can produce. -/

namespace Sys2Proof

/-- A prefix that the payload rules of R38 to R43 allow. -/
def Pfx.wf : Pfx → Bool
  | .pxm nan sat rnd => nan != 3 && sat != 3 && decide (rnd.toNat ≤ 5)
  | .pxc _ n src => src == 0 || n == 0
  | .pxp => true
  | .pxr _ _ => true
  | .pxo _ => true
  | .pxs mode => mode != 3

/-- Kind number of a prefix (R37). -/
def Pfx.kind : Pfx → Nat
  | .pxm .. => 0 | .pxc .. => 1 | .pxp => 2 | .pxr .. => 3 | .pxo .. => 4 | .pxs .. => 5

/-- A prefix is absent, or well formed and of a kind in the list. -/
def pfxIn (ks : List Nat) : Option Pfx → Bool
  | none => true
  | some p => p.wf && ks.contains p.kind

/-- A 10-bit vector field is not in the reserved range 773 to 783, an illegal encoding wherever a vector register field stands (R51): that is
looked at before the operands are (R57), so it comes first where R236, R257 and others make the remaining codes illegal operands. -/
def vok (v : VField) : Bool := decide (v.toNat < 773) || decide (783 < v.toNat)

/-- Which source fields of a V4 instruction are in use: va, vb, vc. -/
def V4.srcs (f : V4) (a b c : Bool) : Bool :=
  (if a then vok f.va else f.va == 0) && (if b then vok f.vb else f.vb == 0) && (if c then vok f.vc else f.vc == 0)

/-- Common check of a V4 instruction: prefix kinds, type code, destination, sources. -/
def V4.wf (ks : List Nat) (a b c : Bool) (f : V4) : Bool :=
  pfxIn ks f.pfx && f.ty != 15 && vok f.vd && f.srcs a b c

def VM.wf (f : VM) : Bool := pfxIn [1, 2, 3, 4] f.pfx && f.ty != 15 && vok f.v

/-- Indexed tail (R30): bits [63:59] zero, and an index register field. -/
def VM.wfIndexed (f : VM) : Bool := f.wf && decide (f.tail.toNat < 1024) && vok (f.tail.setWidth 10)

/-- Nameless tail (R30). -/
def VM.wfNameless (f : VM) : Bool :=
  f.wf && f.h == 0 && f.xo == 0 && decide (f.tail.toNat < 64) && f.tail.setWidth 2 != (3 : BitVec 2)

/-- Fields of a tile instruction that must hold zero (R228): consuming bit, n12, tr, handle, class, xa, xb. -/
def TL.wf (c n tr h cls xa xb : Bool) (f : TL) : Bool :=
  pfxIn [2, 4] f.pfx && (c || f.c == 0) && (n || f.n12 == 0) && (if tr then f.tr != 3 else f.tr == 0) && (h || f.h == 0) &&
    (cls || f.cls == 0) && (xa || f.xa == 0) && (xb || f.xb == 0)

/-- VLDT and VLDX hold vd in n12[9:0] (R31, R234). -/
def TL.wfVd (f : TL) : Bool := decide (f.n12.toNat < 1024) && vok (f.n12.setWidth 10)

/-- TWR holds va in bits 42 to 33 (R228). -/
def TL.va (f : TL) : VField := BitVec.ofNat 10 (f.xb.toNat % 16 * 64 + f.xa.toNat)

def MX.wf (f : MX) : Bool := pfxIn [0, 2, 3] f.pfx && f.ty != 15 && vok f.va && vok f.vb

/-- The tile fields of ACCZ, ACCLD and ACCRD must hold zero (R276). -/
def MX.noTiles (f : MX) : Bool := f.ta == 0 && f.ac == 0 && f.tb == 0 && f.bc == 0

/-- VCVT has a scaled type on one side (R281). -/
def V4.scaled (f : V4) : Bool :=
  (f.ty == 3 || f.ty == 4 || f.ty == 5) || (f.vc == 3 || f.vc == 4 || f.vc == 5)

/-- Under PXS unit the scale operand field must hold zero (R43). -/
def V4.unitOk (f : V4) : Bool := f.pfx != some (.pxs 1) || f.vb == 0

/-- Mask, row and column fields of a CQPM immediate against its kind, and the second register (R174). -/
def cqpmOk (kind : BitVec 2) (r0 : BitVec 5) (c0 : BitVec 10) (b : Reg) : Bool :=
  (r0 == 0 || kind == 1 || kind == 3) && (c0 == 0 || kind == 2 || kind == 3) && (b == 0 || kind == 3)

/-- Well-formedness of every instruction and step. Modes 1 and 2 of VRET hold 0 in their type, of which R262 says only that it is a field
that holds 0: another type is a reserved field, cause 0x01, and no type outside R33's accepted ones, cause 0x03 (DESIGN CHOICE, log 49). -/
def Instr.wf : Instr → Bool
  | .add .. | .sub .. | .mul .. | .mulh .. | .mulhu .. | .div .. | .divu .. | .rem .. | .remu .. | .and .. | .or .. | .xor ..
  | .shl .. | .shr .. | .sar .. | .min .. | .max .. | .minu .. | .maxu .. | .slt .. | .sltu .. | .seq .. | .clz .. | .ctz ..
  | .popc .. | .sel .. | .idx2 .. | .idx3 .. | .bclamp .. | .alignup .. | .addi .. | .andi .. | .ori .. | .xori .. | .shli ..
  | .shri .. | .sari .. | .liShort .. | .br .. | .beq .. | .bne .. | .blt .. | .bge .. | .bltu .. | .bgeu .. | .brt ..
  | .brtNz .. | .brtZ .. | .call .. | .ret | .loop .. | .endl .. | .tend | .cqp .. | .cqpb .. | .rqpop .. | .npop ..
  | .qdepth .. | .xlt .. | .xltn .. | .hrel .. | .hchk .. | .nrel .. | .shand .. | .tsettle .. | .tstat .. | .tstatP ..
  | .cbw .. | .cbclr | .cego .. | .cegoT .. | .cepop .. | .semw .. | .sems .. | .semrd .. | .join | .launch | .trap .. | .eret
  | .srd .. | .swr .. | .yield | .baro .. | .nop | .li .. | .lih .. | .pbr .. | .bnd .. | .fmtp .. | .fenceC .. | .fenceM ..
  | .ldb .. | .ldbs .. | .ldh .. | .ldhs .. | .ldw .. | .ldws .. | .ldd .. | .stb .. | .sth .. | .stw .. | .std .. => true
  | .cqpm _ _ b kind r0 c0 => cqpmOk kind r0 c0 b
  | .vadd f | .vsub f | .vmul f | .vmin f | .vmax f | .vsel f => f.wf [0, 1, 2, 3] true true false
  | .vfma f | .vfnma f | .vclamp f => f.wf [0, 1, 2, 3] true true true
  | .vabs f | .vneg f | .vmov f => f.wf [0, 1, 2, 3] true false false
  | .vexp2 f | .vlog2 f | .vrcp f | .vrsq f => f.wf [0, 1, 2, 3] true false false
  | .vcmp _ f => pfxIn [1, 2, 3] f.pfx && f.ty != 15 && f.srcs true true false
  | .viadd f | .visub f | .vimul f | .vand f | .vor f | .vxor f | .vshl f | .vshr f | .vsar f | .vimin f | .vimax f =>
    f.wf [0, 1, 2, 3] true true false
  | .vimad f => f.wf [0, 1, 2, 3] true true true
  | .vnot f => f.wf [0, 1, 2, 3] true false false
  | .vrmax f | .vrmin f | .vrsum f | .vcsum f | .vrscan f => f.wf [0, 1, 2, 3] true false false
  | .vshuf f => f.wf [1, 2, 3] true true false
  | .vrot f => pfxIn [1, 2, 3] f.pfx && f.ty != 15 && vok f.vd && vok f.va && vok f.vb && f.vc == 0
  | .vtrn f => f.wf [1, 2, 3] true false false
  | .vmsk f => pfxIn [1, 2, 3] f.pfx && f.ty != 15 && f.mask == 0 && ((f.vc != 4 && f.vc != 5) || f.vb == 0)
  | .vmaskq f => pfxIn [1, 2, 3] f.pfx && f.ty != 15 && f.srcs false false false
  | .vdefer f => f.wf [2] true true true
  | .vdrain f => pfxIn [2] f.pfx && f.ty != 15 && vok f.vd && f.vb == 0 && f.vc == 0
  | .vret f => pfxIn [2] f.pfx && f.ty != 15 && f.vd == 0 && f.vb == 0 && ((f.vc != 1 && f.vc != 2) || (f.va == 0 && f.ty == 0)) &&
      (f.vc != 0 || vok f.va)
  | .vcvt f => pfxIn [0, 1, 2, 3, 5] f.pfx && f.ty != 15 && vok f.vd && vok f.va && vok f.vb && (f.scaled || f.vb == 0) && f.unitOk
  | .vqnt f => pfxIn [0, 1, 2, 3, 5] f.pfx && f.ty != 15 && vok f.vd && f.srcs true true true && f.unitOk
  | .vld f | .vlds f | .vst f | .vsts f => f.wf
  | .vgath f | .vscat f => f.wfIndexed
  | .nstv f => f.wfNameless
  | .tfetch f | .twin f => f.wf false true true true true true true
  | .tadv f => f.wf false false false false false false false
  | .tshare f => f.wf false false false false false true true
  | .tunpark f => f.wf false false false false false true false
  | .vldt f => f.wf true true false false false true false && f.wfVd
  | .vldx f => f.wf true true false false false true true && f.wfVd
  | .tpark f => f.wf false false false false true false false
  | .twr f => f.wf false true false false false true true && decide (f.xb.toNat < 16) && vok f.va
  | .twb f => f.wf true false false true true true true
  | .mma f => f.wf
  | .accz f => f.wf && f.noTiles && f.va == 0 && f.vb == 0 && f.ty == 0
  | .accld f => f.wf && f.noTiles && f.vb == 0
  | .accrd f => f.wf && f.noTiles
  | .entryComplete _ q _ | .queueStall _ q _ | .unitHoldingEnd _ q _ => decide (q < 3)
  | .tileFillComplete core slot => decide (core < 192) && decide (slot < 64)
  | .unitSaveComplete core unit | .unitRestoreComplete core unit => decide (core < 192) && decide (unit < 82)
  | .firmwareIdlePointSwitch core | .firmwareSwitchTimeout core | .ticketRequest core | .testStrip core
  | .testStripComplete core _ => decide (core < 192)
  | .nameBlockFree site chan _ => decide (site < 8) && decide (chan < 32)
  | .registerWrite fn _ _ | .barographFreeze fn | .barographUnfreeze fn | .mailboxNotify fn _ | .loadSlot fn | .unloadSlot fn
  | .revokeRange fn | .setArenaQuota fn | .siteRight fn | .assignResource fn | .clearPins fn | .stageFirmwareImage fn _ _
  | .startFirmwareHandOver fn | .discardStagedImage fn | .attestationReport fn | .readIdentityPublicKey fn
  | .packageColdReset fn => decide (fn < 64)
  | .queueEnable fn q _ | .queueReset fn q _ | .queueNotify fn q _ | .withdrawal fn q _ | .lfeKill fn q _ | .lfeCreadWrite fn q _ =>
    decide (fn < 64) && decide (q < 2048)
  | .semaphoreWrite fn file n _ => decide (fn < 64) && decide (file < 512) && decide (n < 256)
  | .functionLevelReset fn f => decide (fn < 64) && decide (f < 64)
  | .dieWarmReset fn die => decide (fn < 64) && decide (die < 2)
  | .dieWarmResetComplete die | .dieWarmResetTimeout die | .childPoolRefill die | .rtePhase1Complete die => decide (die < 2)
  | .slotLoadComplete n => decide (n < 256)
  | .recordRead q => decide (q < 2048)
  | .walkerRecordHandout _ core => decide (core < 192)
  | .interruptHoldOffExpiry fn vec | .vectorUnmask fn vec => decide (fn < 64) && decide (vec < 2048)
  | .fabricLinkRetrain port | .fabricPortLost port => decide (port < 96)
  | .handoverDraining site | .handoverWritingBack site | .handoverSwitching site | .handoverComplete site | .swap site _
  | .swapComplete site | .decayPeriod site | .selfRefreshEntry site | .selfRefreshExit site | .thermalHoldTimeout site
  | .correctedMemoryError site _ => decide (site < 8)
  | .accessPerformed _ _ part => decide (part.stream < 8)
  | .route | .mmaMicroStep | .loadDataReturn .. | .icacheFill | .translationWalkComplete
  | .namePush .. | .taskCycleBound | .yieldEnd | .routedFaultArrival | .trapEntry | .firmwareSwitchOut
  | .firmwareFaultResume | .firmwareFaultFatal | .preEmptionSwitch | .taskStart | .taskRetire | .revocationComplete _
  | .packetHead | .residencyCheck | .dispatch | .ticketArrival | .walkerRead | .packetComplete
  | .completionBodyPerformed | .completionHeaderPerformed | .interruptEvent | .semaphoreSignal _ | .commandDequeue
  | .commandStart | .commandElement | .engineFaultResume | .engineFaultFatal | .commandEnd | .copy | .accw
  | .rotate | .scan | .prefetch _ | .prefetchDeadlineCancel | .fill | .signal | .rte | .remoteCopy | .remoteAccw
  | .remoteSignal | .uncorrectableMemoryError .. | .walkerTranslationFaultAnswer .. => true
  | .illegalEncoding _ delta => delta == 0 || delta == 4
  | .orphanPrefix => true
  | .fabricFlitArrival src _ => decide (src < 4096)

end Sys2Proof
end

