-- ==== Sys2Proof/Decode.lean ====
section
/-! DEFINITION. The decoder: words to an instruction, or to the step that raises illegal encoding or orphan prefix, in the
order of R57 (steps 2 and 3). After it stands the encoder. Static operand limits and privilege (steps 4 and 5) depend on
the context that issues, so they belong to the meanings. -/

namespace Sys2Proof

/-- Bits hi to lo of w (R60). -/
def bits (w hi lo : Nat) : Nat := w / 2 ^ lo % 2 ^ (hi + 1 - lo)

/-- The n-bit field of w that begins at bit lo. -/
def fld (n w lo : Nat) : BitVec n := BitVec.ofNat n (w / 2 ^ lo)

/-- The word of four bytes, least significant first (R22). -/
def wordOfBytes : List Byte → Nat
  | [] => 0
  | b :: r => b.toNat + 256 * wordOfBytes r

/-- A word as its bytes, least significant first: n bytes. -/
def bytesOf : Nat → Nat → List Byte
  | 0, _ => []
  | n + 1, w => BitVec.ofNat 8 w :: bytesOf n (w / 256)

/-- Result of a decoding step: an instruction, or why the word is none. -/
abbrev Dec := Except Reject Instr

/-- The fields that must be zero hold n; go on if n is 0 (R25). -/
def mustZero (n : Nat) (k : Dec) : Dec := if n = 0 then k else .error .reserved

/-- An instruction that must be well formed to be one: its reserved fields are zero (R25). -/
def checked (i : Instr) : Dec := if i.wf then .ok i else .error .reserved

/-- A prefix word (R37 to R43). -/
def decPfx (w : Nat) : Except Reject Pfx :=
  let ok (p : Pfx) (top : Nat) : Except Reject Pfx := if p.wf && w / 2 ^ top == 0 then .ok p else .error .reserved
  match bits w 5 2 with
  | 0 => ok (.pxm (fld 2 w 11) (fld 2 w 9) (fld 3 w 6)) 13
  | 1 => ok (.pxc (fld 1 w 21) (fld 14 w 7) (fld 1 w 6)) 22
  | 2 => ok .pxp 6
  | 3 => ok (.pxr (fld 6 w 6) (fld 5 w 12)) 17
  | 4 => ok (.pxo (fld 4 w 6)) 10
  | 5 => ok (.pxs (fld 2 w 6)) 8
  | _ => .error .opcode

/-- The 32-bit map (R55). xd, xa, xb and the minor are the fields of S3 (R26). -/
def dec32 (w : Nat) : Dec :=
  let xd : Reg := fld 6 w 8
  let xa : Reg := fld 6 w 14
  let xb : Reg := fld 6 w 20
  let i12 : BitVec 12 := fld 12 w 20
  let hd : BitVec 5 := fld 5 w 8
  match bits w 7 2 with
  | 0x01 =>
    match bits w 31 26 with
    | 0 => .ok (.add xd xa xb)
    | 1 => .ok (.sub xd xa xb)
    | 2 => .ok (.mul xd xa xb)
    | 3 => .ok (.mulh xd xa xb)
    | 4 => .ok (.mulhu xd xa xb)
    | 5 => .ok (.div xd xa xb)
    | 6 => .ok (.divu xd xa xb)
    | 7 => .ok (.rem xd xa xb)
    | 8 => .ok (.remu xd xa xb)
    | 9 => .ok (.and xd xa xb)
    | 10 => .ok (.or xd xa xb)
    | 11 => .ok (.xor xd xa xb)
    | 12 => .ok (.shl xd xa xb)
    | 13 => .ok (.shr xd xa xb)
    | 14 => .ok (.sar xd xa xb)
    | 15 => .ok (.min xd xa xb)
    | 16 => .ok (.max xd xa xb)
    | 17 => .ok (.minu xd xa xb)
    | 18 => .ok (.maxu xd xa xb)
    | 19 => .ok (.slt xd xa xb)
    | 20 => .ok (.sltu xd xa xb)
    | 21 => .ok (.seq xd xa xb)
    | 22 => mustZero (bits w 25 20) (.ok (.clz xd xa))
    | 23 => mustZero (bits w 25 20) (.ok (.ctz xd xa))
    | 24 => mustZero (bits w 25 20) (.ok (.popc xd xa))
    | 25 => .ok (.sel xd xa xb)
    | 26 => .ok (.idx2 xd xa xb)
    | 27 => .ok (.idx3 xd xa xb)
    | 28 => .ok (.bclamp xd xa xb)
    | 29 => .ok (.alignup xd xa xb)
    | _ => .error .opcode
  | 0x02 => .ok (.addi xd xa i12)
  | 0x03 => .ok (.andi xd xa i12)
  | 0x04 => .ok (.ori xd xa i12)
  | 0x05 => .ok (.xori xd xa i12)
  | 0x06 => .ok (.shli xd xa i12)
  | 0x07 => .ok (.shri xd xa i12)
  | 0x08 => .ok (.sari xd xa i12)
  | 0x09 => mustZero (bits w 19 14) (.ok (.liShort xd i12))
  | 0x0A => .ok (.br (fld 24 w 8))
  | 0x0B => .ok (.beq xd xa i12)
  | 0x0C => .ok (.bne xd xa i12)
  | 0x0D => .ok (.blt xd xa i12)
  | 0x0E => .ok (.bge xd xa i12)
  | 0x0F => .ok (.bltu xd xa i12)
  | 0x10 => .ok (.bgeu xd xa i12)
  | 0x11 =>
    match bits w 31 26 with
    | 0 => mustZero (bits w 25 14) (.ok (.brt xd))
    | 1 => mustZero (bits w 25 20) (.ok (.brtNz xd xa))
    | 2 => mustZero (bits w 25 20) (.ok (.brtZ xd xa))
    | _ => .error .opcode
  | 0x12 => .ok (.call (fld 24 w 8))
  | 0x13 => mustZero (bits w 31 8) (.ok .ret)
  | 0x14 => .ok (.loop xd xa i12)
  | 0x15 => mustZero (bits w 19 14) (.ok (.endl xd i12))
  | 0x16 => mustZero (bits w 31 8) (.ok .tend)
  | 0x17 =>
    match bits w 31 26 with
    | 0 => mustZero (bits w 25 20) (.ok (.cqp xd xa))
    | 1 => mustZero (bits w 25 20) (.ok (.cqpb xd xa))
    | 2 => mustZero (bits w 25 14) (.ok (.rqpop xd))
    | 3 => mustZero (bits w 25 14) (.ok (.npop xd))
    | 4 => mustZero (bits w 19 14) (.ok (.qdepth xd xb))
    | _ => .error .opcode
  | 0x18 =>
    match bits w 31 26 with
    | 0 => mustZero (bits w 13 13) (.ok (.xlt hd xa xb))
    | 1 => mustZero (bits w 13 13 + bits w 25 20) (.ok (.xltn hd xa))
    | 2 => mustZero (bits w 13 13 + bits w 25 14) (.ok (.hrel hd))
    | 3 => mustZero (bits w 19 19) (.ok (.hchk xd (fld 5 w 14) xb))
    | 4 => mustZero (bits w 13 8 + bits w 25 20) (.ok (.nrel xa))
    | 5 => mustZero (bits w 13 8) (.ok (.shand xa xb))
    | _ => .error .opcode
  | 0x19 =>
    match bits w 31 26 with
    | 0 => .ok (.tsettle xd xa xb)
    | 1 =>
      match bits w 25 20 with
      | 0 => .ok (.tstat xd xa)
      | 1 => mustZero (bits w 19 14) (.ok (.tstatP xd))
      | _ => .error .operand
    | _ => .error .opcode
  | 0x1A =>
    match bits w 31 26 with
    | 0 => mustZero (bits w 25 20) (.ok (.cbw xd xa))
    | 1 => mustZero (bits w 25 8) (.ok .cbclr)
    | _ => .error .opcode
  | 0x1B =>
    match bits w 24 24 with
    | 0 => mustZero (bits w 31 25 + bits w 19 14) (.ok (.cego xd (fld 4 w 20)))
    | _ => mustZero (bits w 31 25) (.ok (.cegoT xd xa (fld 4 w 20)))
  | 0x1C => mustZero (bits w 31 24 + bits w 19 14) (.ok (.cepop xd (fld 4 w 20)))
  | 0x1D => mustZero (bits w 31 28) (.ok (.semw xd xa (fld 8 w 20)))
  | 0x1E => mustZero (bits w 31 28) (.ok (.sems xd xa (fld 8 w 20)))
  | 0x1F => mustZero (bits w 31 28 + bits w 19 14) (.ok (.semrd xd (fld 8 w 20)))
  | 0x20 => mustZero (bits w 31 8) (.ok .join)
  | 0x21 => mustZero (bits w 31 8) (.ok .launch)
  | 0x22 => mustZero (bits w 19 8) (.ok (.trap i12))
  | 0x23 => mustZero (bits w 31 8) (.ok .eret)
  | 0x24 => mustZero (bits w 19 14) (.ok (.srd xd i12))
  | 0x25 => mustZero (bits w 13 8) (.ok (.swr xa i12))
  | 0x26 => mustZero (bits w 31 8) (.ok .yield)
  | 0x27 => mustZero (bits w 13 8) (.ok (.baro xa i12))
  | 0x3F => mustZero (bits w 31 8) (.ok .nop)
  | _ => .error .opcode

/-- The class of a bound PXO prefix (R42). Another kind does not bind to an SM instruction. -/
def pxoOf : Option Pfx → Option (BitVec 4)
  | some (.pxo c) => some c
  | _ => none

def decSM (p : Option Pfx) (w : Nat) : SM :=
  { pfx := pxoOf p, cls := fld 4 w 25, h := fld 5 w 20, xo := fld 6 w 14, x := fld 6 w 8, imm := fld 32 w 32 }

def decV4 (p : Option Pfx) (w : Nat) : V4 :=
  { pfx := p, tok := fld 4 w 8, mask := fld 4 w 16, ty := fld 4 w 20, vd := fld 10 w 24, va := fld 10 w 34, vb := fld 10 w 44,
    vc := fld 10 w 54 }

def decVM (p : Option Pfx) (w : Nat) : VM :=
  { pfx := p, tok := fld 4 w 8, mask := fld 4 w 16, ty := fld 4 w 20, cls := fld 4 w 24, h := fld 5 w 28, xo := fld 6 w 33,
    v := fld 10 w 39, tail := fld 15 w 49 }

def decTL (p : Option Pfx) (w : Nat) : TL :=
  { pfx := p, tok := fld 4 w 8, ta := fld 6 w 16, c := fld 1 w 22, hint := fld 1 w 23, cls := fld 4 w 24, h := fld 5 w 28,
    xa := fld 6 w 33, xb := fld 6 w 39, n12 := fld 12 w 45, tr := fld 2 w 57 }

def decMX (p : Option Pfx) (w : Nat) : MX :=
  { pfx := p, tok := fld 4 w 8, acc := fld 3 w 16, hint := fld 1 w 19, ta := fld 6 w 20, ac := fld 1 w 26, tb := fld 6 w 27,
    bc := fld 1 w 33, va := fld 10 w 34, vb := fld 10 w 44, mask := fld 4 w 54, ty := fld 4 w 58 }

/-- Prefix kinds that a major of the 64-bit map accepts (R56). -/
def kindsOf : Nat → List Nat
  | 0x02 | 0x03 => [4]
  | 0x10 | 0x11 | 0x13 | 0x14 => [0, 1, 2, 3]
  | 0x12 | 0x15 => [1, 2, 3]
  | 0x16 => [2]
  | 0x17 => [0, 1, 2, 3, 5]
  | 0x18 | 0x19 => [1, 2, 3, 4]
  | 0x1A | 0x1B => [2, 4]
  | 0x1C => [0, 2, 3]
  | _ => []

/-- The prefix that the major accepts; another one is dropped here and refused by the binding rule (R44). -/
def bindable (major : Nat) (p : Option Pfx) : Option Pfx := p.filter fun q => (kindsOf major).contains q.kind

/-- The 64-bit map (R56): w is the second word times 2^32 plus the first. -/
def dec64 (p0 : Option Pfx) (w : Nat) : Dec :=
  let p := bindable (bits w 7 2) p0
  let xd : Reg := fld 6 w 8
  let xa : Reg := fld 6 w 14
  let xb : Reg := fld 6 w 20
  let imm : W32 := fld 32 w 32
  match bits w 7 2 with
  | 0x01 =>
    match bits w 31 26 with
    | 0 => mustZero (bits w 25 14) (.ok (.li xd imm))
    | 1 => mustZero (bits w 25 14) (.ok (.lih xd imm))
    | _ => .error .opcode
  | 0x02 =>
    match bits w 31 29 with
    | 0 => .ok (.ldb (decSM p w))
    | 1 => .ok (.ldbs (decSM p w))
    | 2 => .ok (.ldh (decSM p w))
    | 3 => .ok (.ldhs (decSM p w))
    | 4 => .ok (.ldw (decSM p w))
    | 5 => .ok (.ldws (decSM p w))
    | 6 => .ok (.ldd (decSM p w))
    | _ => .error .opcode
  | 0x03 =>
    match bits w 31 29 with
    | 0 => .ok (.stb (decSM p w))
    | 1 => .ok (.sth (decSM p w))
    | 2 => .ok (.stw (decSM p w))
    | 3 => .ok (.std (decSM p w))
    | _ => .error .opcode
  | 0x04 => mustZero (bits w 31 14) (.ok (.pbr xd imm))
  | 0x05 =>
    match bits w 31 26 with
    | 0 => mustZero (bits w 46 32) (checked (.cqpm xd xa xb (fld 2 w 62) (fld 5 w 57) (fld 10 w 47)))
    | 1 => mustZero (bits w 25 14) (.ok (.bnd xd imm))
    | _ => .error .opcode
  | 0x06 => mustZero (bits w 13 8 + bits w 31 20 + bits w 63 42) (.ok (.fmtp xa (fld 10 w 32)))
  | 0x07 => mustZero (bits w 31 8 + bits w 63 51) (.ok (.fenceC (fld 3 w 48) (fld 16 w 32)))
  | 0x08 => mustZero (bits w 31 8 + bits w 47 35) (.ok (.fenceM (fld 3 w 32) (fld 16 w 48)))
  | 0x10 =>
    match bits w 15 12 with
    | 0 => checked (.vadd (decV4 p w))
    | 1 => checked (.vsub (decV4 p w))
    | 2 => checked (.vmul (decV4 p w))
    | 3 => checked (.vfma (decV4 p w))
    | 4 => checked (.vfnma (decV4 p w))
    | 5 => checked (.vmin (decV4 p w))
    | 6 => checked (.vmax (decV4 p w))
    | 7 => checked (.vabs (decV4 p w))
    | 8 => checked (.vneg (decV4 p w))
    | 9 => checked (.vclamp (decV4 p w))
    | 10 => checked (.vmov (decV4 p w))
    | 11 => checked (.vsel (decV4 p w))
    | _ => .error .opcode
  | 0x11 =>
    match bits w 15 12 with
    | 0 => checked (.vexp2 (decV4 p w))
    | 1 => checked (.vlog2 (decV4 p w))
    | 2 => checked (.vrcp (decV4 p w))
    | 3 => checked (.vrsq (decV4 p w))
    | _ => .error .opcode
  | 0x12 => if bits w 15 15 = 0 then checked (.vcmp (fld 3 w 12) (decV4 p w)) else .error .opcode
  | 0x13 =>
    match bits w 15 12 with
    | 0 => checked (.viadd (decV4 p w))
    | 1 => checked (.visub (decV4 p w))
    | 2 => checked (.vimul (decV4 p w))
    | 3 => checked (.vimad (decV4 p w))
    | 4 => checked (.vand (decV4 p w))
    | 5 => checked (.vor (decV4 p w))
    | 6 => checked (.vxor (decV4 p w))
    | 7 => checked (.vnot (decV4 p w))
    | 8 => checked (.vshl (decV4 p w))
    | 9 => checked (.vshr (decV4 p w))
    | 10 => checked (.vsar (decV4 p w))
    | 11 => checked (.vimin (decV4 p w))
    | 12 => checked (.vimax (decV4 p w))
    | _ => .error .opcode
  | 0x14 =>
    match bits w 15 12 with
    | 0 => checked (.vrmax (decV4 p w))
    | 1 => checked (.vrmin (decV4 p w))
    | 2 => checked (.vrsum (decV4 p w))
    | 3 => checked (.vcsum (decV4 p w))
    | 4 => checked (.vrscan (decV4 p w))
    | _ => .error .opcode
  | 0x15 =>
    match bits w 15 12 with
    | 0 => checked (.vshuf (decV4 p w))
    | 1 => checked (.vrot (decV4 p w))
    | 2 => checked (.vtrn (decV4 p w))
    | 3 => checked (.vmsk (decV4 p w))
    | 4 => checked (.vmaskq (decV4 p w))
    | _ => .error .opcode
  | 0x16 =>
    match bits w 15 12 with
    | 0 => checked (.vdefer (decV4 p w))
    | 1 => checked (.vdrain (decV4 p w))
    | 2 => checked (.vret (decV4 p w))
    | _ => .error .opcode
  | 0x17 =>
    match bits w 15 12 with
    | 0 => checked (.vcvt (decV4 p w))
    | 1 => checked (.vqnt (decV4 p w))
    | _ => .error .opcode
  | 0x18 =>
    match bits w 15 12 with
    | 0 => checked (.vld (decVM p w))
    | 1 => checked (.vlds (decVM p w))
    | 2 => checked (.vgath (decVM p w))
    | _ => .error .opcode
  | 0x19 =>
    match bits w 15 12 with
    | 0 => checked (.vst (decVM p w))
    | 1 => checked (.vsts (decVM p w))
    | 2 => checked (.vscat (decVM p w))
    | 3 => checked (.nstv (decVM p w))
    | _ => .error .opcode
  | 0x1A =>
    match bits w 15 12 with
    | 0 => mustZero (bits w 63 59) (checked (.tfetch (decTL p w)))
    | 1 => mustZero (bits w 63 59) (checked (.twin (decTL p w)))
    | 2 => mustZero (bits w 63 59) (checked (.tadv (decTL p w)))
    | 3 => mustZero (bits w 63 59) (checked (.tshare (decTL p w)))
    | 4 => mustZero (bits w 63 59) (checked (.tunpark (decTL p w)))
    | 5 => mustZero (bits w 63 59) (checked (.vldt (decTL p w)))
    | 6 => mustZero (bits w 63 59) (checked (.vldx (decTL p w)))
    | _ => .error .opcode
  | 0x1B =>
    match bits w 15 12 with
    | 0 => mustZero (bits w 63 59) (checked (.tpark (decTL p w)))
    | 1 => mustZero (bits w 63 59) (checked (.twr (decTL p w)))
    | 2 => mustZero (bits w 63 59) (checked (.twb (decTL p w)))
    | _ => .error .opcode
  | 0x1C =>
    match bits w 15 12 with
    | 0 => mustZero (bits w 63 62) (checked (.mma (decMX p w)))
    | 1 => mustZero (bits w 63 62) (checked (.accz (decMX p w)))
    | 2 => mustZero (bits w 63 62) (checked (.accld (decMX p w)))
    | 3 => mustZero (bits w 63 62) (checked (.accrd (decMX p w)))
    | _ => .error .opcode
  | _ => .error .opcode

/-- The binding rule (R44): the prefix is of a kind that the major of the 64-bit word accepts. -/
def binds (p : Option Pfx) (w : Nat) : Bool := p.all fun q => (kindsOf (bits w 7 2)).contains q.kind

/-- Outcome of decoding a unit: an instruction and its length in bytes, or the offset of a word that is not there. -/
inductive Unit2 where
  | ok (i : Instr) (len : Nat)
  | missing (off : Nat)
  deriving DecidableEq, Repr

def rejected (why : Reject) (delta : BitVec 4) (len : Nat) : Unit2 := .ok (.illegalEncoding why delta) len

/-- The instruction that begins with word w at an address equal to 4 modulo 8 if odd; delta is its offset in the unit. A prefix behind a
prefix is an orphan whatever its own fields hold: the first cannot bind, and the second word is not checked (R44, R57 state no order of
the two; DESIGN CHOICE, log 49). -/
def decOne (p : Option Pfx) (odd : Bool) (w : Nat) (next : Option Nat) (delta : BitVec 4) : Unit2 :=
  let at0 := delta.toNat
  match w % 4 with
  | 0 =>
    match dec32 w with
    | .ok i => if p.isSome then .ok .orphanPrefix (at0 + 4) else .ok i (at0 + 4)
    | .error .operand => if p.isSome then .ok .orphanPrefix (at0 + 4) else rejected .operand delta (at0 + 4)
    | .error e => rejected e delta (at0 + 4)
  | 1 =>
    if odd then rejected .misaligned delta (at0 + 4)
    else
      match next with
      | none => .missing (at0 + 4)
      | some hi =>
        match dec64 p (w + 2 ^ 32 * hi) with
        | .ok i => if binds p w then .ok i (at0 + 8) else .ok .orphanPrefix (at0 + 8)
        | .error e => rejected e delta (at0 + 8)
  | 2 => .ok .orphanPrefix (at0 + 4)
  | _ => rejected .selector delta (at0 + 4)

/-- The unit that begins with word w0 (R57): the two words after it may lie outside the image. -/
def decodeUnit (odd : Bool) (w0 : Nat) (w1 w2 : Option Nat) : Unit2 :=
  match w0 % 4 with
  | 2 =>
    match decPfx w0 with
    | .error e => rejected e 0 4
    | .ok p =>
      match w1 with
      | none => .missing 4
      | some w => decOne (some p) (!odd) w w2 4
  | _ => decOne none odd w0 w1 0

/-- The next word of a list of bytes, if four are there, and the rest. -/
def takeWord : List Byte → Option Nat × List Byte
  | a :: b :: c :: d :: r => (some (wordOfBytes [a, b, c, d]), r)
  | _ => (none, [])

/-- Decode bytes that begin at an address equal to 4 modulo 8 if odd: total on any bytes. -/
def decodeBytes (odd : Bool) (bs : List Byte) : Unit2 :=
  let (w0, r0) := takeWord bs
  let (w1, r1) := takeWord r0
  let (w2, _) := takeWord r1
  match w0 with
  | none => .missing 0
  | some w => decodeUnit odd w w1 w2

/-- The instruction a unit decodes to, if it is one. -/
def Unit2.instr : Unit2 → Option Instr
  | .ok (.illegalEncoding ..) _ | .ok .orphanPrefix _ | .missing _ => none
  | .ok i _ => some i

/-- The decoder on an instruction of the opcode table, its bits numbered as the table numbers them: the words stand in
memory at an address equal to 0 modulo 8, least significant byte first, with zeros above the table's bits. -/
def decodeTableWord (nbits w : Nat) : Option Instr := (decodeBytes false (bytesOf 12 (w % 2 ^ nbits))).instr

/-! ### The encoder -/

/-- Word of a prefix (R37). -/
def encPfx : Pfx → Nat
  | .pxm nan sat rnd => 2 + 0 * 4 + rnd.toNat * 2 ^ 6 + sat.toNat * 2 ^ 9 + nan.toNat * 2 ^ 11
  | .pxc unit n src => 2 + 1 * 4 + src.toNat * 2 ^ 6 + n.toNat * 2 ^ 7 + unit.toNat * 2 ^ 21
  | .pxp => 2 + 2 * 4
  | .pxr first cnt => 2 + 3 * 4 + first.toNat * 2 ^ 6 + cnt.toNat * 2 ^ 12
  | .pxo c => 2 + 4 * 4 + c.toNat * 2 ^ 6
  | .pxs mode => 2 + 5 * 4 + mode.toNat * 2 ^ 6

/-- S3 (R26). -/
def encS3 (major minor xd xa xb : Nat) : Nat := major * 4 + xd * 2 ^ 8 + xa * 2 ^ 14 + xb * 2 ^ 20 + minor * 2 ^ 26

/-- SI, and SB with xa in [13:8] and xb in [19:14] (R26). -/
def encSI (major xd xa imm : Nat) : Nat := major * 4 + xd * 2 ^ 8 + xa * 2 ^ 14 + imm * 2 ^ 20

/-- SJ (R26). -/
def encSJ (major disp : Nat) : Nat := major * 4 + disp * 2 ^ 8

/-- SL (R28). -/
def encSL (major minor xd xa xb imm : Nat) : Nat :=
  1 + major * 4 + xd * 2 ^ 8 + xa * 2 ^ 14 + xb * 2 ^ 20 + minor * 2 ^ 26 + imm * 2 ^ 32

/-- SM (R28). -/
def encSM (major minor : Nat) (f : SM) : Nat :=
  1 + major * 4 + f.x.toNat * 2 ^ 8 + f.xo.toNat * 2 ^ 14 + f.h.toNat * 2 ^ 20 + f.cls.toNat * 2 ^ 25 + minor * 2 ^ 29 +
    f.imm.toNat * 2 ^ 32

/-- V4 (R29). -/
def encV4 (major minor : Nat) (f : V4) : Nat :=
  1 + major * 4 + f.tok.toNat * 2 ^ 8 + minor * 2 ^ 12 + f.mask.toNat * 2 ^ 16 + f.ty.toNat * 2 ^ 20 + f.vd.toNat * 2 ^ 24 +
    f.va.toNat * 2 ^ 34 + f.vb.toNat * 2 ^ 44 + f.vc.toNat * 2 ^ 54

/-- VM (R30). -/
def encVM (major minor : Nat) (f : VM) : Nat :=
  1 + major * 4 + f.tok.toNat * 2 ^ 8 + minor * 2 ^ 12 + f.mask.toNat * 2 ^ 16 + f.ty.toNat * 2 ^ 20 + f.cls.toNat * 2 ^ 24 +
    f.h.toNat * 2 ^ 28 + f.xo.toNat * 2 ^ 33 + f.v.toNat * 2 ^ 39 + f.tail.toNat * 2 ^ 49

/-- TL (R31). -/
def encTL (major minor : Nat) (f : TL) : Nat :=
  1 + major * 4 + f.tok.toNat * 2 ^ 8 + minor * 2 ^ 12 + f.ta.toNat * 2 ^ 16 + f.c.toNat * 2 ^ 22 + f.hint.toNat * 2 ^ 23 +
    f.cls.toNat * 2 ^ 24 + f.h.toNat * 2 ^ 28 + f.xa.toNat * 2 ^ 33 + f.xb.toNat * 2 ^ 39 + f.n12.toNat * 2 ^ 45 +
    f.tr.toNat * 2 ^ 57

/-- MX (R32). -/
def encMX (major minor : Nat) (f : MX) : Nat :=
  1 + major * 4 + f.tok.toNat * 2 ^ 8 + minor * 2 ^ 12 + f.acc.toNat * 2 ^ 16 + f.hint.toNat * 2 ^ 19 + f.ta.toNat * 2 ^ 20 +
    f.ac.toNat * 2 ^ 26 + f.tb.toNat * 2 ^ 27 + f.bc.toNat * 2 ^ 33 + f.va.toNat * 2 ^ 34 + f.vb.toNat * 2 ^ 44 +
    f.mask.toNat * 2 ^ 54 + f.ty.toNat * 2 ^ 58

/-- A unit of one 32-bit word. -/
def one (w : Nat) : List Nat := [w]

/-- A unit of a 64-bit instruction, with its prefix word before it. -/
def two (p : Option Pfx) (w : Nat) : List Nat :=
  match p with
  | none => [w % 2 ^ 32, w / 2 ^ 32]
  | some q => [encPfx q, w % 2 ^ 32, w / 2 ^ 32]

/-- The words of a well-formed instruction, prefix first; none for a step that has no words. -/
def encode : Instr → List Nat
  | .add d a b => one (encS3 0x01 0 d.toNat a.toNat b.toNat)
  | .sub d a b => one (encS3 0x01 1 d.toNat a.toNat b.toNat)
  | .mul d a b => one (encS3 0x01 2 d.toNat a.toNat b.toNat)
  | .mulh d a b => one (encS3 0x01 3 d.toNat a.toNat b.toNat)
  | .mulhu d a b => one (encS3 0x01 4 d.toNat a.toNat b.toNat)
  | .div d a b => one (encS3 0x01 5 d.toNat a.toNat b.toNat)
  | .divu d a b => one (encS3 0x01 6 d.toNat a.toNat b.toNat)
  | .rem d a b => one (encS3 0x01 7 d.toNat a.toNat b.toNat)
  | .remu d a b => one (encS3 0x01 8 d.toNat a.toNat b.toNat)
  | .and d a b => one (encS3 0x01 9 d.toNat a.toNat b.toNat)
  | .or d a b => one (encS3 0x01 10 d.toNat a.toNat b.toNat)
  | .xor d a b => one (encS3 0x01 11 d.toNat a.toNat b.toNat)
  | .shl d a b => one (encS3 0x01 12 d.toNat a.toNat b.toNat)
  | .shr d a b => one (encS3 0x01 13 d.toNat a.toNat b.toNat)
  | .sar d a b => one (encS3 0x01 14 d.toNat a.toNat b.toNat)
  | .min d a b => one (encS3 0x01 15 d.toNat a.toNat b.toNat)
  | .max d a b => one (encS3 0x01 16 d.toNat a.toNat b.toNat)
  | .minu d a b => one (encS3 0x01 17 d.toNat a.toNat b.toNat)
  | .maxu d a b => one (encS3 0x01 18 d.toNat a.toNat b.toNat)
  | .slt d a b => one (encS3 0x01 19 d.toNat a.toNat b.toNat)
  | .sltu d a b => one (encS3 0x01 20 d.toNat a.toNat b.toNat)
  | .seq d a b => one (encS3 0x01 21 d.toNat a.toNat b.toNat)
  | .clz d a => one (encS3 0x01 22 d.toNat a.toNat 0)
  | .ctz d a => one (encS3 0x01 23 d.toNat a.toNat 0)
  | .popc d a => one (encS3 0x01 24 d.toNat a.toNat 0)
  | .sel d a b => one (encS3 0x01 25 d.toNat a.toNat b.toNat)
  | .idx2 d a b => one (encS3 0x01 26 d.toNat a.toNat b.toNat)
  | .idx3 d a b => one (encS3 0x01 27 d.toNat a.toNat b.toNat)
  | .bclamp d a b => one (encS3 0x01 28 d.toNat a.toNat b.toNat)
  | .alignup d a b => one (encS3 0x01 29 d.toNat a.toNat b.toNat)
  | .addi d a imm => one (encSI 0x02 d.toNat a.toNat imm.toNat)
  | .andi d a imm => one (encSI 0x03 d.toNat a.toNat imm.toNat)
  | .ori d a imm => one (encSI 0x04 d.toNat a.toNat imm.toNat)
  | .xori d a imm => one (encSI 0x05 d.toNat a.toNat imm.toNat)
  | .shli d a imm => one (encSI 0x06 d.toNat a.toNat imm.toNat)
  | .shri d a imm => one (encSI 0x07 d.toNat a.toNat imm.toNat)
  | .sari d a imm => one (encSI 0x08 d.toNat a.toNat imm.toNat)
  | .liShort d imm => one (encSI 0x09 d.toNat 0 imm.toNat)
  | .br disp => one (encSJ 0x0A disp.toNat)
  | .beq a b disp => one (encSI 0x0B a.toNat b.toNat disp.toNat)
  | .bne a b disp => one (encSI 0x0C a.toNat b.toNat disp.toNat)
  | .blt a b disp => one (encSI 0x0D a.toNat b.toNat disp.toNat)
  | .bge a b disp => one (encSI 0x0E a.toNat b.toNat disp.toNat)
  | .bltu a b disp => one (encSI 0x0F a.toNat b.toNat disp.toNat)
  | .bgeu a b disp => one (encSI 0x10 a.toNat b.toNat disp.toNat)
  | .brt bd => one (encS3 0x11 0 bd.toNat 0 0)
  | .brtNz bd a => one (encS3 0x11 1 bd.toNat a.toNat 0)
  | .brtZ bd a => one (encS3 0x11 2 bd.toNat a.toNat 0)
  | .call disp => one (encSJ 0x12 disp.toNat)
  | .ret => one (encS3 0x13 0 0 0 0)
  | .loop n b disp => one (encSI 0x14 n.toNat b.toNat disp.toNat)
  | .endl n disp => one (encSI 0x15 n.toNat 0 disp.toNat)
  | .tend => one (encS3 0x16 0 0 0 0)
  | .cqp sel a => one (encS3 0x17 0 sel.toNat a.toNat 0)
  | .cqpb sel a => one (encS3 0x17 1 sel.toNat a.toNat 0)
  | .rqpop d => one (encS3 0x17 2 d.toNat 0 0)
  | .npop d => one (encS3 0x17 3 d.toNat 0 0)
  | .qdepth d sel => one (encS3 0x17 4 d.toNat 0 sel.toNat)
  | .xlt hd a b => one (encS3 0x18 0 hd.toNat a.toNat b.toNat)
  | .xltn hd a => one (encS3 0x18 1 hd.toNat a.toNat 0)
  | .hrel hd => one (encS3 0x18 2 hd.toNat 0 0)
  | .hchk d ha b => one (encS3 0x18 3 d.toNat ha.toNat b.toNat)
  | .nrel a => one (encS3 0x18 4 0 a.toNat 0)
  | .shand a b => one (encS3 0x18 5 0 a.toNat b.toNat)
  | .tsettle d a b => one (encS3 0x19 0 d.toNat a.toNat b.toNat)
  | .tstat d a => one (encS3 0x19 1 d.toNat a.toNat 0)
  | .tstatP d => one (encS3 0x19 1 d.toNat 0 1)
  | .cbw d a => one (encS3 0x1A 0 d.toNat a.toNat 0)
  | .cbclr => one (encS3 0x1A 1 0 0 0)
  | .cego d e => one (encSI 0x1B d.toNat 0 e.toNat)
  | .cegoT d a e => one (encSI 0x1B d.toNat a.toNat (16 + e.toNat))
  | .cepop d e => one (encSI 0x1C d.toNat 0 e.toNat)
  | .semw d a n => one (encSI 0x1D d.toNat a.toNat n.toNat)
  | .sems d a n => one (encSI 0x1E d.toNat a.toNat n.toNat)
  | .semrd d n => one (encSI 0x1F d.toNat 0 n.toNat)
  | .join => one (encS3 0x20 0 0 0 0)
  | .launch => one (encS3 0x21 0 0 0 0)
  | .trap imm => one (encSI 0x22 0 0 imm.toNat)
  | .eret => one (encS3 0x23 0 0 0 0)
  | .srd d n => one (encSI 0x24 d.toNat 0 n.toNat)
  | .swr a n => one (encSI 0x25 0 a.toNat n.toNat)
  | .yield => one (encS3 0x26 0 0 0 0)
  | .baro a imm => one (encSI 0x27 0 a.toNat imm.toNat)
  | .nop => one 0xFC
  | .li d imm => two none (encSL 0x01 0 d.toNat 0 0 imm.toNat)
  | .lih d imm => two none (encSL 0x01 1 d.toNat 0 0 imm.toNat)
  | .ldb f => two (f.pfx.map .pxo) (encSM 0x02 0 f)
  | .ldbs f => two (f.pfx.map .pxo) (encSM 0x02 1 f)
  | .ldh f => two (f.pfx.map .pxo) (encSM 0x02 2 f)
  | .ldhs f => two (f.pfx.map .pxo) (encSM 0x02 3 f)
  | .ldw f => two (f.pfx.map .pxo) (encSM 0x02 4 f)
  | .ldws f => two (f.pfx.map .pxo) (encSM 0x02 5 f)
  | .ldd f => two (f.pfx.map .pxo) (encSM 0x02 6 f)
  | .stb f => two (f.pfx.map .pxo) (encSM 0x03 0 f)
  | .sth f => two (f.pfx.map .pxo) (encSM 0x03 1 f)
  | .stw f => two (f.pfx.map .pxo) (encSM 0x03 2 f)
  | .std f => two (f.pfx.map .pxo) (encSM 0x03 3 f)
  | .pbr bd imm => two none (encSL 0x04 0 bd.toNat 0 0 imm.toNat)
  | .cqpm sel a b kind r0 c0 =>
    two none (encSL 0x05 0 sel.toNat a.toNat b.toNat (kind.toNat * 2 ^ 30 + r0.toNat * 2 ^ 25 + c0.toNat * 2 ^ 15))
  | .bnd sel imm => two none (encSL 0x05 1 sel.toNat 0 0 imm.toNat)
  | .fmtp a desc => two none (encSL 0x06 0 0 a.toNat 0 desc.toNat)
  | .fenceC scope mask => two none (encSL 0x07 0 0 0 0 (scope.toNat * 2 ^ 16 + mask.toNat))
  | .fenceM queues engines => two none (encSL 0x08 0 0 0 0 (engines.toNat * 2 ^ 16 + queues.toNat))
  | .vadd f => two f.pfx (encV4 0x10 0 f)
  | .vsub f => two f.pfx (encV4 0x10 1 f)
  | .vmul f => two f.pfx (encV4 0x10 2 f)
  | .vfma f => two f.pfx (encV4 0x10 3 f)
  | .vfnma f => two f.pfx (encV4 0x10 4 f)
  | .vmin f => two f.pfx (encV4 0x10 5 f)
  | .vmax f => two f.pfx (encV4 0x10 6 f)
  | .vabs f => two f.pfx (encV4 0x10 7 f)
  | .vneg f => two f.pfx (encV4 0x10 8 f)
  | .vclamp f => two f.pfx (encV4 0x10 9 f)
  | .vmov f => two f.pfx (encV4 0x10 10 f)
  | .vsel f => two f.pfx (encV4 0x10 11 f)
  | .vexp2 f => two f.pfx (encV4 0x11 0 f)
  | .vlog2 f => two f.pfx (encV4 0x11 1 f)
  | .vrcp f => two f.pfx (encV4 0x11 2 f)
  | .vrsq f => two f.pfx (encV4 0x11 3 f)
  | .vcmp cond f => two f.pfx (encV4 0x12 cond.toNat f)
  | .viadd f => two f.pfx (encV4 0x13 0 f)
  | .visub f => two f.pfx (encV4 0x13 1 f)
  | .vimul f => two f.pfx (encV4 0x13 2 f)
  | .vimad f => two f.pfx (encV4 0x13 3 f)
  | .vand f => two f.pfx (encV4 0x13 4 f)
  | .vor f => two f.pfx (encV4 0x13 5 f)
  | .vxor f => two f.pfx (encV4 0x13 6 f)
  | .vnot f => two f.pfx (encV4 0x13 7 f)
  | .vshl f => two f.pfx (encV4 0x13 8 f)
  | .vshr f => two f.pfx (encV4 0x13 9 f)
  | .vsar f => two f.pfx (encV4 0x13 10 f)
  | .vimin f => two f.pfx (encV4 0x13 11 f)
  | .vimax f => two f.pfx (encV4 0x13 12 f)
  | .vrmax f => two f.pfx (encV4 0x14 0 f)
  | .vrmin f => two f.pfx (encV4 0x14 1 f)
  | .vrsum f => two f.pfx (encV4 0x14 2 f)
  | .vcsum f => two f.pfx (encV4 0x14 3 f)
  | .vrscan f => two f.pfx (encV4 0x14 4 f)
  | .vshuf f => two f.pfx (encV4 0x15 0 f)
  | .vrot f => two f.pfx (encV4 0x15 1 f)
  | .vtrn f => two f.pfx (encV4 0x15 2 f)
  | .vmsk f => two f.pfx (encV4 0x15 3 f)
  | .vmaskq f => two f.pfx (encV4 0x15 4 f)
  | .vdefer f => two f.pfx (encV4 0x16 0 f)
  | .vdrain f => two f.pfx (encV4 0x16 1 f)
  | .vret f => two f.pfx (encV4 0x16 2 f)
  | .vcvt f => two f.pfx (encV4 0x17 0 f)
  | .vqnt f => two f.pfx (encV4 0x17 1 f)
  | .vld f => two f.pfx (encVM 0x18 0 f)
  | .vlds f => two f.pfx (encVM 0x18 1 f)
  | .vgath f => two f.pfx (encVM 0x18 2 f)
  | .vst f => two f.pfx (encVM 0x19 0 f)
  | .vsts f => two f.pfx (encVM 0x19 1 f)
  | .vscat f => two f.pfx (encVM 0x19 2 f)
  | .nstv f => two f.pfx (encVM 0x19 3 f)
  | .tfetch f => two f.pfx (encTL 0x1A 0 f)
  | .twin f => two f.pfx (encTL 0x1A 1 f)
  | .tadv f => two f.pfx (encTL 0x1A 2 f)
  | .tshare f => two f.pfx (encTL 0x1A 3 f)
  | .tunpark f => two f.pfx (encTL 0x1A 4 f)
  | .vldt f => two f.pfx (encTL 0x1A 5 f)
  | .vldx f => two f.pfx (encTL 0x1A 6 f)
  | .tpark f => two f.pfx (encTL 0x1B 0 f)
  | .twr f => two f.pfx (encTL 0x1B 1 f)
  | .twb f => two f.pfx (encTL 0x1B 2 f)
  | .mma f => two f.pfx (encMX 0x1C 0 f)
  | .accz f => two f.pfx (encMX 0x1C 1 f)
  | .accld f => two f.pfx (encMX 0x1C 2 f)
  | .accrd f => two f.pfx (encMX 0x1C 3 f)
  | .entryComplete .. | .tileFillComplete .. | .loadDataReturn .. | .accessPerformed .. | .namePush .. |
  .nameBlockFree .. | .queueStall .. | .unitSaveComplete .. | .unitRestoreComplete .. | .registerWrite .. |
  .queueEnable .. | .queueReset .. | .queueNotify .. | .withdrawal .. | .semaphoreWrite .. | .lfeKill .. |
  .functionLevelReset .. | .packageColdReset .. | .dieWarmReset .. | .dieWarmResetComplete .. |
  .dieWarmResetTimeout .. | .barographFreeze .. | .barographUnfreeze .. | .mailboxNotify .. | .loadSlot .. |
  .slotLoadComplete .. | .unloadSlot .. | .revokeRange .. | .revocationComplete .. | .setArenaQuota .. | .siteRight .. |
  .assignResource .. | .clearPins .. | .stageFirmwareImage .. | .startFirmwareHandOver .. | .discardStagedImage .. |
  .firmwareIdlePointSwitch .. | .firmwareSwitchTimeout .. | .attestationReport .. | .readIdentityPublicKey .. |
  .recordRead .. | .childPoolRefill .. | .ticketRequest .. | .walkerRecordHandout .. | .interruptHoldOffExpiry .. |
  .semaphoreSignal .. | .prefetch .. | .rtePhase1Complete .. | .fabricLinkRetrain .. | .handoverDraining .. |
  .handoverWritingBack .. | .handoverSwitching .. | .handoverComplete .. | .swap .. | .swapComplete .. |
  .decayPeriod .. | .selfRefreshEntry .. | .selfRefreshExit .. | .thermalHoldTimeout .. | .uncorrectableMemoryError .. |
  .correctedMemoryError .. | .testStrip .. | .testStripComplete .. | .illegalEncoding .. | .lfeCreadWrite .. |
  .vectorUnmask .. | .walkerTranslationFaultAnswer .. | .fabricFlitArrival .. | .fabricPortLost .. |
  .unitHoldingEnd .. | .route | .mmaMicroStep | .icacheFill | .translationWalkComplete | .taskCycleBound | .yieldEnd |
  .routedFaultArrival | .trapEntry | .firmwareSwitchOut | .firmwareFaultResume | .firmwareFaultFatal |
  .preEmptionSwitch | .taskStart | .taskRetire | .packetHead | .residencyCheck | .dispatch | .ticketArrival |
  .walkerRead | .packetComplete | .completionBodyPerformed | .completionHeaderPerformed | .interruptEvent |
  .commandDequeue | .commandStart | .commandElement | .engineFaultResume | .engineFaultFatal | .commandEnd | .copy |
  .accw | .rotate | .scan | .prefetchDeadlineCancel | .fill | .signal | .rte | .remoteCopy | .remoteAccw |
  .remoteSignal | .orphanPrefix => []

/-- A unit with a prefix begins at an address equal to 4 modulo 8 (R44). -/
def oddOf (ws : List Nat) : Bool :=
  match ws with
  | w :: _ => w % 4 == 2
  | [] => false

/-- Decode the words of a unit laid out as R23 and R44 require. -/
def decodeWords (ws : List Nat) : Unit2 :=
  match ws with
  | [] => .missing 0
  | w0 :: r => decodeUnit (oddOf ws) w0 r[0]? r[1]?

/-- The instruction has words of its own. -/
def Instr.hasWords (i : Instr) : Bool := encode i != []

end Sys2Proof
end

