-- ==== Sys2Proof/Machine/Flags.lean ====
section
/-! DEFINITION. The flags of sys.fflags (03_numbers.md R76) and how sets of them combine. -/

namespace Sys2Proof.Machine

def flagNX : BitVec 6 := 1
def flagUF : BitVec 6 := 2
def flagOF : BitVec 6 := 4
def flagDZ : BitVec 6 := 8
def flagNV : BitVec 6 := 16
def flagSC : BitVec 6 := 32

/-- The flag, where b holds. -/
def flagIf (b : Bool) (f : BitVec 6) : BitVec 6 := if b then f else 0

/-- OR of a list of flag sets (R77). -/
def orFlags : List (BitVec 6) → BitVec 6
  | [] => 0
  | f :: r => f ||| orFlags r

/-- The flags that an MMA sets: NV, OF and SC only (R81). -/
def mmaFlags (f : BitVec 6) : BitVec 6 := f &&& (flagNV ||| flagOF ||| flagSC)

end Sys2Proof.Machine
end

