-- ==== Sys2Proof/Machine/Numbers.lean ====
section
/-! DEFINITION. Exact values, the number formats, RoundTo and the flags it sets (03_numbers.md, R61 to R75). -/

namespace Sys2Proof.Machine

/-- An exact value: NaN, an infinity, plus or minus num / den, or the square root of num / den (VRSQ). -/
inductive Num where
  | nan
  | inf (neg : Bool)
  | fin (neg : Bool) (num den : Nat)
  | root (num den : Nat)
  deriving DecidableEq, Repr

/-! ### Element types (R33): codes 0 to 14 -/

/-- Width in bits of element type T (R33). -/
def width : Nat → Nat
  | 0 | 9 | 13 => 32
  | 1 | 2 | 8 | 12 => 16
  | 5 => 4
  | 10 | 14 => 64
  | _ => 8

/-- Elements per register (R49, R60). -/
def elems (T : Nat) : Nat := 65536 / width T

/-- Elements per row (R49). -/
def perRow (T : Nat) : Nat := 2048 / width T

/-- Type T is an integer type (R64). -/
def isInt (T : Nat) : Bool := decide (7 ≤ T) && decide (T ≤ 14)

/-- Type T is a two's complement type (R64). -/
def isSigned (T : Nat) : Bool := decide (7 ≤ T) && decide (T ≤ 10)

/-- Mantissa width m of a floating format (R61). -/
def mant : Nat → Nat
  | 0 => 23 | 1 => 7 | 2 => 10 | 3 => 3 | 4 => 2 | 5 => 1 | _ => 5

/-- Exponent bias (R61). -/
def bias : Nat → Nat
  | 0 | 1 => 127 | 2 | 4 => 15 | 3 => 7 | 5 => 1 | _ => 3

/-- Exponent width (R61). -/
def ebits : Nat → Nat
  | 0 | 1 => 8 | 2 | 4 => 5 | 3 => 4 | 5 => 2 | _ => 3

/-- Pattern of the largest finite magnitude (R61). -/
def maxFinite : Nat → Nat
  | 0 => 0x7F7FFFFF | 1 => 0x7F7F | 2 => 0x7BFF | 3 => 0x7E | 4 => 0x7B | 5 => 7 | _ => 0xFF

/-- Pattern of plus infinity, for the formats that have one (R61). -/
def infPattern : Nat → Nat
  | 0 => 0x7F800000 | 1 => 0x7F80 | 2 => 0x7C00 | _ => 0x7C

/-- Canonical NaN (R63). -/
def canonNaN : Nat → Nat
  | 0 => 0x7FC00000 | 1 => 0x7FC0 | 2 => 0x7E00 | 3 => 0x7F | _ => 0x7E

/-- The format has infinities (R61). -/
def hasInf : Nat → Bool
  | 0 | 1 | 2 | 4 => true
  | _ => false

/-- Plus or minus k times 2 to the e. -/
def finPow (neg : Bool) (k : Nat) (e : Int) : Num :=
  if 0 ≤ e then .fin neg (k * 2 ^ e.toNat) 1 else .fin neg k (2 ^ (-e).toNat)

/-- The integer i as an exact value. -/
def ofInt (i : Int) : Num := .fin (decide (i < 0)) i.natAbs 1

/-- Value of a pattern of floating format T (R61). -/
def floatValue (T b : Nat) : Num :=
  let m := mant T
  let neg := T ≠ 6 && b / 2 ^ (width T - 1) % 2 == 1
  let E := b / 2 ^ m % 2 ^ ebits T
  let M := b % 2 ^ m
  if hasInf T && E == 2 ^ ebits T - 1 then (if M = 0 then .inf neg else .nan)
  else if T == 3 && E == 15 && M == 7 then .nan
  else if E = 0 then finPow neg M (1 - (bias T : Int) - m)
  else finPow neg (2 ^ m + M) ((E : Int) - bias T - m)

/-- Value of an integer pattern (R64). -/
def intValue (T b : Nat) : Int :=
  let w := width T
  let u := b % 2 ^ w
  if isSigned T && decide (2 ^ (w - 1) ≤ u) then (u : Int) - 2 ^ w else u

/-- Exact value of a pattern of element type T. -/
def valueOf (T b : Nat) : Num := if isInt T then ofInt (intValue T b) else floatValue T b

/-! ### Rounding (R65) -/

/-- Integer square root by bits, from bit n down. -/
def isqrtFrom : Nat → Nat → Nat → Nat
  | 0, _, r => r
  | n + 1, x, r => isqrtFrom n x (if (r + 2 ^ n) * (r + 2 ^ n) ≤ x then r + 2 ^ n else r)

def isqrt (x : Nat) : Nat := isqrtFrom (Nat.log2 x / 2 + 1) x 0

/-- What rounding needs to know of a magnitude in units of 2 to the e: its floor, whether it is exact, how the rest
compares with one half, and whether the rest plus rho reaches the next unit (R65). -/
structure Frac where
  q : Nat
  exact : Bool
  half : Ordering
  stoch : Bool

/-- Magnitude of x in units of 2 to the e, with random value r. -/
def fracOf (x : Num) (e : Int) (r : Nat) : Frac :=
  let up := 2 ^ (-e).toNat
  let dn := 2 ^ e.toNat
  match x with
  | .fin _ num den =>
    let n := num * up
    let d := den * dn
    let q := n / d
    let rem := n % d
    { q := q, exact := rem == 0, half := compare (2 * rem) d, stoch := decide (65536 * d ≤ rem * 65536 + r * d) }
  | .root num den =>
    let n := num * up * up
    let d := den * dn * dn
    let q := isqrt (n / d)
    let t := 65536 * (q + 1) - r
    { q := q, exact := q * q * d == n, half := compare (4 * n) ((2 * q + 1) * (2 * q + 1) * d),
      stoch := decide (t * t * d ≤ n * 65536 * 65536) }
  | _ => { q := 0, exact := true, half := .lt, stoch := false }

/-- Whether the magnitude is rounded up to the next unit: mode codes of R38 (0 rne, 1 rtz, 2 rdn, 3 rup, 4 rna, 5 rsr). -/
def roundsUp (rnd : Nat) (neg : Bool) (f : Frac) : Bool :=
  !f.exact &&
  match rnd with
  | 0 => f.half == .gt || (f.half == .eq && f.q % 2 == 1)
  | 1 => false
  | 2 => neg
  | 3 => !neg
  | 4 => f.half != .lt
  | _ => f.stoch

/-- The exponent of the binade of a non-zero magnitude: floor of its base-2 logarithm. -/
def binade (num den : Nat) : Int :=
  let l : Int := (Nat.log2 num : Int) - Nat.log2 den
  if num * 2 ^ (-l).toNat < den * 2 ^ l.toNat then l - 1 else l

/-- Exponent of the unit in the last place of T for value x (R65): the subnormal spacing below the smallest normal. -/
def ulpExp (T : Nat) (x : Num) : Int :=
  let least : Int := 1 - (bias T : Int)
  let b : Int :=
    match x with
    | .fin _ num den => if num = 0 then least else binade num den
    | .root num den => binade num den / 2
    | _ => least
  (if b < least then least else b) - mant T

def Num.neg : Num → Bool
  | .inf n => n
  | .fin n _ _ => n
  | _ => false

/-- Bits of a floating pattern with its sign. -/
def withSign (T : Nat) (neg : Bool) (p : Nat) : Nat := if neg && T ≠ 6 then p + 2 ^ (width T - 1) else p

/-- A result beyond the largest finite value (R68): real overflow if ovf. Where the zero policy writes +0 for an infinity in e4m3, NV alone
is set: R68's SC for a finite value in place of an infinity is not, as its last sentence on NV names no other (DESIGN CHOICE, log 49). -/
def overflowResult (neg : Bool) (T rnd sat nan : Nat) (ovf : Bool) : Nat × BitVec 6 :=
  let base := flagIf ovf (flagOF ||| flagNX)
  let finite := (withSign T neg (maxFinite T), base ||| flagIf (sat == 1 || !ovf) flagSC)
  if sat == 1 || T == 5 || T == 6 then finite
  else if T == 3 then (if nan == 1 then 0 else canonNaN 3, base ||| flagIf (!ovf) flagNV)
  else
    let toInf := (withSign T neg (infPattern T), base)
    match rnd with
    | 1 => finite
    | 2 => if neg then toInf else finite
    | 3 => if neg then finite else toInf
    | _ => toInf

/-- Least and greatest value of an integer type (R64). -/
def intMin (T : Nat) : Int := if isSigned T then -(2 : Int) ^ (width T - 1) else 0
def intMax (T : Nat) : Int := if isSigned T then (2 : Int) ^ (width T - 1) - 1 else (2 : Int) ^ width T - 1

/-- Pattern of an integer in type T, modulo 2 to its width. -/
def intBits (T : Nat) (i : Int) : Nat := (i % (2 : Int) ^ width T).toNat

/-- RoundInt (R69); conv: a conversion from a floating type (R70). -/
def roundInt (x : Num) (T rnd sat : Nat) (r : Nat) (conv : Bool) : Nat × BitVec 6 :=
  match x with
  | .inf neg => (intBits T (if neg then intMin T else intMax T), flagNV)
  | _ =>
    let f := fracOf x 0 r
    let mag : Nat := if roundsUp rnd x.neg f then f.q + 1 else f.q
    let v : Int := if x.neg then -(mag : Int) else mag
    let nx := flagIf (!f.exact) flagNX
    if intMin T ≤ v ∧ v ≤ intMax T then (intBits T v, nx)
    else if sat == 0 && !conv then (intBits T v, nx)
    else (intBits T (if v < intMin T then intMin T else intMax T), nx ||| flagSC ||| flagIf (sat == 0) flagNV)

/-- Modes of an instruction: rounding, saturation and NaN policy codes of R38, and whether it is a conversion from a
floating to an integer type (R70). -/
structure Mode where
  rnd : Nat
  sat : Nat
  nan : Nat
  conv : Bool
  deriving DecidableEq, Repr

/-- The modes of an instruction without a PXM prefix (R38). -/
def Mode.default : Mode := { rnd := 0, sat := 0, nan := 0, conv := false }

/-- RoundTo(x, T, rnd, sat) with random value r: the bits and the flags set (R67). -/
def roundTo (x : Num) (T : Nat) (md : Mode) (r : Nat) : Nat × BitVec 6 :=
  match x with
  | .nan => if isInt T || T == 5 || T == 6 then (0, flagNV) else (if md.nan == 1 then 0 else canonNaN T, 0)
  | _ =>
    let zero : Bool := match x with | .fin _ num _ => num == 0 | _ => false
    if T == 6 && x.neg && !zero then (0, flagNV)
    else if isInt T then roundInt x T md.rnd md.sat r md.conv
    else
      match x with
      | .inf neg =>
        overflowResult neg T md.rnd md.sat md.nan false
      | _ =>
        let e := ulpExp T x
        let f := fracOf x e r
        let q := if roundsUp md.rnd x.neg f then f.q + 1 else f.q
        let least : Int := 1 - (bias T : Int) - mant T
        let p := (e - least).toNat * 2 ^ mant T + q
        let tiny : Bool := e == least && decide (f.q < 2 ^ mant T)
        let fl := flagIf (!f.exact) flagNX ||| flagIf (!f.exact && tiny) flagUF
        if maxFinite T < p then
          let (b, g) := overflowResult x.neg T md.rnd md.sat md.nan true
          (b, fl ||| g)
        else (withSign T x.neg p, fl)

/-! ### Exact arithmetic (R71) -/

/-- Sum of two fractions with signs: numerator as an integer and the denominator. -/
def addFrac (n1 : Int) (d1 : Nat) (n2 : Int) (d2 : Nat) : Int × Nat :=
  if d1 = d2 then (n1 + n2, d1)
  else if d2 % d1 = 0 then (n1 * (d2 / d1 : Nat) + n2, d2)
  else if d1 % d2 = 0 then (n1 + n2 * (d1 / d2 : Nat), d1)
  else (n1 * d2 + n2 * d1, d1 * d2)

def signed (neg : Bool) (n : Nat) : Int := if neg then -(n : Int) else n

/-- Exact sum and its NV flag; rdn: rounding is toward minus infinity (R71). -/
def addN (rdn : Bool) : Num → Num → Num × BitVec 6
  | .nan, _ | _, .nan => (.nan, 0)
  | .inf a, .inf b => if a == b then (.inf a, 0) else (.nan, flagNV)
  | .inf a, _ | _, .inf a => (.inf a, 0)
  | .fin na a da, .fin nb b db =>
    let (n, d) := addFrac (signed na a) da (signed nb b) db
    if n = 0 then (.fin ((na && a == 0 && (nb && b == 0)) || rdn) 0 1, 0) else (.fin (decide (n < 0)) n.natAbs d, 0)
  | a, _ => (a, 0)

def negN : Num → Num
  | .nan => .nan
  | .inf n => .inf (!n)
  | .fin n a d => .fin (!n) a d
  | .root a d => .root a d

def absN : Num → Num
  | .inf _ => .inf false
  | .fin _ a d => .fin false a d
  | x => x

/-- Exact product and its NV flag (R71). -/
def mulN : Num → Num → Num × BitVec 6
  | .nan, _ | _, .nan => (.nan, 0)
  | .inf a, .inf b => (.inf (a != b), 0)
  | .inf a, .fin b n _ | .fin b n _, .inf a => if n = 0 then (.nan, flagNV) else (.inf (a != b), 0)
  | .fin na a da, .fin nb b db => (.fin (na != nb) (a * b) (da * db), 0)
  | a, _ => (a, 0)

/-- Exact quotient by a finite value; a division by zero is taken as a product by zero (R79, R281). -/
def divN (x y : Num) : Num × BitVec 6 :=
  match y with
  | .fin ny n d => if n = 0 then mulN x y else mulN x (.fin ny d n)
  | .inf ny =>
    match x with
    | .nan => (.nan, 0)
    | .inf _ => (.nan, flagNV)
    | x => (.fin (x.neg != ny) 0 1, 0)
  | _ => (.nan, 0)

/-- a times b plus c, exact, with the flags of R71. -/
def fmaN (rdn : Bool) (a b c : Num) : Num × BitVec 6 :=
  let (p, f) := mulN a b
  let (s, g) := addN rdn p c
  (s, f ||| g)

/-! ### Comparison (R72) -/

/-- Order of two values that are not NaN; zeros of either sign are equal. -/
def cmpN : Num → Num → Ordering
  | .inf a, .inf b => if a == b then .eq else if a then .lt else .gt
  | .inf a, _ => if a then .lt else .gt
  | _, .inf b => if b then .gt else .lt
  | .fin na a da, .fin nb b db => compare (signed na a * db) (signed nb b * da)
  | _, _ => .eq

def Num.isNan : Num → Bool
  | .nan => true
  | _ => false

def Num.isZero : Num → Bool
  | .fin _ n _ => n == 0
  | _ => false

/-- a orders below b for minimum and maximum: minus zero below plus zero (R72). -/
def below (a b : Num) : Bool :=
  match cmpN a b with
  | .lt => true
  | .gt => false
  | .eq => a.isZero && b.isZero && a.neg && !b.neg

/-- The lesser, or the greater if max; miss: NaN operands count as missing (R38, R72). -/
def minmaxN (max miss : Bool) (a b : Num) : Num :=
  if a.isNan then (if miss then b else .nan)
  else if b.isNan then (if miss then a else .nan)
  else if max then (if below a b then b else a) else if below b a then b else a

/-! ### Reciprocal and transcendental functions (R73 to R75) -/

/-- VRCP before rounding: value and flags. -/
def rcpN : Num → Num × BitVec 6
  | .nan => (.nan, 0)
  | .inf n => (.fin n 0 1, 0)
  | .fin n a d => if a = 0 then (.inf n, flagDZ) else (.fin n d a, 0)
  | .root a d => (.root d a, 0)

/-- VRSQ before rounding: value and flags. -/
def rsqN : Num → Num × BitVec 6
  | .nan => (.nan, 0)
  | .inf n => if n then (.nan, flagNV) else (.fin false 0 1, 0)
  | .fin n a d => if a = 0 then (.inf n, flagDZ) else if n then (.nan, flagNV) else (.root d a, 0)
  | .root a d => (.root a d, 0)

/-- Fraction bits of the fixed-point reference used to find which f32 values R74 allows. -/
def refBits : Nat := 192

/-- ln 2 in fixed point. -/
def ln2Ref : Nat := 0xb17217f7d1cf79abc9e3b39803f2f6af40f343267298b62d

/-- Sum of t^k / k! in fixed point, from term k on. -/
def expSeries : Nat → Nat → Nat → Nat → Nat
  | 0, _, _, acc => acc
  | n + 1, t, term, acc =>
    let k := 60 - n
    let next := term * t / 2 ^ refBits / k
    expSeries n t next (acc + next)

/-- 2 to the f / 2^192 in fixed point, for 0 ≤ f < 2^192. -/
def exp2Ref (f : Nat) : Nat :=
  let t := f * ln2Ref / 2 ^ refBits
  expSeries 60 t (2 ^ refBits) (2 ^ refBits)

/-- n fraction bits of the base-2 logarithm of m / 2^192, for 1 ≤ m / 2^192 < 2. -/
def log2Bits : Nat → Nat → Nat → Nat
  | 0, _, acc => acc
  | n + 1, m, acc =>
    let s := m * m / 2 ^ refBits
    if 2 ^ (refBits + 1) ≤ s then log2Bits n (s / 2) (2 * acc + 1) else log2Bits n s (2 * acc)

/-- Which f32 pattern near the true magnitude num / den the unit forms (R74): the pick moves some patterns away from the
one at or below the true value, and counts only if it stays finite, normal and within 2 ulp. -/
def nearPattern (num den pick : Nat) : Nat :=
  let x := Num.fin false num den
  let e := ulpExp 0 x
  let f := fracOf x e 0
  let base := (e + 149).toNat * 2 ^ 23 + f.q
  let p := base + pick % 9 - 4
  let within : Bool :=
    match floatValue 0 p with
    | .fin _ n d =>
      let diff := (n * den : Int) - (num * d : Int)
      decide (diff.natAbs * 2 ^ (-e).toNat ≤ 2 * (d * den) * 2 ^ e.toNat)
    | _ => false
  if within && decide (2 ^ 23 ≤ p) && decide (p ≤ maxFinite 0) then p else base

/-- 2 to the x for a finite x: the f32 pattern formed and the flags of the true result for type f32 (R74, R75). -/
def exp2F32 (arg : W32) (neg : Bool) (num den : Nat) : Nat × BitVec 6 :=
  -- x = i + f with i = floor x and f in [0, 1)
  let s := signed neg num
  let i : Int := s / (den : Int)
  let r : Nat := (s % (den : Int)).toNat
  if r = 0 then
    -- an integer argument: exact where representable (R74)
    if i < -149 then (0, flagUF ||| flagNX)
    else if i < -126 then (2 ^ (i + 149).toNat, 0)
    else ((i + 127).toNat * 2 ^ 23, 0)
  else if i < -149 then (0, flagUF ||| flagNX)
  else if i < -126 then ((Config.exp2Subnormal arg).toNat % 2 ^ 23 + 1, flagUF ||| flagNX)
  else
    let f := r * 2 ^ refBits / den
    let v := exp2Ref f
    let up := 2 ^ i.toNat
    let dn := 2 ^ (-i).toNat
    (nearPattern (v * up) (2 ^ refBits * dn) (Config.exp2Pick arg), flagNX)

/-- VEXP2 on a value of a floating type (R74, R75): bits and flags in T. For bf16 and f16 the flags are those of both
roundings (DEDUCED from R76; log 14). -/
def exp2To (x : Num) (T : Nat) (md : Mode) (r : Nat) : Nat × BitVec 6 :=
  match x with
  | .nan => roundTo .nan T md r
  | .inf neg => if neg then (0, 0) else roundTo (.inf false) T md r
  | .fin neg num den =>
    if !neg && decide (128 * den ≤ num) then overflowResult false T md.rnd md.sat md.nan true
    else
      let arg : W32 := BitVec.ofNat 32 (roundTo x 0 Mode.default 0).1
      let (p, fl) := exp2F32 arg neg num den
      if neg && decide (149 * den < num) then (0, flagUF ||| flagNX)
      else if T == 0 then (p, fl)
      else ((roundTo (floatValue 0 p) T md r).1, (roundTo (floatValue 0 p) T md r).2 ||| fl)
  | .root .. => (0, 0)

/-- log2 x for a finite positive x: the f32 pattern formed and the flags of the true result for type f32 (R74). -/
def log2F32 (arg : W32) (num den : Nat) : Nat × BitVec 6 :=
  let i := binade num den
  let up := 2 ^ (-i).toNat
  let dn := 2 ^ i.toNat
  if num * up = den * dn then roundTo (ofInt i) 0 Mode.default 0
  else
    let m := num * up * 2 ^ refBits / (den * dn)
    let fr := log2Bits 96 m 0
    let s : Int := i * 2 ^ 96 + fr
    let p := nearPattern s.natAbs (2 ^ 96) (Config.log2Pick arg)
    (withSign 0 (decide (s < 0)) p, flagNX)

/-- VLOG2 on a value of a floating type (R74, R75): bits and flags in T. -/
def log2To (x : Num) (T : Nat) (md : Mode) (r : Nat) : Nat × BitVec 6 :=
  match x with
  | .nan => roundTo .nan T md r
  | .inf neg => if neg then ((roundTo .nan T md r).1, (roundTo .nan T md r).2 ||| flagNV) else roundTo (.inf false) T md r
  | .fin neg num den =>
    if num = 0 then ((roundTo (.inf true) T md r).1, (roundTo (.inf true) T md r).2 ||| flagDZ)
    else if neg then ((roundTo .nan T md r).1, (roundTo .nan T md r).2 ||| flagNV)
    else
      let arg : W32 := BitVec.ofNat 32 (roundTo x 0 Mode.default 0).1
      let (p, fl) := log2F32 arg num den
      if T == 0 then (p, fl) else ((roundTo (floatValue 0 p) T md r).1, (roundTo (floatValue 0 p) T md r).2 ||| fl)
  | .root .. => (0, 0)

/-! ### Random values of rsr (R66) -/

/-- Mix(S, e): the 16-bit random value of element e under seed S. -/
def mix (seed : W64) (e : Nat) : Nat :=
  let z : W64 := seed + BitVec.ofNat 64 (e + 1) * 0x9E3779B97F4A7C15
  let z := (z ^^^ (z >>> 30)) * 0xBF58476D1CE4E5B9
  let z := (z ^^^ (z >>> 27)) * 0x94D049BB133111EB
  let z := z ^^^ (z >>> 31)
  z.toNat / 2 ^ 48

/-! ### The constant ROM (R53, R54) -/

/-- Exact value of ROM entry n; the irrational ones by 128 fraction bits, more than any format distinguishes (log 16). -/
def romValue (n : Nat) : Num :=
  if n ≤ 847 then .fin false (n - 784) 1
  else if n ≤ 879 then .fin true (n - 847) 1
  else if n ≤ 911 then finPow false 1 ((n : Int) - 896)
  else if n ≤ 943 then .fin false 1 (n - 910)
  else if n ≤ 975 then .fin false (2 ^ (n - 943) - 1) 1
  else if n ≤ 1006 then .fin false (n - 975) 32
  else
    match n with
    | 1007 => .fin false 1069028584064966747859680373161870783300 (2 ^ 128)
    | 1008 => .fin false 1069028584064966747859680373161870783300 (2 ^ 127)
    | 1009 => .fin false 1069028584064966747859680373161870783300 (2 ^ 129)
    | 1010 => .fin false 924983374546220337150911035843336795079 (2 ^ 128)
    | 1011 => .fin false 235865763225513294137944142764154484399 (2 ^ 128)
    | 1012 => .fin false 490923683258796565746369346286093237521 (2 ^ 128)
    | 1013 => .fin false 1130393554869435518674010122299176348979 (2 ^ 128)
    | 1014 => .root 2 1
    | 1015 => .root 1 2
    | 1016 => .inf false
    | 1017 => .inf true
    | 1018 => .nan
    | 1019 => floatValue 0 0x7F7FFFFF
    | 1020 => .fin false 448 1
    | 1021 => .fin false 57344 1
    | _ => .fin false 65504 1

/-- The ROM entry is an integer in the range of integer type T (R53). -/
def romFits (n T : Nat) : Bool :=
  match romValue n with
  | .fin neg num den => num % den == 0 && decide (intMin T ≤ signed neg (num / den)) && decide (signed neg (num / den) ≤ intMax T)
  | _ => false

/-- Bits of ROM entry n read as type T (R53): no flag. -/
def romBits (n T : Nat) : Nat := (roundTo (romValue n) T Mode.default 0).1

end Sys2Proof.Machine
end

