-- ==== Sys2Proof/Machine/State.lean ====
section
/-! DEFINITION. The state of the NL2 as plain data: memory, sites, cores, task contexts, the launch front end, the copy
engines, the host interface and the health records. INVENTORY.md lists every field with its rule and reset value. -/

namespace Sys2Proof.Machine

/-! ### Context state -/

/-- A handle register (R192). `asc` and `va` are kept so that a revocation finds the handles that cover its range. -/
structure Handle where
  v : Bool
  base : Nat
  size : Nat
  block : Bool
  r : Bool
  w : Bool
  host : Bool
  site : Nat
  entry : Option (Nat × Nat)
  name : Option Nat
  asc : Nat
  va : Nat
  deriving DecidableEq, Repr

def Handle.invalid : Handle :=
  { v := false, base := 0, size := 0, block := false, r := false, w := false, host := false, site := 0, entry := none,
    name := none, asc := 0, va := 0 }

/-- Kind of a CTQ entry (R158). -/
inductive CtqKind where
  | scalar | maskDesc | pred
  deriving DecidableEq, Repr

structure CtqEntry where
  kind : CtqKind
  val : W64
  deriving DecidableEq, Repr

/-- A vector register: 8,192 bytes and a written bit per row of 256 bytes (R49, R205). Bytes of an unwritten row are 0. -/
structure VReg where
  bits : BitVec 65536
  written : BitVec 32
  deriving DecidableEq, Repr

def VReg.empty : VReg := { bits := 0, written := 0 }

/-- An accumulator: 128 x 128 f32 values, element (i, j) at bit 32 (128 i + j), and a written bit per row (R265). -/
structure Accum where
  bits : BitVec 524288
  written : BitVec 128
  deriving DecidableEq, Repr

def Accum.empty : Accum := { bits := 0, written := 0 }

/-- A fault waiting to be taken, with what trap entry reports of it (R347, R371). `addr` is a device virtual address. -/
structure FaultRec where
  cause : Byte
  addr : Nat
  data : W64
  src : Nat
  await : Nat
  pos : Nat
  deriving DecidableEq, Repr

/-- A routed entry: its unit, the scalar operands captured at routing (R34), the captured seed (R66), and the CTQ
entries popped for it once its head has popped them (R46). `pos` is its routing sequence number (R178). -/
structure Entry where
  instr : Instr
  pos : Nat
  pc : Nat
  h : Handle
  xa : W64
  xb : W64
  seed : W64
  popped : Option (List CtqEntry)
  deriving DecidableEq, Repr

/-- An entry that has issued and not completed (R242): whether its unit is still held, whether its own work is still going on,
whether its predicate skipped it (R40), the flags it raised (R77), the value it will push onto the RTQ and the tile slots it is
filling. `got` holds the bytes that a vector load has read: place in the register, value, poison. `olds` and `oldm` hold what the
vector registers and masks it writes held before, which another queue may still see until it completes (R243). -/
structure Issued where
  entry : Entry
  holding : Bool
  busy : Bool
  skipped : Bool
  flags : BitVec 6
  push : Option W64
  fills : List Nat
  got : List (Nat × Byte × Bool)
  olds : List (Nat × VReg)
  oldm : List (Nat × BitVec 8192)
  deriving DecidableEq, Repr

/-- A routed queue (R155, R178, R180): entries that have not issued, entries issued, slip depth, stall counter and
bound, the fault its head raised, the faults of entries that had issued (a token overflow, R36; poisoned load data, R250),
whether a token overflow has stopped it, and its fence points: the routing sequence number they stand at and the class mask
(R345). `await` is the awaited-item code of the head's last try (R179). -/
structure RQ where
  entries : List Entry
  issued : List Issued
  depth : Nat
  stall : Nat
  bound : W32
  fault : Option FaultRec
  late : List FaultRec
  halted : Bool
  fences : List (Nat × W16)
  await : Nat
  deriving DecidableEq, Repr

def RQ.empty (depth : Nat) : RQ :=
  { entries := [], issued := [], depth := depth, stall := 0, bound := 1048576, fault := none, late := [], halted := false,
    fences := [], await := 0 }

/-- A name issued and not yet pushed onto the NRQ, with the serial number of its block's write (R159, R202). -/
structure NameOut where
  name : Nat
  wid : Nat
  deriving DecidableEq, Repr

/-- The queues between the slice and the lanes: three routed queues, three CTQ sections, six token channels (key
3 from + to), the RTQ and the NRQ (R36, R158, R159). A task has an ordinary set and a handler set (R351). -/
structure QSet where
  ldq : RQ
  cmq : RQ
  stq : RQ
  ctqLd : List CtqEntry
  ctqCm : List CtqEntry
  ctqSt : List CtqEntry
  tok : Assoc Nat
  rtq : List W64
  nrq : List Nat
  names : List NameOut
  deriving DecidableEq, Repr

def QSet.empty (ld cm st : Nat) : QSet :=
  { ldq := RQ.empty ld, cmq := RQ.empty cm, stq := RQ.empty st, ctqLd := [], ctqCm := [], ctqSt := [], tok := [],
    rtq := [], nrq := [], names := [] }

/-- One item of a stream of the context that has not been performed whole (R328, R345). `load`: a scalar load with its
destination, size and extension, and the bytes it has already read (R329): address, value, poison. `write`: a write of bytes; in
the slice stream pos is 1 where the access is not naturally aligned, and in the STQ stream the position of the entry. `read`: a
read of the LDQ entry at pos: for each byte its place and its address; the place is that in the register, or 65,536 (p + 1) and the place
in the tile for a fill of physical slot p. `tile`: the read of the tile in slot n of task ot by the
LDQ entry at pos (R218, R220). `fence`: a fence point with its scope and class mask. -/
inductive Access where
  | load (d : Reg) (addr size : Nat) (signed : Bool) (cls : Nat) (pc : Nat) (seen : List (Nat × Byte × Bool))
  | write (cells : List (Nat × Byte)) (cls : Nat) (wid : Nat) (pos : Nat)
  | read (want : List (Nat × Nat)) (cls : Nat) (pos : Nat)
  | tile (ot n off : Nat) (consume : Bool) (pos : Nat)
  | fence (scope : Nat) (mask : W16)
  deriving DecidableEq, Repr

/-- A FENCE.M marker group (R327): routing sequence numbers of the named queues, sequence numbers of the named
engines (commands below them), and whether a handler placed it (R351). -/
structure Marker where
  queues : List (Nat × Nat)
  engines : List (Nat × Nat)
  hs : Bool
  deriving DecidableEq, Repr

/-- A window (R227). `pos` is the routing sequence number of the TWIN that declared it, so that a TWIN that waits or faults
goes on where it stands (R230). -/
structure Window where
  pos : Nat
  first : Nat
  size : Nat
  groups : Nat
  rows : Nat
  pitch : Nat
  count : Nat
  tr : Nat
  cls : Nat
  h : Handle
  off : Int
  next : Nat
  oldest : Nat
  deriving DecidableEq, Repr

/-- One entry of a result FIFO: the sequence number, the status word and the range reported (R297, R326). -/
structure ResEntry where
  seq : Nat
  word : W64
  range : List (Nat × Nat)
  deriving DecidableEq, Repr

/-- A running or stopped MMA (R270): accumulator, next micro-step, active rows (the mask is read at issue, R246), format and
bands popped; whether the device has stopped it, and whether it holds the matrix unit (R269). -/
structure MmaRun where
  acc : Nat
  next : Nat
  rows : BitVec 128
  desc : BitVec 10
  band : W64
  stopped : Bool
  held : Bool
  deriving DecidableEq, Repr

/-- Why a context issues nothing (R349 to R359). -/
inductive Phase where
  /-- The ticket is on its way to the core (R138). -/
  | arriving
  /-- The registers are being written (R98). -/
  | starting
  | running
  /-- A trap waits for the drain (R350). -/
  | drainTrap (f : FaultRec) (resume : Nat)
  /-- A firmware-taken fault waits for the drain (R355). -/
  | drainFw (f : FaultRec)
  /-- Switched out after a firmware-taken fault (R355). -/
  | switchedOut (f : FaultRec)
  /-- Chosen as a victim and draining (R357): the newcomer's task, and whether TEND had issued. -/
  | drainPre (newcomer : Nat) (done : Bool)
  /-- Suspended by pre-emption (R146); done: TEND had issued. -/
  | suspended (done : Bool)
  /-- A fatal fault of this gang member has been decided: the gang's kill point is the end of this array cycle (R362). The newcomer that
  it was draining for, if any. -/
  | doomed (newcomer : Option Nat)
  /-- TEND has issued (R172). -/
  | ended
  deriving DecidableEq, Repr

/-- All the state of one context (R151, R152): a task's, or a core's firmware context's. `esem` is the counter of the topology
record that the task stands for (R101); `started` is its place in the order of starts (R146); `gone` holds page handles that have left
their registers while an access through them may be on its way (R193). -/
structure Task where
  fw : Bool
  die : Nat
  core : Nat
  ctx : Nat
  packet : Nat
  ticket : Nat
  member : Nat
  phase : Phase
  x : Assoc W64
  b : Assoc W64
  h : Assoc Handle
  lc : Assoc W64
  cb : Assoc W64
  p : Assoc W64
  i : Assoc W64
  pc : Nat
  fflags : BitVec 6
  rsrseed : W64
  cycle : Nat
  tvec : W64
  tpc : W64
  tcause : Byte
  taddr : W64
  tinfo : W64
  tdata : W64
  inTrap : Bool
  tsave : Assoc W64
  ord : QSet
  hnd : QSet
  fmtq : List (BitVec 10 × W64)
  dq0 : List (BitVec 128)
  dq1 : List (BitVec 128)
  win : Assoc (Option Window)
  v : Assoc VReg
  m : Assoc (BitVec 8192)
  acc : Assoc Accum
  mma : Option MmaRun
  slice : List Access
  ldqOut : List Access
  stqOut : List Access
  results : Assoc (List ResEntry)
  seq : Assoc Nat
  markers : List Marker
  routed : Nat
  wid : Nat
  partBase : Nat
  partSize : Nat
  yieldLeft : Nat
  walk : Option Nat
  missing : Option Nat
  residue : Nat
  saved : List Nat
  waitQ : Option Nat
  esem : Option Nat
  started : Nat
  gone : List Handle
  deriving DecidableEq, Repr

/-- A context that holds no task; also the values of R152 at a task's start. -/
def Task.empty : Task :=
  { fw := false, die := 0, core := 0, ctx := 0, packet := 0, ticket := 0, member := 0, phase := .arriving, x := [], b := [],
    h := [], lc := [], cb := [], p := [], i := [], pc := 0, fflags := 0, rsrseed := 0, cycle := 0, tvec := 0, tpc := 0,
    tcause := 0, taddr := 0, tinfo := 0, tdata := 0, inTrap := false, tsave := [], ord := QSet.empty 1 1 1,
    hnd := QSet.empty 8 8 8, fmtq := [], dq0 := [], dq1 := [], win := [], v := [], m := [], acc := [], mma := none,
    slice := [], ldqOut := [], stqOut := [], results := [], seq := [], markers := [], routed := 0, wid := 0, partBase := 0, partSize := 0,
    yieldLeft := 0, walk := none, missing := none, residue := 0, saved := [],
    waitQ := none, esem := none, started := 0, gone := [] }

/-! ### Cores -/

/-- State of a tile slot (R217). -/
inductive SlotState where
  | empty | filling | live | saved
  deriving DecidableEq, Repr

/-- A physical slot of a tile store (R214, R216): owner task, declared count, shares (holder task, count), generation,
poison, transposition code, the position of the owner's entry that fills it, and the 64 KiB of data. -/
structure TSlot where
  state : SlotState
  owner : Nat
  declared : Nat
  shares : List (Nat × Nat)
  gen : Nat
  poison : Bool
  tr : Nat
  filler : Nat
  data : BitVec 524288
  deriving DecidableEq, Repr

def TSlot.empty : TSlot :=
  { state := .empty, owner := 0, declared := 0, shares := [], gen := 0, poison := false, tr := 0, filler := 0, data := 0 }

/-- A tile saved by pre-emption: the victim's task, the partition slot number, and the tile (R225). -/
structure SavedTile where
  task : Nat
  slot : Nat
  tile : TSlot
  deriving DecidableEq, Repr

/-- Passing of a unit (R358): free or held, being saved for a claimant, or being restored for it. -/
inductive UnitPass where
  | idle | saving (claimant : Nat) | restoring (claimant : Nat)
  deriving DecidableEq, Repr

/-- A unit that passes between tasks: vector banks 0 to 11, the accumulator set 12, dq0 and dq1 of context A 13 and 14, tile slots 16
to 79, and dq0 and dq1 of context B 80 and 81 (R358). -/
structure PUnit where
  holder : Option Nat
  pass : UnitPass
  deriving DecidableEq, Repr

def PUnit.empty : PUnit := { holder := none, pass := .idle }

/-- A TLB entry (R191): the leaf, its hotness counter, its generation, and the page its last access touched. -/
structure TlbEntry where
  idx : Nat
  asc : Nat
  va : Nat
  base : Nat
  size : Nat
  r : Bool
  w : Bool
  hot : Nat
  gen : Nat
  last : Nat
  deriving DecidableEq, Repr

/-- The two user contexts of a core hold a task and a suspended task (R142, R146). -/
structure CtxSlot where
  run : Option Nat
  susp : Option Nat
  deriving DecidableEq, Repr

def CtxSlot.empty : CtxSlot := { run := none, susp := none }

/-- A firmware image (R390, R391): physical address, length, version and hash. -/
structure FwImage where
  addr : Nat
  len : Nat
  version : W64
  hash : BitVec 256
  deriving DecidableEq, Repr

/-- State of one core. `mxLast` is the task whose MX entry last took the matrix unit (R269); `baroAt` is the time of the last record that
BARO wrote in each context (R376). `slotLog` names the context of each of the last 64 issue slots, the newest first: 0 A, 1 B, 2 F while a
user context was ready, 3 F while none was; `lastRouted`: the last user instruction was a routed one (R149, R368). `fwSwitched`: its
context F runs the staged image; `fwOld` is the image of a hand-over that was rolled back, which it runs until it switches back (R390). -/
structure Core where
  slots : Assoc TSlot
  savedTiles : List SavedTile
  units : Assoc PUnit
  tlb : List TlbEntry
  tlbGen : Assoc Nat
  icache : List Nat
  fenced : W16
  out : Bool
  fails : Nat
  mmas : Nat
  mxLast : Option Nat
  baroAt : Assoc Nat
  slotLog : List Nat
  lastRouted : Bool
  strip : Bool
  lastPass : Nat
  ctxA : CtxSlot
  ctxB : CtxSlot
  fwSwitched : Bool
  fwOld : Option FwImage
  deriving DecidableEq, Repr

def Core.empty : Core :=
  { slots := [], savedTiles := [], units := [], tlb := [], tlbGen := [], icache := [], fenced := 0, out := false, fails := 0,
    mmas := 0, mxLast := none, baroAt := [], slotLog := [], lastRouted := false, strip := false, lastPass := 0, ctxA := CtxSlot.empty, ctxB := CtxSlot.empty, fwSwitched := false,
    fwOld := none }

/-! ### Memory sites -/

/-- What a parked tile keeps beside its block (R222). The owner's share is recorded against the block (`owner` count). -/
structure Parked where
  declared : Nat
  owner : Nat
  shares : List (Nat × Nat)
  tr : Nat
  poison : Bool
  deriving DecidableEq, Repr

/-- One 4 KiB unit of an arena (R199): whether the arena has it, whether it is free, the size of the block that
begins at it (0 if none), its context, its generation, whether the block awaits its last accesses (R211), and the
parked record. -/
structure AUnit where
  exist : Bool
  free : Bool
  size : Nat
  asc : Nat
  gen : Nat
  leaving : Bool
  parked : Option Parked
  deriving DecidableEq, Repr

def AUnit.none : AUnit :=
  { exist := false, free := false, size := 0, asc := 0, gen := 0, leaving := false, parked := Option.none }

/-- State of a hand-over (R188, R196). -/
inductive HState where
  | none | revoking | draining | writingBack | switching
  deriving DecidableEq, Repr

/-- The hand-over in progress: the counter that completes it and its delta. -/
structure HandOver where
  file : Nat
  counter : Nat
  delta : Int
  deriving DecidableEq, Repr

/-- State of a memory site (R184 to R188, R199). `pins` are the pinned pages in the order in which they were pinned (R187);
`timedOut`: the hold in force has passed 2 ms (R206); `decayAt`: the time at which the decay period in course began (R186, R188). -/
structure Site where
  owner : Nat
  hstate : HState
  hand : Option HandOver
  swapCnt : W32
  holdCnt : Nat
  hot : Bool
  holdAt : Nat
  enable : Bool
  thresh : Nat
  decay : Nat
  remap : Assoc W16
  shadow : Assoc Byte
  pins : List Nat
  swapping : Option (Nat × Nat)
  swapped : List Nat
  sampled : Nat
  arena : Assoc AUnit
  quota : Assoc Nat
  used : Assoc Nat
  rights : List Nat
  corrected : Nat
  correctedAt : Option Nat
  timedOut : Bool
  decayAt : Nat
  deriving DecidableEq, Repr

/-- Site n at reset (R17, R188). -/
def Site.reset (n : Nat) : Site :=
  { owner := n / 4, hstate := .none, hand := Option.none, swapCnt := 0, holdCnt := 0, hot := false, holdAt := 0,
    enable := true, thresh := 16, decay := 8, remap := [], shadow := [], pins := [], swapping := Option.none, swapped := [],
    sampled := 0, arena := [], quota := [], used := [], rights := [], corrected := 0, correctedAt := Option.none, timedOut := false,
    decayAt := 0 }

/-! ### Resident slots and the launch front end -/

/-- State of a resident slot (R84). -/
inductive RState where
  | invalid | loading | resident | unloading
  deriving DecidableEq, Repr

/-- A mailbox response owed: function, TAG and CODE of the request (R385). -/
structure Owed where
  fn : Nat
  tag : Nat
  code : Nat
  deriving DecidableEq, Repr

/-- A resident slot (R84 to R86, R388): the frames of its three regions, 64 KiB page by page, and the kernel table as the load read it
(R88). -/
structure RSlot where
  state : RState
  gen : Nat
  func : Nat
  kcnt : Nat
  isize : Nat
  image : List Nat
  tmpl : List Nat
  tmplLen : Nat
  weights : List Nat
  writable : Bool
  mapOk : Bool
  kernels : List (BitVec 256)
  owed : List Owed
  deriving DecidableEq, Repr

def RSlot.empty : RSlot :=
  { state := .invalid, gen := 0, func := 0, kcnt := 0, isize := 0, image := [], tmpl := [], tmplLen := 0, weights := [],
    writable := false, mapOk := false, kernels := [], owed := [] }

/-- A host queue's registers and indices (R108, R109, R128). `reads` holds the ring indices of records that a withdrawal or a kill has to
read and whose page is held at the base die (R185, R206). -/
structure Queue where
  en : Bool
  asc : Nat
  func : Nat
  semf : Nat
  clog : Nat
  qlog : Nat
  qbase : Nat
  cbase : Nat
  notified : Nat
  readIdx : Nat
  cwrite : Nat
  cread : Nat
  cfgerr : Bool
  nrange : Bool
  cfull : Bool
  busy : Bool
  count : Nat
  scan : List Nat
  wcount : Nat
  heldW : List Nat
  resetting : Bool
  skips : List Nat
  reads : List Nat
  deriving DecidableEq, Repr

def Queue.empty : Queue :=
  { en := false, asc := 0, func := 0, semf := 0, clog := 4, qlog := 4, qbase := 0, cbase := 0, notified := 0, readIdx := 0,
    cwrite := 0, cread := 0, cfgerr := false, nrange := false, cfull := false, busy := false, count := 0, scan := [],
    wcount := 0, heldW := [], resetting := false, skips := [], reads := [] }

/-- Where a packet stands (R19, R117). -/
inductive PktPhase where
  /-- In the front end or the child pool, not yet head. -/
  | held
  /-- In a spill ring (R130). -/
  | spilled
  /-- Head, decoded, wait list not satisfied (R118). -/
  | waiting
  /-- Wait list passed, residency check due (R119). -/
  | passed
  /-- Checks passed, dispatch due. -/
  | ready
  | dispatched
  /-- Completed, its record waiting for ring space (R114 step 1). -/
  | completing
  /-- Bytes 8 to 31 issued. -/
  | body
  /-- Bytes 0 to 7 issued. -/
  | header
  /-- Signals applied or in flight, interrupt due. -/
  | signalled
  deriving DecidableEq, Repr

/-- The walker of a table-mode packet (R102, R103): next record, whether the signal array has been read, its entries,
the experts served by any record and by one handed out, a fault awaiting an answer or the cause that ended the walk, and the requests
that wait for a record: time and core (R141). -/
structure Walker where
  next : Nat
  haveArray : Bool
  entries : List W32
  served : List Nat
  handed : List Nat
  record : Option (BitVec 128)
  held : Bool
  failed : Option Byte
  bad : Bool
  asks : List (Nat × Nat)
  deriving DecidableEq, Repr

/-- A packet (R2): its record of 1,024 bits, where it came from, and what its tasks have done. `who` names the task whose fault or kill
came first, at time `faultAt` (R354, R362). `partly` says which bytes of its completion record have been performed apart from the rest, and the
time that the record states (R112, R329). -/
structure Packet where
  record : BitVec 1024
  poisoned : Bool
  child : Bool
  queue : Nat
  qidx : Nat
  parent : Nat
  home : Nat
  func : Nat
  asc : Nat
  file : Nat
  prio : Nat
  phase : PktPhase
  reserve : Bool
  status : Nat
  cause : Byte
  who : Nat
  lo0 : Nat
  hi0 : Nat
  lo1 : Nat
  hi1 : Nat
  order : Nat
  faultAt : Nat
  walker : Option Walker
  firstPulled : Bool
  tasks : Nat
  commands : Nat
  retired : Nat
  resid : Nat
  stop : Bool
  scanOf : Option Nat
  noIntr : Bool
  done : Bool
  sigs : Nat
  cidx : Nat
  partly : Option (Nat × List Nat)
  deriving DecidableEq, Repr

def Packet.empty : Packet :=
  { record := 0, poisoned := false, child := false, queue := 0, qidx := 0, parent := 0, home := 0, func := 0, asc := 0, file := 0,
    prio := 0, phase := .held, reserve := false, status := 0, cause := 0, who := 0, lo0 := 0, hi0 := 0, lo1 := 0, hi1 := 0,
    order := 0, faultAt := 0, walker := none, firstPulled := false, tasks := 0, commands := 0, retired := 0, resid := 0, stop := false,
    scanOf := none, noIntr := false, done := false, sigs := 0, cidx := 0, partly := none }

/-- A child pool (R129, R130). `ring` holds the packets of the spill ring in order: the LFE keeps what belongs to an entry beside
it (R418). `waiting` holds the LAUNCHes that wait for a place, in the order in which they reached the LFE: task and pc. -/
structure Pool where
  hwm : Nat
  sen : Bool
  slog : Nat
  spill : Nat
  seq : Nat
  spillHead : Nat
  spillTail : Nat
  ring : List Nat
  waiting : List (Nat × Nat)
  deriving DecidableEq, Repr

def Pool.empty : Pool := { hwm := 3072, sen := false, slog := 0, spill := 0, seq := 0, spillHead := 0, spillTail := 0, ring := [], waiting := [] }

/-- A signal in flight (R115, R116): package file, counter, delta, whether it is a forced abort, and its packet. -/
structure Sig where
  file : Nat
  counter : Nat
  delta : Int
  abort : Bool
  packet : Option Nat
  deriving DecidableEq, Repr

/-! ### Copy engines -/

/-- State of a command (R291). -/
inductive CmdState where
  | queued | waiting
  /-- Waiting, and its counter has been seen ABORTED. -/
  | aborting
  | running | held
  /-- Held, answered "resume", waiting for a running place. -/
  | resumed
  | ended
  deriving DecidableEq, Repr

/-- Bytes that a command has applied and memory has not performed: those of one element, with its row (R292, R294, R329). -/
structure Post where
  row : Nat
  cells : List (Nat × Byte)
  deriving DecidableEq, Repr

/-- A copy-engine command (R289 to R298): its sixteen doublewords and what it has done. `who` names the task that pushed it,
`progress` is the next element, `count` what it has applied, `wrote` the bytes written, `out` the outputs that a SCAN or an RTE job
has to write: reference, displacement, width and value. `pages` holds what it has translated: start, base, size, R, W. `flight` holds its
writes that have not been performed, in element order; `part` the source bytes of the next element that have been read apart from the rest
(R329); `got` the elements that a SCAN, or the logits that an RTE job, has read. -/
structure Cmd where
  die : Nat
  engine : Nat
  task : Nat
  who : Nat
  packet : Nat
  func : Nat
  asc : Nat
  file : Nat
  seq : Nat
  dw : List W64
  state : CmdState
  progress : Nat
  count : Nat
  flags : BitVec 6
  pages : List (Nat × Nat × Nat × Bool × Bool)
  names : List Nat
  wrote : List (Nat × Nat)
  out : List (Nat × Nat × Nat × Nat)
  flight : List Post
  part : List (Nat × Byte)
  got : List Nat
  start : Nat
  acked : Nat
  sent : Bool
  phase2 : Bool
  word : W64
  deriving DecidableEq, Repr

def Cmd.empty : Cmd :=
  { die := 0, engine := 0, task := 0, who := 0, packet := 0, func := 0, asc := 0, file := 0, seq := 0, dw := [], state := .queued,
    progress := 0, count := 0, flags := 0, pages := [], names := [], wrote := [], out := [], flight := [], part := [], got := [], start := 0, acked := 0, sent := false,
    phase2 := false, word := 0 }

/-! ### Host interface, health and firmware -/

/-- Moderation state of one MSI-X vector (R365). Masked at reset, as the PCIe specification has it (PRESUMED, log 4). -/
structure Vector where
  pending : Nat
  since : Nat
  masked : Bool
  pbit : Bool
  sent : Nat
  deriving DecidableEq, Repr

def Vector.empty : Vector := { pending := 0, since := 0, masked := true, pbit := false, sent := 0 }

/-- A posted write of a host that the HIF has not performed: to memory, or to LFE_QNOTIFY, LFE_SEMVAL, LFE_WITHDRAW, LFE_KILL or
HIF_MBNOTIFY behind such a one (R110, R124, R328, R335, R361, R385). -/
inductive HostOp where
  | mem (cells : List (Nat × Byte))
  | notify (q : Nat) (v : W64)
  | sem (file n : Nat) (v : W32)
  | withdraw (q : Nat) (v : W64)
  | kill (q : Nat) (v : W64)
  | mailbox (v : W64)
  deriving DecidableEq, Repr

/-- Registers of one function (R364, R385), and its posted writes that the HIF has not performed, oldest first (R110, R328). -/
structure Func where
  en : Bool
  flr : Bool
  ndrop : W32
  kcnt : Nat
  hold : Nat
  cnt : Nat
  weight : Nat
  mbEn : Bool
  mbLog : Nat
  mbQbase : Nat
  mbRbase : Nat
  mbNotified : Nat
  mbRead : Nat
  mbResp : Nat
  posted : List HostOp
  deriving DecidableEq, Repr

def Func.empty : Func :=
  { en := false, flr := false, ndrop := 0, kcnt := 0, hold := 0, cnt := 0, weight := 256, mbEn := false, mbLog := 0,
    mbQbase := 0, mbRbase := 0, mbNotified := 0, mbRead := 0, mbResp := 0, posted := [] }

/-- The barograph (R379). -/
structure Baro where
  ring : Assoc (BitVec 256)
  total : W32
  head : Nat
  frozen : Bool
  deriving DecidableEq, Repr

/-- Package health (R383). -/
inductive Health where
  | clear | overcast | storm
  deriving DecidableEq, Repr

/-- State of the firmware hand-over (R390). -/
inductive FwState where
  | idle | staged | switching
  deriving DecidableEq, Repr

/-- A revocation in progress (R193): the response owed, the commands it waits for, and the accesses it waits for: those of a task to a
physical range, or writes to a range that a task which is no more has left at the base die. -/
structure Revocation where
  owed : Option Owed
  cmds : List Nat
  writes : List (Option Nat × Nat × Nat)
  deriving DecidableEq, Repr

/-- Who moves next (log 7). -/
inductive Move where
  /-- The slice of a task issues its next unit. -/
  | issue (t : Nat)
  /-- The head of a routed queue of a task tries to issue. -/
  | head (t q : Nat) (hs : Bool)
  /-- A step of the device or an input from outside; the task, packet or command it acts on. -/
  | event (subject : Nat) (i : Instr)
  /-- Function fn's host posts a memory write of some bytes at a device physical address through the HIF (R110, R328). -/
  | hostWrite (fn a : Nat) (bytes : List Byte)
  /-- The oldest posted write of function fn is performed: all of it (0), or the bytes that the bits of which number (R110, R328, R329). -/
  | hostPerform (fn which : Nat)
  /-- Firmware sets the root table of an address-space context, or takes it away (R189). -/
  | root (asc : Nat) (table : Option Nat)
  /-- Firmware loads context F of a core, which then runs at an address of the active image (R151; log 46). -/
  | firmware (core pc : Nat)
  /-- Firmware of die d cannot answer a fault (R383). -/
  | unanswered (d : Nat)
  /-- An uncorrectable error in the contact sheet of a site (R199, R383). -/
  | sheetError (site : Nat)
  /-- The n-th fabric element that waits at this package is tried again (0), or the bytes that the bits of which number are performed
  (R315, R322, R329). -/
  | retry (n which : Nat)
  /-- Firmware writes the oldest response that function fn is owed and whose page was held (R185, R206, R385). -/
  | reply (fn : Nat)
  /-- The n-th write that waits at a base die for what issued it is performed (R206, R360). -/
  | late (n : Nat)
  /-- A withdrawal of queue q has read the last record it had to read (R124, R185, R206). -/
  | scanEnd (q : Nat)
  /-- Array cycles pass. -/
  | elapse (n : Nat)
  deriving DecidableEq, Repr

/-- For whom `exec` runs an instruction: the slice, or the head of a routed queue. -/
inductive Turn where
  | slice
  | head (q : Nat) (hs : Bool)
  deriving DecidableEq, Repr

/-- A read of the launch front end (R111, R102): the next record of a queue, or the next part of the topology table of a packet. -/
inductive LfeRead where
  | record (q : Nat)
  | table (packet : Nat)
  deriving DecidableEq, Repr

/-- The launch front end, its queues, packets and semaphores (05, 06). `reserved0` and `reserved1` are the clusters that each die has
reserved, with the gang packet each is for, the first reserved first (R144). `early` holds bytes of the read that each reader makes next
which have been read apart from the rest: address, byte and poison (R329). -/
structure Lfe where
  sems : Assoc W32
  queues : Assoc Queue
  packets : Assoc Packet
  nextPacket : Nat
  pool0 : Pool
  pool1 : Pool
  signals : List Sig
  ptr : Assoc Nat
  deficit : Assoc Nat
  order : Nat
  share0 : Nat
  share1 : Nat
  reserved0 : List (Nat × Nat)
  reserved1 : List (Nat × Nat)
  early : List (LfeRead × Nat × Byte × Bool)
  deriving DecidableEq, Repr

/-- The copy engines, the routing engines and the fabric (12). `inbox` holds the elements from other packages that have arrived and
wait, in the order of their arrival, and `refused` the commands of other packages that have been refused (R315, R322); `pfAt` is the
time, plus 1, at which an engine last served a fill (R309). `late` holds writes that a swap or a thermal hold keeps at the base die while
what issued them goes on or is no more: those of killed tasks and of stopped commands, with their packet, and those of the LFE to a spill
ring, with 0 (R130, R185, R206, R319, R360). -/
structure Ce where
  cmds : Assoc Cmd
  nextCmd : Nat
  budget : Assoc Nat
  rte0 : Option Nat
  rte1 : Option Nat
  outbox : List (Nat × Flit)
  inbox : List (Nat × Flit)
  refused : List (Nat × Nat)
  landed : List (Nat × Nat × List Nat)
  pfAt : Assoc Nat
  lost : List Nat
  retrains : Assoc Nat
  late : List (Nat × List (Nat × Byte))
  deriving DecidableEq, Repr

/-- The host interface, slots, resources, health and firmware (04, 14, 15). `resetAt0`, `resetAt1` and `fwSince` are the times at which
a die's warm reset and a hand-over of firmware began (R390, R394). `replies` holds the
responses that firmware has to write once their page is held no more, with their STATUS (R185, R206). -/
structure Hif where
  funcs : Assoc Func
  vectors : Assoc Vector
  slots : Assoc RSlot
  ownFile : Assoc Nat
  ownSlot : Assoc Nat
  ownAsc : Assoc Nat
  baro : Baro
  health : Health
  repl : Bool
  why : Nat
  reset0 : Bool
  reset1 : Bool
  resetAt0 : Nat
  resetAt1 : Nat
  strip0 : Bool
  strip1 : Bool
  ilog0 : Nat
  ilog1 : Nat
  fwState : FwState
  active : FwImage
  staged : Option FwImage
  fwOwed : Option Owed
  fwSince : Nat
  leaf : Nat
  revs : Assoc Revocation
  nextRev : Nat
  replies : List (Owed × Nat)
  deriving DecidableEq, Repr

/-- The machine. -/
structure State where
  mem : List Host.Cell
  poison : Assoc Bool
  time : Nat
  fabno : BitVec 12
  roots : Assoc (Option Nat)
  tasks : Assoc Task
  nextTask : Nat
  cores : Assoc Core
  site0 : Site
  site1 : Site
  site2 : Site
  site3 : Site
  site4 : Site
  site5 : Site
  site6 : Site
  site7 : Site
  lfe : Lfe
  ce : Ce
  hif : Hif
  agenda : List Move
  cur : Nat
  turn : Turn
  tick : Nat
  deriving DecidableEq, Repr

/-- Why the machine stops. -/
inductive Fault where
  /-- Raised by the meaning of an instruction word where exec is asked to run it for a task that the state does not hold. Safe:
  `step` runs a word only for a task that the state holds. -/
  | noTask
  deriving DecidableEq, Repr

/-- Why the machine gives no meaning. -/
inductive Refusal where
  /-- Raised by an arm of exec that has no meaning yet. Safe. -/
  | notModelled (mnemonic : String)
  /-- Raised by a scalar or vector access of the firmware context to the device-register range, whose layout in
  physical space the spec does not give (R181, R183). Safe. -/
  | registerWindow
  /-- Raised by SRD or SWR of a register 0x800 to 0xFFF in context F, whose registers the spec does not give (R369). Safe. -/
  | firmwareRegister
  deriving DecidableEq, Repr

/-- The package after cold reset (R6, R17, R394): every field at the value INVENTORY.md gives. -/
def State.reset : State :=
  { mem := [], poison := [], time := 0, fabno := 0, roots := [], tasks := [], nextTask := 192, cores := [],
    site0 := Site.reset 0, site1 := Site.reset 1, site2 := Site.reset 2, site3 := Site.reset 3,
    site4 := Site.reset 4, site5 := Site.reset 5, site6 := Site.reset 6, site7 := Site.reset 7,
    lfe := { sems := [], queues := [], packets := [], nextPacket := 1, pool0 := Pool.empty, pool1 := Pool.empty,
             signals := [], ptr := [], deficit := [], order := 0, share0 := 2, share1 := 2, reserved0 := [],
             reserved1 := [], early := [] },
    ce := { cmds := [], nextCmd := 0, budget := [], rte0 := none, rte1 := none, outbox := [], inbox := [], refused := [], landed := [], pfAt := [], lost := [], retrains := [], late := [] },
    hif := { funcs := [], vectors := [], slots := [], ownFile := [], ownSlot := [], ownAsc := [],
             baro := { ring := [], total := 0, head := 0, frozen := false }, health := .clear, repl := false, why := 0,
             reset0 := false, reset1 := false, resetAt0 := 0, resetAt1 := 0, strip0 := true, strip1 := true, ilog0 := 12, ilog1 := 12,
             fwState := .idle, active := { addr := 0, len := 0, version := 0, hash := 0 }, staged := none, fwOwed := none, fwSince := 0, leaf := 0,
             revs := [], nextRev := 0, replies := [] },
    agenda := [], cur := 0, turn := .slice, tick := 0 }

end Sys2Proof.Machine
end

