-- ==== Sys2Proof/Machine/Table.lean ====
section
/-! DEFINITION. Sparse tables in one canonical form: keys strictly rising, and no entry equal to the default. -/

namespace Sys2Proof.Machine

/-- Value at key n, or the default d. -/
def get {α : Type} (d : α) : Assoc α → Nat → α
  | [], _ => d
  | (k, v) :: r, n => if k = n then v else get d r n

/-- The table without key n. -/
def without {α : Type} (l : Assoc α) (n : Nat) : Assoc α := if l.any fun p => p.1 == n then l.filter fun p => p.1 != n else l

/-- Write v at key n; writing the default removes the entry. -/
def put {α : Type} [DecidableEq α] (d : α) : Assoc α → Nat → α → Assoc α
  | [], n, v => if v = d then [] else [(n, v)]
  | (k, w) :: r, n, v =>
    if n < k then (if v = d then (k, w) :: without r n else (n, v) :: (k, w) :: r)
    else if n = k then (if v = d then without r n else (n, v) :: r)
    else (k, w) :: put d r n v

/-- Value at key n, if there is one. -/
def find {α : Type} : Assoc α → Nat → Option α
  | [], _ => none
  | (k, v) :: r, n => if k = n then some v else find r n

/-- Write v at key n. -/
def ins {α : Type} : Assoc α → Nat → α → Assoc α
  | [], n, v => [(n, v)]
  | (k, w) :: r, n, v => if n < k then (n, v) :: (k, w) :: r else if n = k then (n, v) :: r else (k, w) :: ins r n v

/-- Remove key n. -/
def del {α : Type} (l : Assoc α) (n : Nat) : Assoc α := without l n

/-- Apply f to the value at every key. -/
def mapVals {α : Type} (f : Nat → α → α) (l : Assoc α) : Assoc α := l.map fun p => (p.1, f p.1 p.2)

/-- Apply f to every value and drop the entries that become the default. -/
def mapDrop {α : Type} [DecidableEq α] (d : α) (f : Nat → α → α) (l : Assoc α) : Assoc α :=
  (l.map fun p => (p.1, f p.1 p.2)).filter fun p => decide (p.2 ≠ d)

/-- Keys strictly rise from above lo, and no value is the default. -/
def sortedFrom {α : Type} [DecidableEq α] (d : α) : Nat → Assoc α → Bool
  | _, [] => true
  | lo, (k, v) :: r => decide (lo ≤ k) && decide (v ≠ d) && sortedFrom d (k + 1) r

/-- The canonical form of memory: addresses strictly rising, and no listed byte equal to what an unlisted one reads as. -/
abbrev Memory.wf (m : List Host.Cell) : Prop := sortedFrom (0 : Byte) 0 m = true

/-- What a byte of memory that nothing has written reads as (DESIGN CHOICE, log 1). -/
def unlisted : Byte := 0

/-! ### Lists -/

/-- Replace element n. -/
def setAt {α : Type} : List α → Nat → α → List α
  | [], _, _ => []
  | _ :: r, 0, v => v :: r
  | a :: r, n + 1, v => a :: setAt r n v

/-- Remove element n. -/
def dropAt {α : Type} : List α → Nat → List α
  | [], _ => []
  | _ :: r, 0 => r
  | a :: r, n + 1 => a :: dropAt r n

/-- Sum of a list. -/
def sumNat : List Nat → Nat
  | [] => 0
  | a :: r => a + sumNat r

/-- Apply f for each element of a list in turn. -/
def each {σ α : Type} (f : α → σ → σ) : List α → σ → σ
  | [], s => s
  | a :: r, s => each f r (f a s)

/-! ### Lookups in the state -/

/-- The task t, or an empty context. -/
def State.task (s : State) (t : Nat) : Task := (find s.tasks t).getD Task.empty

/-- Write task t. -/
def State.setTask (s : State) (t : Nat) (k : Task) : State := { s with tasks := ins s.tasks t k }

/-- Core number of the package: 96 per die (R13). -/
def Task.coreKey (k : Task) : Nat := 96 * k.die + k.core

def State.core (s : State) (c : Nat) : Core := get Core.empty s.cores c

def State.setCore (s : State) (c : Nat) (v : Core) : State := { s with cores := put Core.empty s.cores c v }

def State.site (s : State) (n : Nat) : Site :=
  match n with
  | 0 => s.site0 | 1 => s.site1 | 2 => s.site2 | 3 => s.site3 | 4 => s.site4 | 5 => s.site5 | 6 => s.site6 | _ => s.site7

def State.setSite (s : State) (n : Nat) (v : Site) : State :=
  match n with
  | 0 => { s with site0 := v } | 1 => { s with site1 := v } | 2 => { s with site2 := v } | 3 => { s with site3 := v }
  | 4 => { s with site4 := v } | 5 => { s with site5 := v } | 6 => { s with site6 := v } | 7 => { s with site7 := v }
  | _ => s

def State.packet (s : State) (p : Nat) : Packet := (find s.lfe.packets p).getD Packet.empty

def State.setPacket (s : State) (p : Nat) (v : Packet) : State :=
  { s with lfe := { s.lfe with packets := ins s.lfe.packets p v } }

def State.queue (s : State) (q : Nat) : Queue := get Queue.empty s.lfe.queues q

def State.setQueue (s : State) (q : Nat) (v : Queue) : State :=
  { s with lfe := { s.lfe with queues := put Queue.empty s.lfe.queues q v } }

def State.cmd (s : State) (c : Nat) : Cmd := (find s.ce.cmds c).getD Cmd.empty

def State.setCmd (s : State) (c : Nat) (v : Cmd) : State := { s with ce := { s.ce with cmds := ins s.ce.cmds c v } }

def State.rslot (s : State) (n : Nat) : RSlot := get RSlot.empty s.hif.slots n

def State.setRslot (s : State) (n : Nat) (v : RSlot) : State :=
  { s with hif := { s.hif with slots := put RSlot.empty s.hif.slots n v } }

def State.func (s : State) (f : Nat) : Func := get Func.empty s.hif.funcs f

def State.setFunc (s : State) (f : Nat) (v : Func) : State :=
  { s with hif := { s.hif with funcs := put Func.empty s.hif.funcs f v } }

/-- Counter n of package file f (R115). -/
def State.sem (s : State) (f n : Nat) : W32 := get 0 s.lfe.sems (256 * f + n)

def State.setSem (s : State) (f n : Nat) (v : W32) : State :=
  { s with lfe := { s.lfe with sems := put 0 s.lfe.sems (256 * f + n) v } }

/-- A fresh free value (log 8). -/
def State.draw (s : State) : Nat × State := (Config.free s.tick, { s with tick := s.tick + 1 })

end Sys2Proof.Machine
end

