-- ==== Sys2Proof/Machine/Mem.lean ====
section
/-! DEFINITION. Memory: the physical map, poison, bytes and words, the barograph, page tables and slot windows
(08_memory_sites.md R181 to R191, R388, R417; 15_retirement_and_health.md R379 to R382). -/

namespace Sys2Proof.Machine

/-! ### The physical map (R181) -/

/-- Base of the model's addresses for arena blocks, whose frames the spec does not place (log 17). -/
def arenaBase : Nat := 2 ^ 60

/-- Address of the first byte of unit index of channel chan of site n's arena (log 17). -/
def arenaAddr (site chan index : Nat) : Nat := arenaBase + 4096 * (2 ^ 32 * (32 * site + chan) + index)

/-- The address stands for a frame of the arena of one of the eight sites (R12, R199; log 17). -/
def inArena (a : Nat) : Bool := decide (arenaBase ≤ a) && decide (a < arenaBase + 2 ^ 52)

/-- Site that holds physical address a, if a lies in a site (R181). -/
def siteOf (a : Nat) : Option Nat :=
  if inArena a then some (a / 2 ^ 49 - 2048) else if a < 2 ^ 41 then some (a / 2 ^ 38) else none

/-- Host memory (R181). -/
def isHost (a : Nat) : Bool := decide (2 ^ 47 ≤ a) && decide (a < 2 ^ 48)

/-- Device registers (R181). -/
def isDevReg (a : Nat) : Bool := decide (2 ^ 41 ≤ a) && decide (a < 2 ^ 42)

/-- The address holds a byte: memory of a site, host memory, or an arena block (R181). -/
def mapped (a : Nat) : Bool :=
  (decide (a < 2 ^ 41) && decide (a % 2 ^ 38 < 240 * 2 ^ 30)) || isHost a || inArena a

/-- The top 8 MiB of a site's memory (R183). -/
def reserved (a : Nat) : Bool :=
  decide (a < 2 ^ 41) && decide (240 * 2 ^ 30 - 8 * 2 ^ 20 ≤ a % 2 ^ 38) && decide (a % 2 ^ 38 < 240 * 2 ^ 30)

/-- Frame-swap page of a site address: congruence group and slot (R184). -/
def pageGroup (a : Nat) : Nat := a % 2 ^ 38 / 65536 % 786432
def pageSlot (a : Nat) : Nat := a % 2 ^ 38 / 65536 / 786432

/-- MAP of a group at reset: slot s in frame s (R184). -/
def identMap : W16 := 0x4688

/-- Frame that holds slot s of group g: 0 is the fast frame (R184). -/
def Site.frame (st : Site) (g s : Nat) : Nat := (get identMap st.remap g).toNat / 2 ^ (3 * s) % 8

/-- The stack of address a is in forced self-refresh and the page is in the fast tier (R206). Arena frames are fast-tier frames
(R199). -/
def State.hotAt (s : State) (a : Nat) : Bool :=
  match siteOf a with
  | none => false
  | some i => (s.site i).hot && (decide (arenaBase ≤ a) || (mapped a && (s.site i).frame (pageGroup a) (pageSlot a) == 0))

/-- The page of address a takes part in a swap (R185). -/
def State.swapsAt (s : State) (a : Nat) : Bool :=
  match siteOf a with
  | none => false
  | some i =>
    let st := s.site i
    mapped a && decide (a < arenaBase) &&
      st.swapping.any fun w => w.1 == pageGroup a && (w.2 == pageSlot a || st.frame (pageGroup a) (pageSlot a) == 0)

/-- An access to address a waits at the base die (R185, R206). -/
def State.heldAt (s : State) (a : Nat) : Bool := s.hotAt a || s.swapsAt a

/-- Part of an access to n bytes at a waits at the base die. -/
def State.held (s : State) (a n : Nat) : Bool :=
  s.heldAt a || s.heldAt (a + n - 1) || ((List.range (n / 65536)).any fun j => s.heldAt (a + 65536 * j))

/-! ### Bytes -/

/-- The byte at a; an unmapped address holds none and its data are poisoned (R182). -/
def State.byte (s : State) (a : Nat) : Byte := if mapped a then get unlisted s.mem a else 0

/-- The byte at a is poisoned (R417), as every unmapped one is (R182). -/
def State.bad (s : State) (a : Nat) : Bool := !mapped a || get false s.poison a

/-- Write one byte; a write to an unmapped address is discarded (R182), and a written byte is not poisoned (R417). -/
def State.setByte (s : State) (a : Nat) (v : Byte) : State :=
  if mapped a then { s with mem := put unlisted s.mem a v, poison := put false s.poison a false } else s

/-- n bytes from address a up. -/
def addrs (a : Nat) : Nat → List Nat
  | 0 => []
  | n + 1 => a :: addrs (a + 1) n

def State.bytes (s : State) (a n : Nat) : List Byte := (addrs a n).map s.byte

/-- Little-endian value of n bytes at a. -/
def State.word (s : State) (a n : Nat) : Nat := wordOfBytes (s.bytes a n)

/-- One of n bytes at a is poisoned. -/
def State.badIn (s : State) (a n : Nat) : Bool := (addrs a n).any s.bad

/-- Pairs of address and byte for a run of bytes at a. -/
def cellsAt : Nat → List Byte → List (Nat × Byte)
  | _, [] => []
  | a, b :: r => (a, b) :: cellsAt (a + 1) r

/-- Write pairs of address and byte in order. -/
def State.store (s : State) : List (Nat × Byte) → State
  | [] => s
  | (a, b) :: r => (s.setByte a b).store r

/-- Whether the byte at an address is among those that a step performs: all of them where which is 0, else the units that hold the
events numbered by its bits. A unit is an aligned 8-byte chunk of a vector or tile access, and one byte of a scalar access that is not
naturally aligned (R329). -/
def whichItem (whole : Bool) (unit which : Nat) (l : List Nat) : Nat → Bool :=
  if whole || which == 0 then fun _ => true
  else
    let units := ((l.zipIdx.filter fun p => which.testBit p.2).map fun p => p.1 / unit).eraseDups
    fun a => units.contains (a / unit)

/-! ### The barograph (R379 to R382) -/

/-- Bits 107 to 80 of a record that names a task, and those of one that does not (R380). -/
def whoBits (s : State) (k : Option Task) : Nat :=
  match k with
  | none => 0
  | some t =>
    let p := s.packet t.packet
    p.asc % 4096 * 2 ^ 96 + p.func % 64 * 2 ^ 90 + t.die % 2 * 2 ^ 89 + t.core % 128 * 2 ^ 82 + t.ctx % 2 * 2 ^ 81 + 2 ^ 80

/-- Time of a record, and its place among those of one cycle: kind, then die, then core (R380, R382). -/
def recTime (r : BitVec 256) : Nat := bits r.toNat 255 192
def recKey (r : BitVec 256) : Nat := bits r.toNat 127 120 * 256 + bits r.toNat 89 82

/-- The record with the SEQ of another (R380). -/
def withSeq (r o : BitVec 256) : BitVec 256 :=
  BitVec.ofNat 256 (r.toNat - bits r.toNat 79 64 * 2 ^ 64 + bits o.toNat 79 64 * 2 ^ 64)

/-- The record in slot p goes before those of its cycle that come after it in the order of R382. -/
def sortNotes : Nat → Nat → Assoc (BitVec 256) → Assoc (BitVec 256)
  | 0, _, l => l
  | n + 1, p, l =>
    let q := (p + 16383) % 16384
    let a := get 0 l q
    let b := get 0 l p
    if recTime a = recTime b ∧ recKey b < recKey a then sortNotes n q (put 0 (put 0 l p (withSeq a b)) q (withSeq b a)) else l

/-- Write one record, unless the barograph is frozen (R379, R380, R382). -/
def State.note (s : State) (kind code : Nat) (payload detail : W64) (who : Option Task) : State :=
  let b := s.hif.baro
  if b.frozen then s
  else
    let r : BitVec 256 := BitVec.ofNat 256 (s.time % 2 ^ 64 * 2 ^ 192 + payload.toNat * 2 ^ 128 + kind * 2 ^ 120 +
      code % 4096 * 2 ^ 108 + whoBits s who + b.total.toNat % 65536 * 2 ^ 64 + detail.toNat)
    { s with hif := { s.hif with baro := { b with ring := sortNotes 16383 b.head (put 0 b.ring b.head r), total := b.total + 1,
                                                  head := (b.head + 1) % 16384 } } }

/-- Perform a write: the bytes, and a record if one of them has no place in memory (R182). -/
def State.perform (s : State) (cells : List (Nat × Byte)) : State :=
  let s1 := s.store cells
  match cells.find? fun c => !mapped c.1 with
  | none => s1
  | some c => s1.note 0x0B 0 (BitVec.ofNat 64 c.1) 0 none

/-! ### Translation (R189 to R191, R388) -/

/-- A leaf of a walk: base, size, permissions and pin (R189). -/
structure Leaf where
  base : Nat
  size : Nat
  r : Bool
  w : Bool
  pin : Bool
  deriving DecidableEq, Repr

/-- Outcome of a walk. -/
inductive Walk where
  | leaf (l : Leaf)
  /-- Page not present, cause 0x0B (R189). -/
  | absent
  /-- A table lies in a site under hand-over, or its page is held at the base die: the walk waits (R185, R190, R206). -/
  | waits
  /-- A table entry read as poisoned (R182, R417). -/
  | poisoned
  deriving DecidableEq, Repr

/-- A site is under hand-over (R196). -/
def State.handing (s : State) (n : Nat) : Bool := (s.site n).hstate != .none

/-- Base of the window of slot n (R388). -/
def windowBase (n : Nat) : Nat := 2 ^ 51 + 2 ^ 42 * n

/-- Function that an address-space context is assigned to (R386). -/
def State.ascFunc (s : State) (asc : Nat) : Nat := get 0 s.hif.ownAsc asc

/-- The slot-window leaf of a virtual address, if the slot maps one in this context (R388). -/
def State.windowLeaf (s : State) (asc va : Nat) : Option Leaf :=
  if va < 2 ^ 51 ∨ 2 ^ 51 + 256 * 2 ^ 42 ≤ va then none
  else
    let n := va / 2 ^ 42 % 256
    let off := va % 2 ^ 42
    let r := s.rslot n
    if !r.mapOk || s.ascFunc asc != r.func then none
    else
      let page (l : List Nat) (o : Nat) (w : Bool) : Option Leaf :=
        match l[o / 65536]? with
        | none => none
        | some f => some { base := f, size := 65536, r := true, w := w, pin := false }
      if off < 2 ^ 32 then page r.image off false
      else if off < 2 ^ 34 then page r.tmpl (off - 2 ^ 32) false
      else page r.weights (off - 2 ^ 34) r.writable

/-- A page that the slot maps read-only holds one of n bytes at a: image, templates, or weights loaded so (R58, R85). -/
def RSlot.keeps (r : RSlot) (a n : Nat) : Bool :=
  r.state != .invalid && (r.image ++ r.tmpl ++ if r.writable then [] else r.weights).any fun f =>
    decide (f < a + n) && decide (a < f + 65536)

/-- No user context and no copy command writes there, through whichever mapping it comes (R58, R85; log 47). -/
def State.readOnly (s : State) (a n : Nat) : Bool := s.hif.slots.any fun e => e.2.keeps a n

/-- The walk from a table of level n, given n + 1 (R189). -/
def walkFrom (s : State) (va : Nat) : Nat → Nat → Walk
  | 0, _ => .absent
  | n + 1, table =>
    let idx := if n = 3 then va / 2 ^ 39 % 8192 else if n = 0 then va / 2 ^ 16 % 32 else va / 2 ^ (12 + 9 * n) % 512
    let a := table + 8 * idx
    if (siteOf a).any s.handing || s.heldAt a then .waits
    else if s.badIn a 8 then .poisoned
    else
      let e := s.word a 8
      let leaf := e / 4 % 2 == 1
      let base := 4096 * (e / 4096 % 2 ^ 36)
      if !(e % 2 == 1 && e / 2 ^ 48 == 0 && e / 32 % 64 == 0 && e / 2 % 2 == 0) then .absent
      else if leaf then
        let size := if n = 2 then 2 ^ 30 else if n = 1 then 2 ^ 21 else 2 ^ 16
        if n = 3 ∨ base % size ≠ 0 then .absent
        else .leaf { base := base, size := size, r := e / 8 % 2 == 1, w := e / 16 % 2 == 1, pin := e / 2048 % 2 == 1 }
      else if n = 0 then .absent
      else walkFrom s va n base

/-- Physical addresses of the table entries that the walk from a table reads (R186, R190). -/
def walkReads (s : State) (va : Nat) : Nat → Nat → List Nat
  | 0, _ => []
  | n + 1, table =>
    let idx := if n = 3 then va / 2 ^ 39 % 8192 else if n = 0 then va / 2 ^ 16 % 32 else va / 2 ^ (12 + 9 * n) % 512
    let e := s.word (table + 8 * idx) 8
    (table + 8 * idx) :: if e % 2 == 1 && e / 4 % 2 == 0 then walkReads s va n (4096 * (e / 4096 % 2 ^ 36)) else []

/-- Translate va in context asc (R189, R388). A context without a root maps nothing (log 3). -/
def State.walk (s : State) (asc va : Nat) : Walk :=
  if 2 ^ 52 ≤ va then .absent
  else
    match s.windowLeaf asc va with
    | some l => .leaf l
    | none => match get none s.roots asc with | none => .absent | some t => walkFrom s va 4 t

/-! ### Hotness (R186) -/

/-- Add n, saturating at 255. -/
def sat8 (b : Byte) (n : Nat) : Byte := BitVec.ofNat 8 (min 255 (b.toNat + n))

/-- Add to the shadow byte of the page that holds a. -/
def State.warm (s : State) (a n : Nat) : State :=
  match siteOf a with
  | none => s
  | some i =>
    if arenaBase ≤ a then s
    else
      let st := s.site i
      let pg := a % 2 ^ 38 / 65536
      s.setSite i { st with shadow := put 0 st.shadow pg (sat8 (get 0 st.shadow pg) n) }

/-- An access arrives at the site of a: every 4,096th is sampled (R186). -/
def State.arrive (s : State) (a : Nat) : State :=
  match siteOf a with
  | none => s
  | some i =>
    let st := s.site i
    if st.sampled + 1 < 4096 then s.setSite i { st with sampled := st.sampled + 1 }
    else (s.setSite i { st with sampled := 0 }).warm a 1

/-- Accesses at a list of addresses arrive (R186). -/
def State.arriveAll (s : State) (l : List Nat) : State := each (fun a s => s.arrive a) l s

/-- What the walk of va in context asc reads has arrived (R186, R190). -/
def State.walked (s : State) (asc va : Nat) : State :=
  if 2 ^ 52 ≤ va ∨ (s.windowLeaf asc va).isSome then s
  else match get none s.roots asc with | none => s | some t => s.arriveAll (walkReads s va 4 t)

/-- The same for n pages of 64 KiB from va. -/
def State.walkedPages (s : State) (asc va n : Nat) : State := each (fun j s => s.walked asc (va + 65536 * j)) (List.range n) s

/-- An access through a handle counts on its TLB entry while index and generation match (R186); one to host memory never does
(R192). -/
def State.touch (s : State) (c : Nat) (h : Handle) (a : Nat) : State :=
  let s1 :=
    match h.entry with
    | none => s
    | some (i, g) =>
      if h.host then s
      else
        let co := s.core c
        let f (e : TlbEntry) : TlbEntry := if e.idx = i ∧ e.gen = g then { e with hot := min 255 (e.hot + 1), last := a } else e
        s.setCore c { co with tlb := co.tlb.map f }
  s1.arrive a

/-- Accesses at a list of addresses through one handle, in order (R186). -/
def State.touchAll (s : State) (c : Nat) (h : Handle) (l : List Nat) : State := each (fun a s => s.touch c h a) l s

/-- The hotness of dropped TLB entries moves into the shadow table (R186). -/
def State.cool (s : State) (l : List TlbEntry) : State := each (fun e s => s.warm e.last e.hot) l s

end Sys2Proof.Machine
end

