-- ==== Sys2Proof/Machine/Counters.lean ====
section
/-! DEFINITION. Semaphore counters, the waits on them, and the end of a packet that a counter can bring about
(05_launching.md R113 to R118). -/

namespace Sys2Proof.Machine

/-- Bits hi to lo of a launch record (R89). -/
def Packet.field (p : Packet) (hi lo : Nat) : Nat := bits p.record.toNat hi lo

/-- Entries with V = 1 of a word of 21-bit entries: bits [19:8] and [7:0] (R93, R94). -/
def entries21 (w : Nat) (n : Nat) : List (Nat × Nat) :=
  (List.range n).filterMap fun k =>
    let e := w / 2 ^ (21 * k)
    if bits e 20 20 = 1 then some (bits e 19 8, bits e 7 0) else none

/-- Wait entries of a packet: threshold and counter (R93). -/
def Packet.waits (p : Packet) : List (Nat × Nat) := entries21 (p.field 255 192) 3

/-- The status of a packet that several endings touch: the lowest non-zero one (R113). -/
def mergeStatus (a b : Nat) : Nat := if a = 0 then b else if b = 0 then a else min a b

/-- The packet completes with a status (R113); the records of one ring are written in the order of completion (R114). -/
def State.finish (s : State) (id status : Nat) : State :=
  let p := s.packet id
  let s1 := s.setPacket id { p with phase := .completing, status := mergeStatus p.status status, order := s.lfe.order }
  { s1 with lfe := { s1.lfe with order := s1.lfe.order + 1 } }

/-! ### Counters (R115, R116, R118) -/

/-- Evaluate the wait list of a waiting packet (R118). -/
def State.evalWait (s : State) (id : Nat) : State :=
  let p := s.packet id
  let v (e : Nat × Nat) : Int := (s.sem p.file e.2).toInt
  if p.phase != .waiting then s
  else if p.waits.any fun e => decide (v e < 0) then s.finish id 2
  else if p.waits.all fun e => decide (v e ≤ e.1) then s.setPacket id { p with phase := .passed }
  else s

/-- Wait entry of a command: threshold and counter (R294). -/
def Cmd.wait (c : Cmd) : List (Nat × Nat) := entries21 (bits ((c.dw[1]?).getD 0).toNat 20 0) 1

/-- After a change of counter n of a file: waiting packets are evaluated, waiting commands see an aborted counter. -/
def State.wake (s : State) (file n : Nat) : State :=
  let ab := decide ((s.sem file n).toInt < 0)
  let f (c : Cmd) : Cmd :=
    if ab && c.state == .waiting && c.file == file && c.wait.any (fun e => e.2 == n) then { c with state := .aborting } else c
  let s1 := { s with ce := { s.ce with cmds := mapVals (fun _ c => f c) s.ce.cmds } }
  let ids := (s.lfe.packets.filter fun e => e.2.phase == .waiting && e.2.file == file && e.2.waits.any fun w => w.2 == n).map fun e => e.1
  each (fun id s => s.evalWait id) ids s1

/-- A counter takes a value. -/
def State.count (s : State) (file n : Nat) (v : W32) : State := (s.setSem file n v).wake file n

/-- A signal with delta d, from a task or not (R116), with its barograph record (R381). -/
def State.signal (s : State) (file n : Nat) (d : Int) (who : Option Task) : State :=
  let old := (s.sem file n).toInt
  let new := old + d
  if old < 0 then s
  else if 0 ≤ new ∧ new < 2 ^ 31 then s.count file n (BitVec.ofInt 32 new)
  else
    (s.note 0x0A n (BitVec.ofNat 64 file) (BitVec.ofInt 64 old) who).count file n
      (if new < 0 then BitVec.ofInt 32 new else BitVec.ofInt 32 (-2 ^ 31))

/-- Forced abort of a counter (R116). -/
def State.abort (s : State) (file n : Nat) : State :=
  if (s.sem file n).toInt < 0 then s else s.count file n (BitVec.ofInt 32 (-2 ^ 31))

end Sys2Proof.Machine
end

