-- ==== Sys2Proof/Machine/TileReads.lean ====
section
/-! DEFINITION. Tiles as they stand in their slots, their shares, and the reads of tiles that have left the head of the LDQ
(09_tile_store.md R216 to R220, R234). -/

namespace Sys2Proof.Machine

/-! ### Vector registers (R51, R205) -/

/-- The field names a vector register. -/
def isVReg (f : VField) : Bool := decide (f.toNat < 768)

/-- Vector register n. -/
def Task.rv (k : Task) (n : Nat) : VReg := get VReg.empty k.v n

def Task.wv (k : Task) (n : Nat) (v : VReg) : Task := { k with v := put VReg.empty k.v n v }

/-! ### Shares (R216 to R218) -/

/-- Count of holder t in a list of shares. -/
def shareOf (l : List (Nat × Nat)) (t : Nat) : Nat := sumNat ((l.filter fun p => p.1 == t).map fun p => p.2)

/-- Sum of the shares. -/
def shareSum (l : List (Nat × Nat)) : Nat := sumNat (l.map fun p => p.2)

/-- Set the count of a holder; a share of zero ceases to exist (R216). -/
def setShare (l : List (Nat × Nat)) (t n : Nat) : List (Nat × Nat) := l.filter (fun p => p.1 != t) ++ if n = 0 then [] else [(t, n)]

/-- The slot becomes EMPTY and its generation advances (R216, R217). -/
def TSlot.emptied (x : TSlot) : TSlot := { TSlot.empty with gen := (x.gen + 1) % 256 }

def TSlot.withShares (x : TSlot) (l : List (Nat × Nat)) : TSlot :=
  if shareSum l = 0 then x.emptied else { x with shares := l }

def State.tslot (s : State) (c p : Nat) : TSlot := get TSlot.empty (s.core c).slots p

/-- An MMA that has issued and not ended reads slot n of this context (R270). -/
def Task.mmaReads (k : Task) (n : Nat) : Bool :=
  k.ord.cmq.issued.any fun i => i.busy && (match i.entry.instr with | .mma f => f.ta.toNat == n || f.tb.toNat == n | _ => false)

/-- A running or stopped MMA of its owner reads the tile that stands in physical slot p of core c: the slot does not empty before the
MMA ends (R217, R270). A victim's MMA keeps the victim's saved tile, not what stands in the slot now (R225). -/
def State.mmaOn (s : State) (c p : Nat) : Bool :=
  let x := s.tslot c p
  x.state != .empty && (find s.tasks x.owner).any fun k => decide (k.partBase ≤ p) && k.mmaReads (p - k.partBase)

def State.setTslot (s : State) (c p : Nat) (v : TSlot) : State :=
  let co := s.core c
  s.setCore c { co with slots := put TSlot.empty co.slots p v }

/-- Physical slot p of core c takes the tile x with the shares l; without a share left it empties, once no MMA reads it (R217). -/
def State.setShares (s : State) (c p : Nat) (x : TSlot) (l : List (Nat × Nat)) : State :=
  s.setTslot c p (if s.mmaOn c p then { x with shares := l } else x.withShares l)

/-- What slot n of a partition holds for its owner (R217, R225). -/
inductive View where
  | beyond
  | empty
  /-- Another task's tile, a victim's, still stands in the physical slot (R225, R358). -/
  | other
  | saved
  | tile (x : TSlot)

def State.view (s : State) (t : Nat) (k : Task) (n : Nat) : View :=
  if k.partSize ≤ n then .beyond
  else if (s.core k.coreKey).savedTiles.any fun x => x.task == t && x.slot == n then .saved
  else
    let x := s.tslot k.coreKey (k.partBase + n)
    if x.state == .empty then .empty else if x.owner == t then .tile x else .other

/-- Physical slot n of a partition. -/
def Task.phys (k : Task) (n : Nat) : Nat := k.partBase + n

/-- A consuming read by task t of the tile x in slot n of task ok is counted: 1 less in the share of t (R217, R218). -/
def State.consume (s : State) (t : Nat) (ok : Task) (n : Nat) (x : TSlot) : State :=
  s.setShares ok.coreKey (ok.phys n) x (setShare x.shares t (shareOf x.shares t - 1))

/-! ### The reads of the LDQ that have left its head (R220, R249, R329) -/

/-- An issued entry of the LDQ at position pos of a task changes. -/
def QSet.atPos (q : QSet) (pos : Nat) (f : Issued → Issued) : QSet :=
  { q with ldq := { q.ldq with issued := q.ldq.issued.map fun i => if i.entry.pos = pos then f i else i } }

def Task.atPos (k : Task) (pos : Nat) (f : Issued → Issued) : Task := { k with ord := k.ord.atPos pos f, hnd := k.hnd.atPos pos f }

/-- The issued entry of the LDQ at position pos. -/
def Task.issuedAt (k : Task) (pos : Nat) : Option Issued := (k.ord.ldq.issued ++ k.hnd.ldq.issued).find? fun i => i.entry.pos == pos

/-- The position of the entry that an item of the LDQ stream reads for. -/
def Access.posOf : Access → Option Nat
  | .read _ _ p | .tile _ _ _ _ p => some p
  | _ => none

/-! ### Registers that another queue is writing (R243) -/

/-- What an issued entry keeps of register w changes as the register does. -/
def Issued.refresh (i : Issued) (w : Nat) (f : VReg → VReg) : Issued :=
  { i with olds := i.olds.map fun o => if o.1 = w then (w, f o.2) else o }

/-- A write of a queue reaches what entries of the other queues keep of register w: after it, their queues' writes are no longer the
last that the queue that wrote sees (R241, R243). -/
def QSet.refresh (s : QSet) (q w : Nat) (f : VReg → VReg) : QSet :=
  let on (n : Nat) (r : RQ) : RQ := if n = q then r else { r with issued := r.issued.map fun i => i.refresh w f }
  { s with ldq := on 0 s.ldq, cmq := on 1 s.cmq, stq := on 2 s.stq }

/-- An entry of the LDQ writes its register: what it held before can still be seen by other queues until the entry completes (R243). -/
def Task.lands (k : Task) (pos : Nat) (vd : VField) (f : VReg → VReg) : Task :=
  let n := vd.toNat
  if isVReg vd then
    let k1 := k.atPos pos fun i => { i with busy := false, olds := [(n, k.rv n)] }
    { k1 with ord := k1.ord.refresh 0 n f, hnd := k1.hnd.refresh 0 n f }.wv n (f (k.rv n))
  else k.atPos pos fun i => { i with busy := false, olds := [] }

/-! ### Tile reads (R217, R220, R234) -/

/-- The item reads a tile of task t. -/
def Access.readsTileOf (t : Nat) : Access → Bool
  | .tile ot .. => ot == t
  | _ => false

/-- The item reads slot n of task t. -/
def Access.readsSlot (t n : Nat) : Access → Bool
  | .tile o m _ _ _ => o == t && m == n
  | _ => false

/-- The item is a consuming read. -/
def Access.consumes : Access → Bool
  | .tile _ _ _ c _ => c
  | _ => false

/-- 8 KiB of a tile as a register, every row written. -/
def tileReg (tl : TSlot) (off : Nat) : VReg :=
  { bits := BitVec.ofNat 65536 (tl.data.toNat / 2 ^ (8 * off)), written := BitVec.allOnes 32 }

/-- Destination of the tile read whose entry stands at position pos. -/
def Task.tileDest (k : Task) (pos : Nat) : VField :=
  match (k.issuedAt pos).map (fun (i : Issued) => i.entry.instr) with
  | some (.vldt f) | some (.vldx f) => f.n12.setWidth 10
  | _ => 1023

/-- A tile read of task t takes the tile x into its register; where no tile is left, it is over. -/
def State.copyTile (s : State) (t : Nat) (x : Option TSlot) (a : Access) : State :=
  let k := s.task t
  let k1 := { k with ldqOut := k.ldqOut.filter fun b => b != a }
  match a, x with
  | .tile _ _ off _ pos, some x => s.setTask t (k1.lands pos (k.tileDest pos) fun _ => tileReg x off)
  | .tile _ _ _ _ pos, none => s.setTask t (k1.atPos pos fun i => { i with busy := false })
  | _, _ => s

/-- Reads of slot n of task ot take place, as task and item; the consuming ones are counted after all of them have read (R217, R220). -/
def State.copyTiles (s : State) (ot n : Nat) (l : List (Nat × Access)) : State :=
  let ok := s.task ot
  match s.view ot ok n with
  | .tile x =>
    let s1 := each (fun r s => State.copyTile s r.1 (some x) r.2) l s
    let c := l.filter fun r => r.2.consumes
    if c.isEmpty then s1
    else s1.setShares ok.coreKey (ok.phys n) x (c.foldl (fun h r => setShare h r.1 (shareOf h r.1 - 1)) x.shares)
  | _ => each (fun r s => State.copyTile s r.1 none r.2) l s

/-- Reads of slot n of task ot that have issued and not taken place: task and item. -/
def State.tileQueue (s : State) (ot n : Nat) : List (Nat × Access) :=
  s.tasks.flatMap fun x => (x.2.ldqOut.filter (Access.readsSlot ot n)).map fun a => (x.1, a)

/-- Reads of slot n of task ot that have issued take place before a later event on the tile (R220). -/
def State.flushTile (s : State) (ot n : Nat) : State := s.copyTiles ot n (s.tileQueue ot n)

/-- The tile read at index n of the LDQ stream of task t takes place. One that would empty the slot takes place with every other read
of the tile that has issued (R220). -/
def State.readTileNow (s : State) (t n : Nat) : State :=
  match ((find s.tasks t).bind fun (k : Task) => k.ldqOut[n]? : Option Access) with
  | some (.tile ot m off c pos) =>
    let last := match s.view ot (s.task ot) m with
      | .tile x => c && shareSum (setShare x.shares t (shareOf x.shares t - 1)) == 0
      | _ => false
    if last then s.flushTile ot m else s.copyTiles ot m [(t, .tile ot m off c pos)]
  | _ => s

end Sys2Proof.Machine
end

