-- ==== Sys2Proof/Machine/Slots.lean ====
section
/-! DEFINITION. Mailbox responses (15_retirement_and_health.md R385), and the unloading of slots (04_describing_work.md R84). -/

namespace Sys2Proof.Machine

/-- Drop the TLB entries that p selects by core and entry; their hotness goes to the shadow tables (R186, R193). -/
def State.dropTlb (s : State) (p : Nat → TlbEntry → Bool) : State :=
  let gone := s.cores.flatMap fun c => c.2.tlb.filter (p c.1)
  { s with cores := mapDrop Core.empty (fun i c => { c with tlb := c.tlb.filter fun e => !p i e }) s.cores }.cool gone

/-- Little-endian bytes of a value. -/
def leBytes (v n : Nat) : List Byte := bytesOf n v

/-- Slot of the response ring that function fn's next response goes to. -/
def Func.replyAddr (f : Func) : Nat := f.mbRbase + 64 * (f.mbResp % 2 ^ f.mbLog)

/-- Firmware writes a response: one access of 64 bytes (R186, R385). -/
def State.writeReply (s : State) (o : Owed) (status : Nat) : State :=
  let f := s.func o.fn
  let phase := 1 - f.mbResp / 2 ^ f.mbLog % 2
  let h := o.tag % 2 ^ 16 * 2 ^ 48 + status * 2 ^ 40 + o.code * 2 + phase
  ((s.setFunc o.fn { f with mbResp := f.mbResp + 1 }).perform (cellsAt f.replyAddr (leBytes h 64))).arrive f.replyAddr

/-- A response of function fn waits to be written. -/
def State.replying (s : State) (fn : Nat) : Bool := s.hif.replies.any fun r => r.1.fn == fn

/-- Firmware writes the response it owes; where the page is held, or an earlier response of the function waits, it waits too (R185, R206,
R385). -/
def State.respond (s : State) (o : Owed) (status : Nat) : State :=
  if s.replying o.fn || s.heldAt (s.func o.fn).replyAddr then { s with hif := { s.hif with replies := s.hif.replies ++ [(o, status)] } }
  else s.writeReply o status

/-- The oldest response of function fn that waits is written, once its page is held no more (R206). -/
def State.reply (s : State) (fn : Nat) : State :=
  match s.hif.replies.find? fun r => r.1.fn == fn with
  | none => s
  | some r =>
    if s.heldAt (s.func fn).replyAddr then s
    else State.writeReply { s with hif := { s.hif with replies := s.hif.replies.erase r } } r.1 r.2

/-- Slot that a packet names (R89). -/
def Packet.slot (p : Packet) : Nat := p.field 47 40

/-- Records of a packet's topology table (R100). -/
def Packet.rcount (p : Packet) : Nat := p.field 159 128

/-- A dispatched packet still has, or will hand out, a task (R84). -/
def Packet.alive (p : Packet) : Bool :=
  p.phase == .dispatched &&
    (decide (p.tasks ≠ 0) ||
      (!p.stop && (match p.walker with
        | some w => w.failed.isNone && (!w.haveArray || decide (w.next < p.rcount))
        | none => decide (p.lo0 < p.hi0) || decide (p.lo1 < p.hi1))))

/-- A slot becomes INVALID: its regions are unmapped and its responses written (R84). KCNT and ISIZE of a slot without a load read 0: R86
says what they read of the current load alone (DESIGN CHOICE, log 49). -/
def State.closeSlot (s : State) (n : Nat) (status : Nat) : State :=
  let r := s.rslot n
  let drop (e : TlbEntry) : Bool := decide (windowBase n ≤ e.va) && decide (e.va < windowBase (n + 1))
  let s1 := s.setRslot n { RSlot.empty with gen := r.gen, func := r.func }
  each (fun o s => s.respond o status) r.owed (s1.dropTlb fun _ e => drop e)

/-- Slots that finish unloading, their last dispatched task gone (R84). -/
def State.unloads (s : State) : State :=
  let done (n : Nat) : Bool := !s.lfe.packets.any fun e => e.2.slot == n && e.2.alive
  each (fun n s => s.closeSlot n 0) ((s.hif.slots.filter fun e => e.2.state == .unloading && done e.1).map fun e => e.1) s

end Sys2Proof.Machine
end

