-- ==== Sys2Proof/Machine/Resources.lean ====
section
/-! DEFINITION. What tasks share and give back: names and arena blocks (R199 to R203), handles and their revocation
(R192, R193), tiles and shares (R216 to R225), units (R358), and the end of a task by kill (R360 to R362). -/

namespace Sys2Proof.Machine

/-! ### Names (R200, R203) -/

/-- Fields of a name. -/
def nameSite (nm : Nat) : Nat := nm / 2 ^ 45 % 8
def nameChan (nm : Nat) : Nat := nm / 2 ^ 40 % 32
def nameIndex (nm : Nat) : Nat := nm / 2 ^ 8 % 2 ^ 32

def mkName (site chan index gen : Nat) : Nat := 2 ^ 45 * site + 2 ^ 40 * chan + 2 ^ 8 * index + gen

/-- Key of a unit in a site's arena table. -/
def unitKey (chan index : Nat) : Nat := 2 ^ 32 * chan + index

/-- Size in bytes of the block a register value names, or none if it is stale for the context (R203). -/
def State.blockOf (s : State) (asc v : Nat) : Option Nat :=
  let u := get AUnit.none (s.site (nameSite v)).arena (unitKey (nameChan v) (nameIndex v))
  if decide (v < 2 ^ 48) && u.exist && !u.free && u.size != 0 && !u.leaving && u.asc == asc && u.gen == v % 256 then some u.size
  else none

def nameAddr (nm : Nat) : Nat := arenaAddr (nameSite nm) (nameChan nm) (nameIndex nm)

/-- Update the units index to index + n - 1 of a channel. -/
def mapUnits (f : AUnit → AUnit) (chan : Nat) : Nat → Nat → Assoc AUnit → Assoc AUnit
  | _, 0, l => l
  | index, n + 1, l =>
    mapUnits f chan (index + 1) n (put AUnit.none l (unitKey chan index) (f (get AUnit.none l (unitKey chan index))))

/-- A free block of n units begins at index (R199). -/
def freeBlock (l : Assoc AUnit) (chan : Nat) : Nat → Nat → Bool
  | _, 0 => true
  | index, n + 1 =>
    let u := get AUnit.none l (unitKey chan index)
    u.exist && u.free && freeBlock l chan (index + 1) n

/-- Free blocks of n units of a site, as channel and index (R199, R200). -/
def freeBlocks (l : Assoc AUnit) (n : Nat) : List (Nat × Nat) :=
  (l.map fun p => (p.1 / 2 ^ 32, p.1 % 2 ^ 32)).filter fun c => c.2 % n == 0 && freeBlock l c.1 c.2 n

/-- The context has quota for n more units at the site (R199, R200). -/
def hasQuota (st : Site) (asc n : Nat) : Bool := decide (get 0 st.used asc + n ≤ get 0 st.quota asc)

/-- Sites from which a nameless store may choose, with their free blocks (R200); held: those under hand-over (R197). -/
def State.arenas (s : State) (die asc n : Nat) (held : Bool) : List (Nat × List (Nat × Nat)) :=
  ([0, 1, 2, 3, 4, 5, 6, 7].map fun i => (i, freeBlocks (s.site i).arena n)).filter fun c =>
    let st := s.site c.1
    hasQuota st asc n && !c.2.isEmpty && (if held then st.hstate != .none else st.owner == die && st.hstate == .none)

/-- The site with the most free blocks, the lower number on a tie (R200). -/
def mostFree : List (Nat × List (Nat × Nat)) → Option (Nat × List (Nat × Nat))
  | [] => none
  | c :: r =>
    match mostFree r with
    | none => some c
    | some d => if c.2.length < d.2.length then some d else some c

/-- The lowest free index of a channel. -/
def lowest : List (Nat × Nat) → Nat → Nat
  | [], m => m
  | c :: r, m => lowest r (min c.2 m)

/-- Outcome of the choice of R200. -/
inductive Choice where
  | block (site chan index : Nat)
  /-- Only a hand-over keeps every site from being eligible (R197). -/
  | waits
  | full
  deriving DecidableEq, Repr

/-- The choice of R200 for n units, with a free value for the channel: the depths of the write queues are traffic (log 8). -/
def State.choose (s : State) (die asc n pick : Nat) : Choice :=
  match mostFree (s.arenas die asc n false) with
  | some (i, bl) =>
    match bl[pick % bl.length]? with
    | some c => .block i c.1 (lowest (bl.filter fun d => d.1 == c.1) c.2)
    | none => .full
  | none => if (s.arenas die asc n true).isEmpty then .full else .waits

/-- Remove what memory lists in n bytes at a, and their poison: the bytes read as zero (R201). -/
def State.clear (s : State) (a n : Nat) : State :=
  { s with mem := s.mem.filter fun c => decide (c.1 < a) || decide (a + n ≤ c.1),
           poison := s.poison.filter fun c => decide (c.1 < a) || decide (a + n ≤ c.1) }

/-- Allocate a block of n units for a context: it reads as zero (R201). -/
def State.allocate (s : State) (asc site chan index n : Nat) : State :=
  let st := s.site site
  let l1 := mapUnits (fun u => { u with free := false, asc := asc, leaving := false, parked := none }) chan index n st.arena
  let l2 := mapUnits (fun u => { u with size := 4096 * n }) chan index 1 l1
  (s.setSite site { st with arena := l2, used := put 0 st.used asc (get 0 st.used asc + n) }).clear
    (arenaAddr site chan index) (4096 * n)

/-- Generation of a unit. -/
def State.unitGen (s : State) (site chan index : Nat) : Nat :=
  (get AUnit.none (s.site site).arena (unitKey chan index)).gen

/-! ### Revocation (R193) -/

def revHandle (p : Handle → Bool) (h : Handle) : Handle := if h.v && p h then { h with v := false } else h

def revQueue (p : Handle → Bool) (q : RQ) : RQ :=
  { q with entries := q.entries.map fun e => { e with h := revHandle p e.h } }

def revSet (p : Handle → Bool) (q : QSet) : QSet :=
  { q with ldq := revQueue p q.ldq, cmq := revQueue p q.cmq, stq := revQueue p q.stq }

def revTask (p : Handle → Bool) (k : Task) : Task :=
  { k with h := mapDrop Handle.invalid (fun _ h => revHandle p h) k.h, ord := revSet p k.ord, hnd := revSet p k.hnd,
           win := mapVals (fun _ w => w.map fun w => { w with h := revHandle p w.h }) k.win }

/-- Clear V in every handle and captured copy that p selects (R193). -/
def State.revoke (s : State) (p : Handle → Bool) : State := { s with tasks := mapVals (fun _ k => revTask p k) s.tasks }

/-- Relinquish the block of a name (R211): handles made from it are revoked, its generations advance, a parked tile's
shares are dropped (R222), and its units leave once earlier accesses have performed (NAME_BLOCK_FREE). -/
def State.relinquish (s : State) (nm size : Nat) : State :=
  let i := nameSite nm
  let st := s.site i
  let l1 := mapUnits (fun u => { u with gen := (u.gen + 1) % 256 }) (nameChan nm) (nameIndex nm) (size / 4096) st.arena
  let l2 := mapUnits (fun u => { u with leaving := true, parked := none }) (nameChan nm) (nameIndex nm) 1 l1
  (s.setSite i { st with arena := l2 }).revoke fun h => h.name == some nm

/-- Relinquish a name that a return queue still holds, as NREL would (R172, R352, R360). -/
def State.dropName (s : State) (asc nm : Nat) : State :=
  match s.blockOf asc nm with
  | some size => s.relinquish nm size
  | none => s

/-- Every entry of a set has completed. -/
def QSet.allDone (q : QSet) : Bool := q.ldq.entries.isEmpty && q.ldq.issued.isEmpty && q.cmq.entries.isEmpty && q.cmq.issued.isEmpty &&
  q.stq.entries.isEmpty && q.stq.issued.isEmpty

/-- TEND has issued, pre-emption apart (R172, R357). -/
def Task.hasEnded (k : Task) : Bool := match k.phase with | .ended | .drainPre _ true | .suspended true => true | _ => false

/-- After TEND, once all three routed queues have drained: CTQ and RTQ entries and tokens are discarded, and the names in the NRQ are
relinquished as NREL would (R172). -/
def State.afterTend (s : State) (t : Nat) : State :=
  match find s.tasks t with
  | none => s
  | some k =>
    let q := k.ord
    if k.hasEnded && !k.inTrap && q.allDone then
      let s1 := each (fun nm s => State.dropName s (s.packet k.packet).asc nm) q.nrq s
      s1.setTask t { s1.task t with ord := { (s1.task t).ord with ctqLd := [], ctqCm := [], ctqSt := [], tok := [], rtq := [], nrq := [] } }
    else s

/-! ### Tiles (R216 to R225) -/

/-- Where the tile of partition slot n of task t is: saved, in its physical slot, or nowhere (R215, R225). -/
inductive Place where
  | saved (tile : TSlot)
  | here (tile : TSlot)
  | empty
  | beyond
  deriving DecidableEq, Repr

def State.place (s : State) (t : Nat) (k : Task) (n : Nat) : Place :=
  if k.partSize ≤ n then .beyond
  else
    match (s.core k.coreKey).savedTiles.find? fun x => x.task == t && x.slot == n with
    | some x => .saved x.tile
    | none =>
      let x := s.tslot k.coreKey (k.partBase + n)
      if x.state == .empty || x.owner != t then .empty else .here x

/-- Remove holder t's share of a tile. -/
def TSlot.without (x : TSlot) (t : Nat) : TSlot := if x.state == .empty then x else x.withShares (setShare x.shares t 0)

/-- Shares of t in a core's tiles: their sum, and the core without them (R223, R224, R225). A tile that an MMA reads stays, without a
share, until the MMA ends (R270): `read` says so of a slot, `keep` of a saved tile of a task. -/
def Core.settle (c : Core) (t : Nat) (read : Nat → Bool) (keep : Nat → Nat → Bool) : Nat × Core :=
  let drop (on : Bool) (x : TSlot) : TSlot :=
    if shareOf x.shares t = 0 then x else if on then { x with shares := setShare x.shares t 0 } else x.without t
  (sumNat (c.slots.map fun p => shareOf p.2.shares t) + sumNat (c.savedTiles.map fun x => shareOf x.tile.shares t),
   { c with slots := mapDrop TSlot.empty (fun p x => drop (read p) x) c.slots,
            savedTiles := (c.savedTiles.map fun x => { x with tile := drop (keep x.task x.slot) x.tile }).filter fun x =>
              x.tile.state != .empty })

/-- Shares of t in parked records, the owner shares excepted (R222). -/
def AUnit.settle (u : AUnit) (t : Nat) : Nat × AUnit :=
  match u.parked with
  | some p => (shareOf p.shares t, { u with parked := some { p with shares := setShare p.shares t 0 } })
  | _ => (0, u)

def Site.settle (st : Site) (t : Nat) : Nat × Site :=
  (sumNat (st.arena.map fun p => (p.2.settle t).1),
   { st with arena := mapVals (fun _ u => (u.settle t).2) st.arena })

/-- Slots whose tile has a share of t: the owner, and the slot in its partition. -/
def State.sharedBy (s : State) (t : Nat) : List (Nat × Nat) :=
  s.cores.flatMap fun c => (c.2.slots.filter fun p => shareOf p.2.shares t != 0).map fun p => (p.2.owner, p.1 - (s.task p.2.owner).partBase)

/-- An MMA of task t reads its slot n. -/
def State.mmaOf (s : State) (t n : Nat) : Bool := (find s.tasks t).any fun k => k.mmaReads n

/-- Settle every share of task t: the residue and the state without the shares (R223 step 1, R224). Reads of those tiles that have
issued take place first (R220). -/
def State.settle (s0 : State) (t : Nat) : Nat × State :=
  let s := each (fun x s => State.flushTile s x.1 x.2) (s0.sharedBy t) s0
  let n := sumNat (s.cores.map fun c => (c.2.settle t (s.mmaOn c.1) s.mmaOf).1)
  let s1 := { s with cores := mapDrop Core.empty (fun i c => (c.settle t (s.mmaOn i) s.mmaOf).2) s.cores }
  each (fun i (p : Nat × State) => (p.1 + ((p.2.site i).settle t).1, p.2.setSite i ((p.2.site i).settle t).2))
    [0, 1, 2, 3, 4, 5, 6, 7] (n, s1)

/-- The tiles of owner t become EMPTY and peers' shares are dropped (R217, R224). -/
def Core.dropOwner (c : Core) (t : Nat) : Core :=
  { c with slots := mapDrop TSlot.empty (fun _ x => if x.state != .empty && x.owner == t then x.emptied else x) c.slots,
           savedTiles := c.savedTiles.filter fun x => x.task != t }

/-- The units of task t are freed without being saved, and passes for it end (R358). -/
def Core.freeUnits (c : Core) (t : Nat) : Core :=
  { c with units := mapDrop PUnit.empty (fun _ u =>
      { holder := if u.holder == some t then none else u.holder,
        pass := if u.pass == .saving t || u.pass == .restoring t then .idle else u.pass }) c.units }

/-- The context of task t passes on: to the newcomer it was draining for, or to its victim, which resumes (R357, R359). -/
def CtxSlot.release (x : CtxSlot) (t : Nat) (phase : Phase) : CtxSlot :=
  if x.run == some t then
    match phase with
    | .drainPre n _ | .doomed (some n) => { run := some n, susp := x.susp }
    | _ => { run := x.susp, susp := none }
  else if x.susp == some t then { x with susp := none }
  else x

/-- A suspended task runs again (R359). -/
def resumeTask (k : Task) : Task :=
  match k.phase with
  | .suspended done => { k with phase := if done then .ended else .running,
                                mma := if k.inTrap then k.mma else k.mma.map fun m => { m with stopped := false } }
  | _ => k

def State.resumeRunning (s : State) (x : CtxSlot) : State :=
  match x.run with
  | none => s
  | some v =>
    match find s.tasks v with
    | none => s
    | some k => s.setTask v (resumeTask k)

/-- Task t leaves its core: tiles, units, context (R217, R358, R359, R377). -/
def State.leaveCore (s : State) (t : Nat) (k : Task) : State :=
  let co := (s.core k.coreKey).dropOwner t |>.freeUnits t
  let a := co.ctxA.release t k.phase
  let b := co.ctxB.release t k.phase
  ((s.setCore k.coreKey { co with ctxA := a, ctxB := b }).resumeRunning a).resumeRunning b

/-! ### Packets (R113, R354) -/

/-- Triple of die, core and gang member as CompletionRecord fields (R112). -/
def whoOf (k : Task) : Nat := k.die * 512 + k.core * 4 + k.member

/-- A task comes before the one that the packet names, at one time: the lower gang member (R354, R362). -/
def Packet.ties (p : Packet) (who now : Nat) : Bool := p.faultAt == now && decide (who % 4 < p.who % 4)

/-- The first fatal fault of a packet fixes cause and task, the lowest member's on a tie (R354). -/
def Packet.faulted (p : Packet) (cause : Byte) (who now : Nat) : Packet :=
  if p.status = 5 ∧ !p.ties who now then p
  else { p with status := mergeStatus p.status 5, cause := cause, who := who, faultAt := now }

/-- A task of the packet is killed: the first kill names it, unless a fault came first (R113, R362). -/
def Packet.killed (p : Packet) (who now : Nat) : Packet :=
  if p.status = 5 ∨ (p.status = 6 ∧ !p.ties who now) then p
  else { p with status := mergeStatus p.status 6, who := who, faultAt := now }

/-- RESID of the completion record saturates (R112). -/
def addResid (a b : Nat) : Nat := min (a + b) (2 ^ 32 - 1)

/-! ### Kill (R360 to R362) -/

/-- The unit of 8 bytes at a has a write of a task or command that is no more still to come. -/
def State.lateAt (s : State) (a : Nat) : Bool := s.ce.late.any fun e => e.2.any fun c => c.1 / 8 == a / 8

/-- Such a write to the n bytes at a is still to come. -/
def State.lateIn (s : State) (a n : Nat) : Bool := s.ce.late.any fun e => e.2.any fun c => decide (a ≤ c.1) && decide (c.1 < a + n)

/-- Bytes grouped by aligned 8-byte chunk: a naturally aligned access of up to 8 bytes lies in one (R329). -/
def chunks (l : List (Nat × Byte)) : List (List (Nat × Byte)) :=
  ((l.map fun c => c.1 / 8).eraseDups).map fun u => l.filter fun c => c.1 / 8 == u

/-- What a killed task or a stopped command of packet id has still to write is performed; where the base die holds a page, its bytes
wait there, and are performed after the hold (R185, R206, R360). -/
def State.performLate (s : State) (id : Nat) (cells : List (Nat × Byte)) : State :=
  let waits (c : Nat × Byte) : Bool := s.heldAt c.1 || s.lateAt c.1
  let s1 := s.perform (cells.filter fun c => !waits c)
  { s1 with ce := { s1.ce with late := s1.ce.late ++ (chunks (cells.filter waits)).map fun l => (id, l) } }

/-- A write of packet id is still to come (R123, R206). -/
def State.lateOf (s : State) (id : Nat) : Bool := s.ce.late.any fun e => e.1 == id

/-- The n-th write that waits at a base die is performed, once its page is held no more and no earlier one is for the same bytes
(R206). -/
def State.performWaiting (s : State) (n : Nat) : State :=
  match s.ce.late[n]? with
  | none => s
  | some (_, l) =>
    let behind := (s.ce.late.take n).any fun e => e.2.any fun b => l.any fun c => c.1 / 8 == b.1 / 8
    if behind || l.any fun c => s.heldAt c.1 then s
    else State.perform { s with ce := { s.ce with late := dropAt s.ce.late n } } l

/-- Writes of a stream that have left their heads. -/
def Access.cells : Access → List (Nat × Byte)
  | .write cells _ _ _ => cells
  | _ => []

/-- Position of the entry of a tile read. -/
def Access.tilePos : Access → Option Nat
  | .tile _ _ _ _ p => some p
  | _ => none

/-- An issued LDQ entry whose reads are over or dropped does no work any more. -/
def RQ.idle (q : RQ) (l : List Nat) : RQ :=
  { q with issued := q.issued.map fun i => if l.contains i.entry.pos then { i with busy := false } else i }

/-- Reads of the tiles of a killed owner that have not returned are dropped (R224). -/
def Task.dropReads (k : Task) (t : Nat) : Task :=
  let l := (k.ldqOut.filter (Access.readsTileOf t)).filterMap Access.tilePos
  if l.isEmpty then k
  else
    { k with ldqOut := k.ldqOut.filter fun a => !a.readsTileOf t, ord := { k.ord with ldq := k.ord.ldq.idle l },
             hnd := { k.hnd with ldq := k.hnd.ldq.idle l } }

/-- At the kill point of task t, what it is doing is dropped, and so are the reads of its tiles by others; stores that have left their
heads are performed (R224, R360 steps 1 to 4). -/
def State.killStreams (s : State) (t : Nat) : State :=
  match find s.tasks t with
  | none => s
  | some k =>
    let s1 := each (fun a s => s.performLate k.packet a.cells) (k.slice ++ k.stqOut) s
    let s2 := s1.setTask t { k with slice := [], stqOut := [], ldqOut := [] }
    { s2 with tasks := mapVals (fun _ k => k.dropReads t) s2.tasks }

/-- A killed task's shares settle before the tiles of its owner go; their sum is added to its residue (R224, R360, R362). -/
def State.killShares (s : State) (t : Nat) : State :=
  match find s.tasks t with
  | none => s
  | some k =>
    let (n, s1) := s.settle t
    s1.setTask t { s1.task t with residue := k.residue + n }

/-- The kill point of task t (R360), once its shares have settled: its names are relinquished, its units and its context are freed; the
counter of its topology record is forced to abort (R103). -/
def State.killTask (s : State) (t : Nat) : State :=
  match find s.tasks t with
  | none => s
  | some k =>
    let asc := (s.packet k.packet).asc
    let s3 := each (fun nm s => State.dropName s asc nm)
      (k.ord.nrq ++ k.hnd.nrq ++ (k.ord.names ++ k.hnd.names).map fun x => x.name) s
    let s4 := s3.leaveCore t k
    let p := s4.packet k.packet
    let s5 := { s4.setPacket k.packet { p with tasks := p.tasks - 1, resid := addResid p.resid k.residue } with tasks := del s4.tasks t }
    match k.esem with
    | none => s5
    | some n => s5.abort p.file n

/-- Tasks end at one kill point: what they do stops, then every share settles, then each task ends (R224, R362). -/
def State.killTasks (s : State) (l : List Nat) : State :=
  each (fun m s => s.killTask m) l (each (fun m s => s.killShares m) l (each (fun m s => s.killStreams m) l s))

/-- The packet asks for cluster gangs (R90, R105). -/
def Packet.cluster (p : Packet) : Bool := p.record.toNat / 2 ^ 5 % 2 == 1

/-- The members of the gang of task t, or t alone (R105, R362). -/
def State.gang (s : State) (t : Nat) : List Nat :=
  match find s.tasks t with
  | none => []
  | some k =>
    if (s.packet k.packet).cluster then
      (s.tasks.filter fun p => p.2.packet == k.packet && p.2.die == k.die && p.2.core / 4 == k.core / 4 && p.2.ticket / 4 == k.ticket / 4).map
        fun p => p.1
    else [t]

/-- A fatal fault of the task has been decided, and its gang's kill point is the end of the array cycle (R362). -/
def Task.isDoomed (k : Task) : Bool := match k.phase with | .doomed _ => true | _ => false

/-- The gang member waits for its gang's kill point (R362). -/
def Task.doomed (k : Task) : Task := { k with phase := .doomed (match k.phase with | .drainPre n _ => some n | _ => none) }

/-- Kill every member of the gang of t at one kill point (R362). Members that have not faulted are recorded as gang aborts. -/
def State.killGang (s : State) (t : Nat) : State :=
  let ms := s.gang t
  let qidx (k : Task) : W64 := BitVec.ofNat 64 (s.packet k.packet).qidx
  let s1 := each (fun m s => if (s.task m).isDoomed then s else
    s.note 0x03 2 (qidx (s.task m)) (BitVec.ofNat 64 (s.packet (s.task m).packet).queue) (some (s.task m))) ms s
  s1.killTasks ms

/-- The array cycle ends: the gangs of which a member has had a fatal fault reach their kill points (R362). -/
def State.reap (s : State) : State :=
  each (fun p s => if (find s.tasks p.1).any Task.isDoomed then s.killGang p.1 else s) s.tasks s

/-- Insert a task before the first of a later core or context. -/
def insCore (s : State) (t : Nat) : List Nat → List Nat
  | [] => [t]
  | u :: r =>
    let key (n : Nat) : Nat := 4 * (s.task n).coreKey + (s.task n).ctx
    if key t < key u then t :: u :: r else u :: insCore s t r

/-- Tasks in increasing die, then core (R382). -/
def State.byCore (s : State) (l : List Nat) : List Nat := l.foldl (fun r t => insCore s t r) []

/-- Kill tasks ts at one kill point from source code src of R381, and the gangs they belong to; their packets complete KILLED
(R113, R361, R362). -/
def State.killAll (s : State) (src : Nat) (ts : List Nat) : State :=
  let peers := ((ts.flatMap s.gang).filter fun m => !ts.contains m).eraseDups
  let all := s.byCore (ts.filter (fun t => (find s.tasks t).isSome) ++ peers)
  let one (m : Nat) (s : State) : State :=
    let k := s.task m
    let p := s.packet k.packet
    if k.isDoomed then s
    else
      let s1 := s.note 0x03 (if ts.contains m then src else 2) (BitVec.ofNat 64 p.qidx) (BitVec.ofNat 64 p.queue) (some k)
      if ts.contains m then s1.setPacket k.packet (p.killed (whoOf k) s.time) else s1
  (each one all s).killTasks all

/-- Slot of a task's packet. -/
def State.slotOf (s : State) (k : Task) : Nat := (s.packet k.packet).record.toNat / 2 ^ 40 % 256

/-- Firmware image that context F of a core runs: the staged one once the core has switched, and after a roll-back until it has
switched back (R390). -/
def State.fwImage (s : State) (core : Nat) : FwImage :=
  let c := s.core core
  (if c.fwSwitched then s.hif.staged else c.fwOld).getD s.hif.active

/-- Image base of a task: the window of its packet's slot (R151, R388); of context F, the firmware image (log 46). -/
def State.imageBase (s : State) (k : Task) : Nat := if k.fw then (s.fwImage k.coreKey).addr else windowBase (s.slotOf k)

/-- Bytes of the image. -/
def State.imageLen (s : State) (k : Task) : Nat := if k.fw then (s.fwImage k.coreKey).len else (s.rslot (s.slotOf k)).isize

/-- Physical address of a byte of the image: in the slot's frames, or where the firmware image lies. -/
def State.imageAt (s : State) (k : Task) (a : Nat) : Option Nat :=
  if k.fw then some a
  else
    let o := a - windowBase (s.slotOf k)
    (s.rslot (s.slotOf k)).image[o / 65536]?.map fun f => f + o % 65536

/-- Offset of an address in the image of the task's slot (R369). -/
def State.offset (s : State) (k : Task) (a : Nat) : W64 := BitVec.ofNat 64 a - BitVec.ofNat 64 (s.imageBase k)

/-- A fatal fault of task t (R354): a record of KIND 0x01 with what trap entry would have reported (R416), the packet takes the cause,
and the task ends as a kill ends it; a gang's member does with its gang at the end of the array cycle, so that of several faults of one
cycle the lowest member's counts (R362); an unload that waits for the task ends with it (R84). Context F stops, until firmware loads it
again (log 46). -/
def State.fatal (s : State) (t : Nat) (f : FaultRec) : State :=
  match find s.tasks t with
  | none => s
  | some k =>
    let s1 := s.note 0x01 f.cause.toNat (s.offset k f.addr) f.data (some k)
    if k.fw then { s1 with tasks := del s1.tasks t }
    else if k.isDoomed then s
    else
      let p := (s1.packet k.packet).faulted f.cause (whoOf k) s.time
      let s2 := s1.setPacket k.packet p
      if p.cluster then s2.setTask t k.doomed else (s2.killTasks [t]).unloads

end Sys2Proof.Machine
end

