-- ==== Sys2Proof/Machine/Ops.lean ====
section
/-! DEFINITION. The named operations that the meanings share: scalar registers, waits of the slice, faults and trap entry,
return from a trap, control transfer and its landing check, the streams of scalar accesses, and routing. -/

namespace Sys2Proof.Machine

/-- Outcome of a meaning. -/
abbrev Out := Host.Outcome State Fault Refusal

/-! ### Registers (R48) -/

/-- x register r; x0 reads zero. -/
def Task.rx (k : Task) (r : Reg) : W64 := if r = 0 then 0 else get 0 k.x r.toNat

/-- Write x register r; a write to x0 is discarded. -/
def Task.wx (k : Task) (r : Reg) (v : W64) : Task := if r = 0 then k else { k with x := put 0 k.x r.toNat v }

def Task.rb (k : Task) (r : Reg) : W64 := get 0 k.b r.toNat
def Task.wb (k : Task) (r : Reg) (v : W64) : Task := { k with b := put 0 k.b r.toNat v }

def Task.rlc (k : Task) (r : Reg) : W64 := get 0 k.lc r.toNat
def Task.wlc (k : Task) (r : Reg) (v : W64) : Task := { k with lc := put 0 k.lc r.toNat v }

def Task.rcb (k : Task) (n : Nat) : W64 := get 0 k.cb n
def Task.wcb (k : Task) (r : Reg) (v : W64) : Task := { k with cb := put 0 k.cb r.toNat v }

def Task.rh (k : Task) (r : BitVec 5) : Handle := get Handle.invalid k.h r.toNat

/-- An access that has not been performed touches the n bytes at a. -/
def Access.touches (a n : Nat) : Access → Bool
  | .load _ x m _ _ _ _ => decide (x < a + n) && decide (a < x + m)
  | .write cells _ _ _ => cells.any fun c => decide (a ≤ c.1) && decide (c.1 < a + n)
  | .read want _ _ => want.any fun c => decide (a ≤ c.2) && decide (c.2 < a + n)
  | .tile .. | .fence .. => false

/-- A task has an access to the n bytes at a that has not been performed. -/
def Task.touching (k : Task) (a n : Nat) : Bool := (k.slice ++ k.ldqOut ++ k.stqOut).any (Access.touches a n)

/-- A routed entry or a window has captured the handle, or an access to its page is on its way (R34, R193, R227). -/
def Task.uses (k : Task) (h : Handle) : Bool :=
  let has (q : RQ) : Bool := q.entries.any fun e => e.h == h
  let set (q : QSet) : Bool := has q.ldq || has q.cmq || has q.stq
  set k.ord || set k.hnd || (k.win.any fun p => p.2.any fun w => w.h == h) || k.touching h.base h.size

/-- Handles that have left their registers once h does: those that something still uses (R193). -/
def Task.leaving (k : Task) (h : Handle) : List Handle := (if k.gone.contains h then k.gone else h :: k.gone).filter k.uses

/-- Write handle register r; an access through what it held may be on its way (R193). -/
def Task.wh (k : Task) (r : BitVec 5) (v : Handle) : Task := { k with h := put Handle.invalid k.h r.toNat v, gone := k.leaving (k.rh r) }

/-- Fetch goes on n bytes further (R24). -/
def Task.adv (k : Task) (n : Nat) : Task := { k with pc := k.pc + n, waitQ := none }

/-! ### Queues of the context: the ordinary set, or the handler set while IN = 1 (R351) -/

def Task.qset (k : Task) : QSet := if k.inTrap then k.hnd else k.ord

def Task.setQset (k : Task) (q : QSet) : Task := if k.inTrap then { k with hnd := q } else { k with ord := q }

def Task.set (k : Task) (hs : Bool) : QSet := if hs then k.hnd else k.ord

def Task.withSet (k : Task) (hs : Bool) (q : QSet) : Task := if hs then { k with hnd := q } else { k with ord := q }

/-- Routed queue q: 0 LDQ, 1 CMQ, 2 STQ. -/
def QSet.rq (s : QSet) (q : Nat) : RQ := match q with | 0 => s.ldq | 1 => s.cmq | _ => s.stq

def QSet.setRq (s : QSet) (q : Nat) (v : RQ) : QSet :=
  match q with
  | 0 => { s with ldq := v }
  | 1 => { s with cmq := v }
  | _ => { s with stq := v }

/-- CTQ section of queue q (R158). -/
def QSet.ctq (s : QSet) (q : Nat) : List CtqEntry := match q with | 0 => s.ctqLd | 1 => s.ctqCm | _ => s.ctqSt

def QSet.setCtq (s : QSet) (q : Nat) (v : List CtqEntry) : QSet :=
  match q with
  | 0 => { s with ctqLd := v }
  | 1 => { s with ctqCm := v }
  | _ => { s with ctqSt := v }

/-- Capacities of a CTQ section, the RTQ and the NRQ (R158, R159, R351). -/
def ctqCap (hs : Bool) : Nat := if hs then 8 else 32
def rtqCap (hs : Bool) : Nat := if hs then 4 else 16
def nrqCap (hs : Bool) : Nat := if hs then 4 else 32

/-- Channel from queue a to queue b (R36). -/
def QSet.chan (s : QSet) (a b : Nat) : Nat := Sys2Proof.Machine.get 0 s.tok (3 * a + b)

def QSet.setChan (s : QSet) (a b n : Nat) : QSet := { s with tok := put 0 s.tok (3 * a + b) n }

/-- Neighbours A and B of a queue (R35). -/
def nbrA (q : Nat) : Nat := if q = 0 then 1 else 0
def nbrB (q : Nat) : Nat := if q = 2 then 1 else 2

/-! ### Accesses of the slice stream (R154, R328 to R330) -/

/-- A load into register r is outstanding. -/
def Task.pendingLoad (k : Task) (r : Reg) : Bool :=
  k.slice.any fun a => match a with | .load d .. => d == r && r != 0 | _ => false

/-- One of the registers awaits a load (R154). -/
def Task.hazard (k : Task) (regs : List Reg) : Bool := regs.any k.pendingLoad

/-- Items of a stream that are accesses, not fence points. -/
def Access.isFence : Access → Bool
  | .fence .. => true
  | _ => false

def Access.cls : Access → Nat
  | .load _ _ _ _ c _ _ => c
  | .write _ c _ _ => c
  | .read _ c _ => c
  | .tile .. | .fence .. => 0

/-- Every access of the stream has been performed. -/
def performed (l : List Access) : Bool := l.all Access.isFence

/-- Fence points at the front order nothing that is left: they have been passed (R345). -/
def dropFences : List Access → List Access
  | .fence _ _ :: r => dropFences r
  | l => l

/-! ### Faults (R346 to R355) -/

/-- Who takes a cause (R346). -/
inductive Taker where
  | handler | firmware | never
  deriving DecidableEq, Repr

def taker (c : Byte) : Taker :=
  match c.toNat with
  | 0x0B => .firmware
  | 0x13 | 0x21 | 0x40 | 0x50 => .never
  | _ => .handler

/-- An issued entry that the drain does not wait for: an MMA between two micro-steps, stopped or not yet resumed (R349, R270). -/
def Issued.drainsDone (k : Task) (i : Issued) : Bool := i.busy && k.mma.any fun m => m.stopped || !m.held

/-- An MMA in progress is stopped: it holds the unit no more (R270, R356). -/
def Task.parked (k : Task) : Task := { k with mma := k.mma.map fun m => { m with stopped := true, held := false } }

/-- A stopped MMA may go on, once it has the unit again (R270, R356). -/
def Task.goOn (k : Task) : Task := { k with mma := k.mma.map fun m => { m with stopped := false } }

/-- Entries of a CMQ that have issued have completed, a stopped MMA apart (R349 step 4): entries behind it have done their work, and
complete after it (R242). -/
def RQ.stopped (q : RQ) (k : Task) : Bool :=
  match q.issued with
  | [] => true
  | i :: r => i.drainsDone k && r.all fun x => !x.busy && !x.holding

/-- Entries that have issued have completed (R349 steps 3 and 4), and stores that have left the STQ have been performed (step 2). -/
def Task.drained (k : Task) : Bool :=
  ([k.ord, k.hnd].all fun q => q.ldq.issued.isEmpty && q.stq.issued.isEmpty && q.cmq.stopped k) && performed k.stqOut

/-- Trap entry for a U cause (R350), after the drain: the trap registers take the resume address and the values of R371, IN
is set, the handler set starts empty (R351), and fetch resumes at the handler. A record of KIND 0x02 is written (R381). -/
def State.enterTrap (s : State) (t : Nat) (f : FaultRec) (resume : Nat) : State :=
  let k := (s.task t).parked
  let tpc := s.offset k resume
  let tinfo : Nat := f.src % 16 * 2 ^ 28 + f.await % 16 * 2 ^ 24 + f.pos % 256 * 2 ^ 16
  let k1 := { k with tpc := tpc, tcause := f.cause, taddr := s.offset k f.addr, tinfo := BitVec.ofNat 64 tinfo, tdata := f.data,
                     inTrap := true, pc := s.imageBase k + k.tvec.toNat, hnd := QSet.empty 8 8 8, phase := .running,
                     yieldLeft := 0, walk := none, missing := none, waitQ := none }
  (s.setTask t k1).note 0x02 f.cause.toNat tpc f.data (some k)

/-- Taking a fault, the one operation for every cause (R346, R350, R351, R354, R355): a U cause enters the handler, at once
if nothing is left to drain; it is fatal without a handler and in a handler. An F cause drains for the firmware. An X cause
is fatal. -/
def State.take (s : State) (t : Nat) (f : FaultRec) (resume : Nat) : State :=
  let k := s.task t
  match taker f.cause with
  | .never => s.fatal t f
  | .firmware => s.setTask t { k with phase := .drainFw f }
  | .handler =>
    if k.tvec = 0 ∨ k.inTrap then s.fatal t f
    else if k.drained then s.enterTrap t f resume
    else s.setTask t { k with phase := .drainTrap f resume }

/-- A precise fault of the slice at the unit that the task is issuing; addr is the faulting word (R347). -/
def State.slip (s : State) (cause : Byte) (addr : Nat) (data : W64) : State :=
  s.take s.cur { cause := cause, addr := addr, data := data, src := 0, await := 0, pos := 0 } (s.task s.cur).pc

/-! ### Fetch and control transfer (R45, R153) -/

/-- Image words are 4 bytes; the word at an address of a task's image, or none outside the image (R153). -/
def State.fetch (s : State) (k : Task) (a : Nat) : Option Nat :=
  if a < s.imageBase k ∨ s.imageBase k + s.imageLen k < a + 4 then none else (s.imageAt k a).map fun f => s.word f 4

/-- The landing check of R45 on a target: a cause and the address recorded as faulting. -/
def State.landing (s : State) (k : Task) (target : Nat) : Option (Byte × Nat) :=
  let w4 := (s.fetch k (target - 4)).getD 0
  let w8 := (s.fetch k (target - 8)).getD 0
  if target % 8 = 4 ∧ w4 % 4 = 1 then some (0x01, target - 4)
  else if w4 % 4 = 2 ∧ ¬(target % 8 = 0 ∧ w8 % 4 = 1) then some (0x02, target - 4)
  else none

/-- A taken transfer of the current task to target: complete in either case; then the landing check, or handle permission
outside the image (R45, R153). A target outside the image takes no landing check: which goes first no rule says (DESIGN CHOICE,
log 49). -/
def State.jump (s : State) (target : Nat) : State :=
  let t := s.cur
  let k := s.task t
  let s1 := s.setTask t { k with pc := target, waitQ := none }
  match s.fetch k target with
  | none => s1.slip 0x0A target 0
  | some _ =>
    match s.landing k target with
    | none => s1
    | some (c, a) => s1.slip c a 0

/-! ### The shape of a slice instruction -/

/-- Run an instruction of the slice for the current task: it waits, with nothing changed, while a register that it reads or
writes awaits a load (R154). -/
def onSlice (s : State) (regs : List Reg) (f : Task → State) : Out :=
  match find s.tasks s.cur with
  | none => .fault .noTask
  | some k => if k.hazard regs then .next s else .next (f k)

/-- As onSlice, after the checks that decode makes (R57 steps 4 and 5): a cause, or none. -/
def onDecode (s : State) (regs : List Reg) (bad : Task → Option Byte) (f : Task → State) : Out :=
  match find s.tasks s.cur with
  | none => .fault .noTask
  | some k =>
    match bad k with
    | some c => .next (s.slip c k.pc 0)
    | none => if k.hazard regs then .next s else .next (f k)

/-- A check that decode makes on the fields alone: illegal operand. -/
def operand (b : Bool) (_ : Task) : Option Byte := if b then some 0x03 else none

/-- A tile instruction in context F is an illegal operand (R215). -/
def noFw (k : Task) : Option Byte := if k.fw then some 0x03 else none

/-- The current task becomes k. -/
def State.now (s : State) (k : Task) : State := s.setTask s.cur k

/-- An instruction of n bytes that only computes: it writes r into xd and goes on (R161 to R163). -/
def compute (s : State) (n : Nat) (d : Reg) (regs : List Reg) (f : Task → W64) : Out :=
  onSlice s (d :: regs) fun k => s.now ((k.wx d (f k)).adv n)

/-- As compute, after a decode check (R162, R176). -/
def computeIf (s : State) (bad : Bool) (d : Reg) (regs : List Reg) (f : Task → W64) : Out :=
  onDecode s (d :: regs) (operand bad) fun k => s.now ((k.wx d (f k)).adv 4)

/-- A conditional branch (R166, R167, R169): transfer to the target or go on. -/
def branch (s : State) (regs : List Reg) (taken : Task → Bool) (target : Task → Nat) : Out :=
  onSlice s regs fun k => if taken k then s.jump (target k) else s.now (k.adv 4)

/-- Address plus a signed displacement, modulo 2^64. -/
def plus (a : Nat) (d : Int) : Nat := (((a : Int) + d) % 2 ^ 64).toNat

/-! ### Releases (R335) -/

/-- Every store of the slice stream of the classes in the mask has been performed; loads and fence points may remain (R325). -/
def Task.released (k : Task) (mask : W16) : Bool :=
  k.slice.all fun a => match a with | .write _ c _ _ => !(mask.getLsbD c) | _ => true

/-! ### Routing (R34, R46, R155) -/

/-- A static check that fails at decode: cause, and whether the prefix word is the one found illegal (R57). -/
structure Bad where
  cause : Byte
  prefixed : Bool
  deriving DecidableEq, Repr

/-- Seed capture of an instruction whose PXM selects rsr (R66). -/
def usesSeed : Option Pfx → Bool
  | some (.pxm _ _ rnd) => rnd == 5
  | _ => false

/-- Length of a routed unit (R46). -/
def unitLen (p : Option Pfx) : Nat := if p.isSome then 12 else 8

/-- The slice routes a unit to queue q: static checks (R57), registers ready (R154), space below the slip depth (R155); then
the entry holds the captured operands (R34) and the seed (R66). -/
def routeTo (s : State) (i : Instr) (q : Nat) (p : Option Pfx) (regs : List Reg) (h : BitVec 5) (xa xb : Reg)
    (check : Task → Option Bad) : Out :=
  match find s.tasks s.cur with
  | none => .fault .noTask
  | some k =>
    match check k with
    | some b => .next (s.slip b.cause (if p.isSome && !b.prefixed then k.pc + 4 else k.pc) 0)
    | none =>
      if k.hazard regs then .next s
      else
        let qs := k.qset
        let rq := qs.rq q
        if rq.depth ≤ rq.entries.length then .next (s.now { k with waitQ := some q })
        else
          let e : Entry := { instr := i, pos := k.routed, pc := k.pc, h := k.rh h, xa := k.rx xa, xb := k.rx xb, seed := k.rsrseed,
                             popped := none }
          let k1 := k.setQset (qs.setRq q { rq with entries := rq.entries ++ [e] })
          let k2 := if usesSeed p then { k1 with rsrseed := k1.rsrseed + 1 } else k1
          .next (s.now ({ k2 with routed := k2.routed + 1 }.adv (unitLen p)))

end Sys2Proof.Machine
end

