-- ==== Sys2Proof/Machine/Operands.lean ====
section
/-! DEFINITION. Operand forms: prefixes, sources and special operands, masks, counts and row ranges, static limits, and the
storage that an instruction reads and writes (02_instruction_words.md R33 to R54, 10_vector_queues.md R246). -/

namespace Sys2Proof.Machine

/-! ### Prefix settings (R38 to R43) -/

/-- Modes of an instruction with an optional prefix (R38). -/
def modeOf : Option Pfx → Mode
  | some (.pxm nan sat rnd) => { rnd := rnd.toNat, sat := sat.toNat, nan := nan.toNat, conv := false }
  | _ => Mode.default

/-- Class of a memory access: a PXO prefix replaces the class field (R42). -/
def classOf (p : Option Pfx) (c : BitVec 4) : Nat :=
  match p with
  | some (.pxo d) => d.toNat
  | _ => c.toNat

/-- Scale mode (R43): 0 reg, 1 unit, 2 band. -/
def scaleMode : Option Pfx → Nat
  | some (.pxs m) => m.toNat
  | _ => 0

/-- Rows first to first + cnt of a PXR prefix, else all 32 (R41). -/
def rowRange : Option Pfx → Nat × Nat
  | some (.pxr first cnt) => (first.toNat, first.toNat + cnt.toNat)
  | _ => (0, 31)

/-- Number of elements of type T that a PXC count may cover, in its own units (R39): pairs for e2m1. -/
def countLimit (T : Nat) : Nat := if T = 5 then 8192 else elems T

/-- Element e of type T lies within a count (R39): unit 0 elements or e2m1 pairs, 1 rows. -/
def inCount (unit n T e : Nat) : Bool :=
  if unit = 0 then decide ((if T = 5 then e / 2 else e) < n) else decide (e / perRow T < n)

/-- The count of a PXC prefix, with the value popped for it (R39). -/
def countOf (p : Option Pfx) (popped : Option W64) : Option (Nat × Nat) :=
  match p with
  | some (.pxc unit n src) => some (unit.toNat, if src = 0 then n.toNat else (popped.getD 0).toNat)
  | _ => none

/-- A count is above its limit (R39). -/
def countBad (T : Nat) : Option (Nat × Nat) → Bool
  | some (unit, n) => if unit = 0 then decide (countLimit T < n) else decide (32 < n)
  | none => false

/-- Elements that an instruction acts on, apart from its mask (R39, R41). -/
def inRange (p : Option Pfx) (cnt : Option (Nat × Nat)) (T e : Nat) : Bool :=
  let r := e / perRow T
  let (lo, hi) := rowRange p
  decide (lo ≤ r) && decide (r ≤ hi) && (match cnt with | some (u, n) => inCount u n T e | none => true)

/-! ### Masks (R48, R50, R246) -/

/-- Mask register n: m0 reads all ones (R48). -/
def Task.rm (k : Task) (n : Nat) : BitVec 8192 := if n = 0 then BitVec.allOnes 8192 else get 0 k.m n

/-- Write mask register n; m0 is never a destination. -/
def Task.wm (k : Task) (n : Nat) (v : BitVec 8192) : Task := if n = 0 then k else { k with m := put 0 k.m n v }

/-- Mask bit that governs element e of type T (R50). -/
def maskBit (m : BitVec 8192) (T e : Nat) : Bool := m.getLsbD (if T = 5 then e / 2 else e)

/-- A mask from a function of the bit number (R246). -/
def maskOf (f : Nat → Bool) : Nat → Nat
  | 0 => 0
  | n + 1 => maskOf f n + (if f n then 2 ^ n else 0)

def mkMask (f : Nat → Bool) : BitVec 8192 := BitVec.ofNat 8192 (maskOf f 8192)

/-! ### Vector registers (R49, R205) -/

/-- Element e of width w of a register: rows never written read zero (R205). -/
def VReg.elem (v : VReg) (w e : Nat) : Nat := if v.written.getLsbD (e * w / 2048) then v.bits.toNat / 2 ^ (w * e) % 2 ^ w else 0

/-- Byte b of a register. -/
def VReg.byte (v : VReg) (b : Nat) : Nat := v.elem 8 b

/-- The bits of n elements of width w. -/
def packBits (w : Nat) (f : Nat → Nat) : Nat → Nat
  | 0 => 0
  | n + 1 => packBits w f n + f n % 2 ^ w * 2 ^ (w * n)

/-- Rows in which some element below n is written. -/
def rowsOf (per : Nat) (f : Nat → Bool) : Nat → Nat → Nat
  | 0, acc => acc
  | n + 1, acc => rowsOf per f n (if f n && acc / 2 ^ (n / per) % 2 == 0 then acc + 2 ^ (n / per) else acc)

/-- Write the elements for which f gives a value; their rows become written (R60 SetElem, R205). -/
def VReg.update (v : VReg) (T : Nat) (f : Nat → Option Nat) : VReg :=
  let w := width T
  { bits := BitVec.ofNat 65536 (packBits w (fun e => match f e with | some x => x | none => v.elem w e) (elems T)),
    written := v.written ||| BitVec.ofNat 32 (rowsOf (perRow T) (fun e => (f e).isSome) (elems T) 0) }

/-- A table of the values of f below n, so that each is computed once. -/
def tabulate {α : Type} (f : Nat → α) : Nat → Array α
  | 0 => #[]
  | n + 1 => (tabulate f n).push (f n)

/-! ### Sources (R51 to R53) -/

/-- Field codes of special operands (R51). -/
def isCtq (f : VField) : Bool := f == 768
def isPeek (f : VField) : Bool := f == 769
def isSink (f : VField) : Bool := f == 1023
/-- An index as a value of type T: modulo 2^w for integers, RoundTo with rne and finite for floats, without flags (R52). -/
def iota (T i : Nat) : Nat :=
  if isInt T then i % 2 ^ width T else (roundTo (.fin false i 1) T { Mode.default with sat := 1 } 0).1

/-- Bits of element e of the operand a field names, for type T; c: the CTQ entry popped or peeked for the instruction. -/
def readSrc (k : Task) (c : W64) (T : Nat) (f : VField) : Nat → Nat :=
  let w := width T
  if isVReg f then
    let v := k.rv f.toNat
    fun e => v.elem w e
  else
    match f.toNat with
    | 768 | 769 =>
      let x := c.toNat % 2 ^ w
      fun _ => x
    | 770 => fun e => iota T e
    | 771 => fun e => iota T (e / perRow T)
    | 772 => fun e => iota T (e % perRow T)
    | 1023 => fun _ => 0
    | n =>
      let x := romBits n T
      fun _ => x

/-! ### CTQ demands (R47) -/

/-- What a head takes from its CTQ section, in the order of R47: the kind, and whether it is popped (else peeked). -/
abbrev Demand := CtqKind × Bool

/-- The prefix's pop (R47 item 1). -/
def pfxDemand : Option Pfx → List Demand
  | some (.pxc _ _ src) => if src = 1 then [(.scalar, true)] else []
  | some .pxp => [(.pred, true)]
  | _ => []

/-- A field's pop or peek (R47 item 2). -/
def fieldDemand (f : VField) : List Demand :=
  if isCtq f then [(.scalar, true)] else if isPeek f then [(.scalar, false)] else []

/-- Entries that the demands take from a section: none if one is missing. -/
def serve : List CtqEntry → List Demand → Option (List CtqEntry)
  | _, [] => some []
  | [], _ :: _ => none
  | c :: r, d :: ds => (serve (if d.2 then r else c :: r) ds).map fun l => c :: l

/-- The entries taken are of the kinds demanded. -/
def kindsOk : List CtqEntry → List Demand → Bool
  | c :: cs, d :: ds => c.kind == d.1 && kindsOk cs ds
  | _, _ => true

/-- Number of entries that the demands pop. -/
def pops (ds : List Demand) : Nat := (ds.filter fun d => d.2).length

/-- Values popped or peeked for a list of demands, split: the prefix's count or predicate, the source field's, the
operation's own. -/
structure Taken where
  pfx : Option W64
  src : W64
  own : W64

def takenOf (p : Option Pfx) (fields : List VField) (vals : List CtqEntry) : Taken :=
  let np := (pfxDemand p).length
  let nf := (fields.flatMap fieldDemand).length
  { pfx := if np = 0 then none else (vals[0]?).map fun c => c.val,
    src := if nf = 0 then 0 else ((vals[np]?).map fun c => c.val).getD 0,
    own := ((vals[np + nf]?).map fun c => c.val).getD 0 }

/-! ### Static operand limits (R57 step 4) -/

/-- PXR and PXC limits (R39, R41); counted: the counted type, or none where the count has no effect. -/
def pfxBad (p : Option Pfx) (counted : Option Nat) : Bool :=
  match p with
  | some (.pxr first cnt) => decide (31 < first.toNat) || decide (32 < first.toNat + cnt.toNat + 1)
  | some (.pxc unit n src) =>
    match counted with
    | some T => src == 0 && countBad T (some (unit.toNat, n.toNat))
    | none => false
  | _ => false

/-- A destination is no special but sink (R51). -/
def dstBad (f : VField) : Bool := decide (768 ≤ f.toNat) && decide (f.toNat ≤ 1022)

/-- At most one ctq or ctq.peek among the fields (R52). -/
def manyCtq (l : List VField) : Bool := decide (1 < (l.filter fun f => isCtq f || isPeek f).length)

/-- A ROM constant that integer type T cannot hold (R53). -/
def romBad (T : Nat) (f : VField) : Bool :=
  decide (784 ≤ f.toNat) && decide (f.toNat ≤ 1022) && isInt T && !romFits f.toNat T

/-- First failing check of a list: the prefix checks stand first (R57). -/
def firstBad (pb b : Bool) : Option Bad :=
  if pb then some { cause := 0x03, prefixed := true } else if b then some { cause := 0x03, prefixed := false } else none

/-- Checks of a V4 instruction: accepted types, source fields in use, destination (R33, R51 to R53). -/
def v4Check (types : List Nat) (srcs : List VField) (dst : Bool) (counted : Option Nat) (f : V4) : Option Bad :=
  let T := f.ty.toNat
  firstBad (pfxBad f.pfx counted)
    (!types.contains T || (dst && dstBad f.vd) || manyCtq srcs || srcs.any (romBad T))

/-- Type lists (R33). -/
def allTypes : List Nat := [0, 1, 2, 3, 4, 6, 7, 8, 9, 10, 11, 12, 13, 14]
def floats3 : List Nat := [0, 1, 2]
def ints : List Nat := [7, 8, 9, 10, 11, 12, 13, 14]

/-! ### Storage read and written (R240 item 4, R241) -/

/-- Codes of storage: vector register n, mask 1000 + n, accumulator 2000 + n, partition slot 3000 + n. -/
def rV (f : VField) : List Nat := if isVReg f then [f.toNat] else []
def rRun (f : VField) (n : Nat) : List Nat := if isVReg f then (List.range n).map fun i => f.toNat + i else []
def rM (n : BitVec 4) : List Nat := if n = 0 then [] else [1000 + n.toNat]
def rMd (f : VField) : List Nat := if decide (0 < f.toNat) && decide (f.toNat < 16) then [1000 + f.toNat] else []
def rAcc (n : BitVec 3) : List Nat := [2000 + n.toNat]
def rT (n : BitVec 6) : List Nat := [3000 + n.toNat]

/-- Narrow side of VCVT: the type of lesser width; of equal widths the destination's (R281). -/
def narrowOf (D S : Nat) : Nat := if width S < width D then S else D

/-- Registers that one side of VCVT occupies (R281). -/
def cvtRun (T other : Nat) : Nat := if width other < width T then width T / width other else 1

/-- Registers of an accumulator run (R280). -/
def accRun (T : Nat) : Nat := width T / 4

end Sys2Proof.Machine

namespace Sys2Proof

open Sys2Proof.Machine

/-- Storage that an instruction writes. -/
def Instr.writes : Instr → List Nat
  | .vadd f | .vsub f | .vmul f | .vfma f | .vfnma f | .vmin f | .vmax f | .vabs f | .vneg f | .vclamp f | .vmov f | .vsel f
  | .vexp2 f | .vlog2 f | .vrcp f | .vrsq f | .viadd f | .visub f | .vimul f | .vimad f | .vand f | .vor f | .vxor f | .vnot f
  | .vshl f | .vshr f | .vsar f | .vimin f | .vimax f | .vrmax f | .vrmin f | .vrsum f | .vcsum f | .vrscan f | .vshuf f
  | .vrot f | .vtrn f => rV f.vd
  | .vcmp _ f | .vmsk f | .vmaskq f => rMd f.vd
  | .vdrain f => rRun f.vd 4 ++ rM f.mask
  | .vcvt f => rRun f.vd (cvtRun f.ty.toNat f.vc.toNat)
  | .vqnt f => rV f.vd ++ rV f.vc
  | .vld f | .vlds f | .vgath f => rV f.v
  | .tfetch f | .tunpark f | .tpark f | .twr f => rT f.ta
  | .vldt f | .vldx f => rV (f.n12.setWidth 10) ++ (if f.c = 1 then rT f.ta else [])
  | .twb f => if f.c = 1 then rT f.ta else []
  | .tshare f => rT f.ta
  | .mma f => rAcc f.acc ++ (if f.ac = 1 then rT f.ta else []) ++ (if f.bc = 1 then rT f.tb else [])
  | .accz f | .accld f => rAcc f.acc
  | .accrd f => rRun f.va (accRun f.ty.toNat)
  | _ => []

/-- Storage that an instruction reads. The block-scale registers of an MMA are added by its format (R278, blockScales). -/
def Instr.reads : Instr → List Nat
  | .vfma f | .vfnma f | .vclamp f | .vimad f | .vdefer f => rV f.va ++ rV f.vb ++ rV f.vc ++ rM f.mask
  | .vadd f | .vsub f | .vmul f | .vmin f | .vmax f | .vsel f | .viadd f | .visub f | .vimul f | .vand f | .vor f | .vxor f
  | .vshl f | .vshr f | .vsar f | .vimin f | .vimax f | .vshuf f | .vrot f | .vcmp _ f => rV f.va ++ rV f.vb ++ rM f.mask
  | .vabs f | .vneg f | .vmov f | .vexp2 f | .vlog2 f | .vrcp f | .vrsq f | .vnot f | .vrmax f | .vrmin f | .vrsum f | .vcsum f
  | .vrscan f | .vtrn f => rV f.va ++ rM f.mask
  | .vmsk f => rMd f.va ++ (if f.vc = 4 ∨ f.vc = 5 then [] else rMd f.vb)
  | .vmaskq f => rM f.mask
  | .vret f => (if f.vc = 0 then rV f.va else []) ++ rM f.mask
  | .vcvt f => rRun f.va (cvtRun f.vc.toNat f.ty.toNat) ++ (if f.scaled && f.pfx != some (.pxs 1) then rV f.vb else []) ++ rM f.mask
  | .vqnt f => rRun f.va (if f.ty = 0 then 8 else 4) ++ (if f.pfx = some (.pxs 1) then [] else rV f.vb) ++ rM f.mask
  | .vld f | .vlds f => rM f.mask
  | .vgath f => rM f.mask ++ rV (f.tail.setWidth 10)
  | .vst f | .vsts f => rM f.mask ++ rV f.v
  | .vscat f => rM f.mask ++ rV f.v ++ rV (f.tail.setWidth 10)
  | .nstv f => rRun f.v (f.tail.toNat / 4 % 16 + 1)
  | .vldt f | .tpark f | .twb f | .tshare f => rT f.ta
  | .twr f => rRun (BitVec.ofNat 10 (f.xb.toNat % 16 * 64 + f.xa.toNat)) 8
  | .mma f => rT f.ta ++ rT f.tb ++ rM f.mask
  | .accz f => rM f.mask
  | .accld f => rRun f.va (accRun f.ty.toNat) ++ rM f.mask
  | .accrd f => rAcc f.acc ++ rV f.vb ++ rM f.mask
  | _ => []

/-- Unit of a routed instruction (R240 item 4): 0 vector, 1 transcendental, 2 matrix, 3 load path, 4 store path. -/
def Instr.unit : Instr → Nat
  | .vexp2 _ | .vlog2 _ | .vrcp _ | .vrsq _ => 1
  | .mma _ | .accz _ | .accld _ | .accrd _ => 2
  | .vld _ | .vlds _ | .vgath _ | .tfetch _ | .twin _ | .tadv _ | .tshare _ | .tunpark _ | .vldt _ | .vldx _ => 3
  | .vst _ | .vsts _ | .vscat _ | .nstv _ | .tpark _ | .twr _ | .twb _ => 4
  | _ => 0

/-- An MMA works on after its issue (R270). -/
def Instr.isMma : Instr → Bool
  | .mma _ => true
  | _ => false

/-- Registers of block scales that an MMA with the given format reads: two on each side whose scale mode is 2 (R278). -/
def Instr.blockScales (i : Instr) (desc : BitVec 10) : List Nat :=
  match i with
  | .mma f => (if desc.toNat / 64 % 4 = 2 then rRun f.va 2 else []) ++ if desc.toNat / 256 % 4 = 2 then rRun f.vb 2 else []
  | _ => []

/-- Stores and parks signal when their sources have been read (R36). -/
def Instr.isStore : Instr → Bool
  | .vst _ | .vsts _ | .vscat _ | .nstv _ | .tpark _ | .twr _ | .twb _ => true
  | _ => false

/-- Prefix of a routed instruction. -/
def Instr.pfx : Instr → Option Pfx
  | .vadd f | .vsub f | .vmul f | .vfma f | .vfnma f | .vmin f | .vmax f | .vabs f | .vneg f | .vclamp f | .vmov f | .vsel f
  | .vexp2 f | .vlog2 f | .vrcp f | .vrsq f | .viadd f | .visub f | .vimul f | .vimad f | .vand f | .vor f | .vxor f | .vnot f
  | .vshl f | .vshr f | .vsar f | .vimin f | .vimax f | .vrmax f | .vrmin f | .vrsum f | .vcsum f | .vrscan f | .vshuf f
  | .vrot f | .vtrn f | .vcmp _ f | .vdefer f | .vmsk f | .vmaskq f | .vret f | .vcvt f | .vqnt f | .vdrain f => f.pfx
  | .vld f | .vlds f | .vgath f | .vst f | .vsts f | .vscat f | .nstv f => f.pfx
  | .tfetch f | .twin f | .tadv f | .tshare f | .tunpark f | .vldt f | .vldx f | .tpark f | .twr f | .twb f => f.pfx
  | .mma f | .accz f | .accld f | .accrd f => f.pfx
  | _ => none

/-- Token nibble of a routed instruction (R35). -/
def Instr.tok : Instr → BitVec 4
  | .vadd f | .vsub f | .vmul f | .vfma f | .vfnma f | .vmin f | .vmax f | .vabs f | .vneg f | .vclamp f | .vmov f | .vsel f
  | .vexp2 f | .vlog2 f | .vrcp f | .vrsq f | .viadd f | .visub f | .vimul f | .vimad f | .vand f | .vor f | .vxor f | .vnot f
  | .vshl f | .vshr f | .vsar f | .vimin f | .vimax f | .vrmax f | .vrmin f | .vrsum f | .vcsum f | .vrscan f | .vshuf f
  | .vrot f | .vtrn f | .vcmp _ f | .vdefer f | .vmsk f | .vmaskq f | .vret f | .vcvt f | .vqnt f | .vdrain f => f.tok
  | .vld f | .vlds f | .vgath f | .vst f | .vsts f | .vscat f | .nstv f => f.tok
  | .tfetch f | .twin f | .tadv f | .tshare f | .tunpark f | .vldt f | .vldx f | .tpark f | .twr f | .twb f => f.tok
  | .mma f | .accz f | .accld f | .accrd f => f.tok
  | _ => 0

end Sys2Proof
end

