-- ==== Sys2Proof/Machine/Routing.lean ====
section
/-! DEFINITION. Routed instructions: the queue and the operands each captures, the static limits checked at decode
(02_instruction_words.md R34, R57), and the head of a queue (10_vector_queues.md R240 to R242). -/

namespace Sys2Proof.Machine

/-! ### Static limits (R57 step 4) -/

def badIf (f : Option Pfx) (counted : Option Nat) (b : Bool) : Option Bad := firstBad (pfxBad f counted) b

/-- A mask destination: m1 to m15, or sink where it is allowed (R254, R258, R259). -/
def maskDstBad (sink : Bool) (f : VField) : Bool := !(decide (1 ≤ f.toNat) && decide (f.toNat ≤ 15) || (sink && isSink f))

/-- A run of n registers from field f ends above v767, or f is a special (R280 to R282). -/
def runBad (f : VField) (n : Nat) : Bool := decide (767 < f.toNat + n - 1)

def floatsInts : List Nat := floats3 ++ ints

/-- Types that VCVT converts between (R281). -/
def cvtTypes : List Nat := [0, 1, 2, 3, 4, 5, 7, 8, 9, 11, 12, 13]

def isScaled (T : Nat) : Bool := T == 3 || T == 4 || T == 5

/-- Limits of VCVT (R281); a ROM constant that an integer source type cannot hold is refused (R53). -/
def cvtCheck (f : V4) : Option Bad :=
  let D := f.ty.toNat
  let S := f.vc.toNat
  badIf f.pfx (some (narrowOf D S))
    (!cvtTypes.contains D || !cvtTypes.contains S || (isScaled D && isScaled S) || dstBad f.vd ||
      (isVReg f.vd && runBad f.vd (cvtRun D S)) || (isVReg f.va && runBad f.va (cvtRun S D)) || romBad S f.va ||
      manyCtq [f.va, f.vb] || ((isScaled D || isScaled S) && !isVReg f.vb))

/-- Limits of VQNT (R282); the counted type is e2m1. -/
def qntCheck (f : V4) : Option Bad :=
  badIf f.pfx (some 5)
    (!floats3.contains f.ty.toNat || !isVReg f.vd || !isVReg f.vc || f.vd == f.vc || runBad f.va (if f.ty = 0 then 8 else 4) ||
      !isVReg f.vb || f.pfx == some (.pxs 2))

/-- Types of a vector load or store (R249). -/
def vmTypes : List Nat := [0, 1, 2, 3, 4, 6, 7, 8, 9, 10, 11, 12, 13, 14]
def gatherTypes : List Nat := [0, 9, 10, 13, 14]

def vmCheck (types : List Nat) (load indexed : Bool) (f : VM) : Option Bad :=
  badIf f.pfx (some f.ty.toNat)
    (!types.contains f.ty.toNat || (if load then dstBad f.v else romBad f.ty.toNat f.v) ||
      (indexed && !isVReg (f.tail.setWidth 10)))

end Sys2Proof.Machine

namespace Sys2Proof

open Sys2Proof.Machine

/-- Registers and block size of NSTV (R30, R213). -/
def VM.count (f : VM) : Nat := f.tail.toNat / 4 % 16 + 1
def VM.block (f : VM) : Nat := match f.tail.toNat % 4 with | 0 => 4096 | 1 => 16384 | _ => 65536

end Sys2Proof

namespace Sys2Proof.Machine

def nstvCheck (f : VM) : Option Bad :=
  let (lo, hi) := rowRange f.pfx
  badIf f.pfx none
    (f.ty != 0 || f.mask != 0 || (if isVReg f.v then runBad f.v f.count else f.count != 1) ||
      decide (f.block < f.count * (hi + 1 - lo) * 256))

/-- Tile instructions: not in context F (R215); a slot below the partition size (R25). -/
def tlCheck (k : Task) (slot : Bool) (more : Bool) (f : TL) : Option Bad :=
  badIf f.pfx none (k.fw || (slot && decide (k.partSize ≤ f.ta.toNat)) || more)

end Sys2Proof.Machine

namespace Sys2Proof

open Sys2Proof.Machine

/-- VLDT and VLDX hold vd in n12 (R31). -/
def TL.vd (f : TL) : VField := f.n12.setWidth 10

end Sys2Proof

namespace Sys2Proof.Machine

/-- Limits of MMA (R81, R276, R278), then the bank-group rule (R264). -/
def mmaCheck (k : Task) (f : MX) : Option Bad :=
  match firstBad (pfxBad f.pfx none || (modeOf f.pfx).rnd != 0) (k.inTrap || decide (k.partSize ≤ f.ta.toNat) ||
      decide (k.partSize ≤ f.tb.toNat) || f.ty != 0 || decide (766 < f.va.toNat) || decide (766 < f.vb.toNat)) with
  | some b => some b
  | none => if f.ta.toNat % 4 = f.tb.toNat % 4 then some { cause := 0x11, prefixed := false } else none

end Sys2Proof.Machine

namespace Sys2Proof

open Sys2Proof.Machine

/-- Static limits of a routed instruction, in the context k. -/
def Instr.check (i : Instr) (k : Task) : Option Bad :=
  match i with
  | .vadd f | .vsub f | .vmul f | .vmin f | .vmax f => v4Check floats3 [f.va, f.vb] true (some f.ty.toNat) f
  | .vfma f | .vfnma f | .vclamp f => v4Check floats3 [f.va, f.vb, f.vc] true (some f.ty.toNat) f
  | .vabs f | .vneg f | .vexp2 f | .vlog2 f | .vrcp f | .vrsq f => v4Check floats3 [f.va] true (some f.ty.toNat) f
  | .vmov f | .vtrn f => v4Check allTypes [f.va] true (some f.ty.toNat) f
  | .vsel f | .vshuf f => v4Check allTypes [f.va, f.vb] true (some f.ty.toNat) f
  | .vcmp _ f =>
    badIf f.pfx (some f.ty.toNat) (!floatsInts.contains f.ty.toNat || maskDstBad true f.vd || manyCtq [f.va, f.vb] ||
      [f.va, f.vb].any (romBad f.ty.toNat))
  | .viadd f | .visub f | .vimul f | .vand f | .vor f | .vxor f | .vshl f | .vshr f | .vsar f | .vimin f | .vimax f =>
    v4Check ints [f.va, f.vb] true (some f.ty.toNat) f
  | .vimad f => v4Check ints [f.va, f.vb, f.vc] true (some f.ty.toNat) f
  | .vnot f => v4Check ints [f.va] true (some f.ty.toNat) f
  | .vrmax f | .vrmin f | .vrsum f | .vcsum f | .vrscan f => v4Check floatsInts [f.va] true (some f.ty.toNat) f
  | .vrot f =>
    badIf f.pfx (some f.ty.toNat) (!allTypes.contains f.ty.toNat || dstBad f.vd || !(isCtq f.vb || isPeek f.vb) ||
      manyCtq [f.va, f.vb] || romBad f.ty.toNat f.va)
  | .vmsk f =>
    badIf f.pfx none (f.ty != 0 || maskDstBad false f.vd || decide (15 < f.va.toNat) || decide (15 < f.vb.toNat) || decide (5 < f.vc.toNat))
  | .vmaskq f => badIf f.pfx none (!allTypes.contains f.ty.toNat || maskDstBad false f.vd)
  | .vdefer f =>
    badIf f.pfx none (!List.contains [0, 9, 13] f.ty.toNat || decide (1 < f.vd.toNat) || manyCtq [f.va, f.vb, f.vc] ||
      [f.va, f.vb, f.vc].any (romBad f.ty.toNat))
  | .vdrain f => badIf f.pfx none (!List.contains [0, 9, 13] f.ty.toNat || runBad f.vd 4 || decide (1 < f.va.toNat))
  | .vret f =>
    badIf f.pfx none (decide (2 < f.vc.toNat) || (f.vc == 0 && (!allTypes.contains f.ty.toNat || romBad f.ty.toNat f.va)))
  | .vcvt f => cvtCheck f
  | .vqnt f => qntCheck f
  | .vld f | .vlds f => vmCheck vmTypes true false f
  | .vgath f => vmCheck gatherTypes true true f
  | .vst f | .vsts f => vmCheck vmTypes false false f
  | .vscat f => vmCheck gatherTypes false true f
  | .nstv f => nstvCheck f
  | .tfetch f => tlCheck k true (f.n12 == 0) f
  | .twin f => tlCheck k true (f.n12 == 0 || k.inTrap) f
  | .tadv f => tlCheck k false (decide (3 < f.ta.toNat) || k.inTrap) f
  | .tshare f | .tunpark f | .tpark f | .twb f => tlCheck k true false f
  | .vldt f => tlCheck k true (dstBad f.vd) f
  | .vldx f => tlCheck k false (dstBad f.vd) f
  | .twr f => tlCheck k true (f.n12 == 0 || runBad f.va 8) f
  | .mma f => mmaCheck k f
  | .accz f => badIf f.pfx none k.inTrap
  | .accld f => badIf f.pfx none (k.inTrap || decide (1 < f.ty.toNat) || (isVReg f.va && runBad f.va (accRun f.ty.toNat)))
  | .accrd f =>
    badIf f.pfx none (k.inTrap || decide (4 < f.ty.toNat) || !(isSink f.va || !runBad f.va (accRun f.ty.toNat)))
  | _ => none

/-! ### Homes and captured operands (R34, R56) -/

/-- Home queue of a routed instruction: 0 LDQ, 1 CMQ, 2 STQ; none for any other (R56). -/
def Instr.home : Instr → Option Nat
  | .vadd _ | .vsub _ | .vmul _ | .vfma _ | .vfnma _ | .vmin _ | .vmax _ | .vabs _ | .vneg _ | .vclamp _ | .vmov _ | .vsel _
  | .vexp2 _ | .vlog2 _ | .vrcp _ | .vrsq _ | .viadd _ | .visub _ | .vimul _ | .vimad _ | .vand _ | .vor _ | .vxor _ | .vnot _
  | .vshl _ | .vshr _ | .vsar _ | .vimin _ | .vimax _ | .vrmax _ | .vrmin _ | .vrsum _ | .vcsum _ | .vrscan _ | .vshuf _
  | .vrot _ | .vtrn _ | .vcmp _ _ | .vdefer _ | .vmsk _ | .vmaskq _ | .vret _ | .vcvt _ | .vqnt _ | .vdrain _
  | .mma _ | .accz _ | .accld _ | .accrd _ => some 1
  | .vld _ | .vlds _ | .vgath _ | .tfetch _ | .twin _ | .tadv _ | .tshare _ | .tunpark _ | .vldt _ | .vldx _ => some 0
  | .vst _ | .vsts _ | .vscat _ | .nstv _ | .tpark _ | .twr _ | .twb _ => some 2
  | _ => none

/-- Handle and x registers that a routed instruction captures (R30, R228). -/
def Instr.captures : Instr → BitVec 5 × Reg × Reg
  | .vld f | .vlds f | .vgath f | .vst f | .vsts f | .vscat f => (f.h, f.xo, 0)
  | .tfetch f | .twin f | .tshare f | .tunpark f | .vldt f | .vldx f | .twb f => (f.h, f.xa, f.xb)
  | _ => (0, 0, 0)

end Sys2Proof

namespace Sys2Proof.Machine

/-- The slice routes instruction i (R155). -/
def routeInstr (i : Instr) (q : Nat) (s : State) : Out :=
  let (h, xa, xb) := i.captures
  routeTo s i q i.pfx [xa, xb] h xa xb i.check

/-! ### CTQ demands of an instruction (R47) -/

end Sys2Proof.Machine

namespace Sys2Proof

open Sys2Proof.Machine

/-- Source fields, in order, that can name `ctq` or `ctq.peek`. -/
def Instr.fields : Instr → List VField
  | .vadd f | .vsub f | .vmul f | .vfma f | .vfnma f | .vmin f | .vmax f | .vabs f | .vneg f | .vclamp f | .vmov f | .vsel f
  | .vexp2 f | .vlog2 f | .vrcp f | .vrsq f | .viadd f | .visub f | .vimul f | .vimad f | .vand f | .vor f | .vxor f | .vnot f
  | .vshl f | .vshr f | .vsar f | .vimin f | .vimax f | .vrmax f | .vrmin f | .vrsum f | .vcsum f | .vrscan f | .vshuf f
  | .vrot f | .vtrn f | .vcmp _ f | .vdefer f => [f.va, f.vb, f.vc]
  | .vret f => if f.vc = 0 then [f.va] else []
  | .vcvt f => [f.va]
  | .vst f | .vsts f | .vscat f | .nstv f => [f.v]
  | .accld f => [f.va]
  | .accrd f => [f.vb]
  | _ => []

/-- What the operation itself pops (R47 item 3). -/
def Instr.own : Instr → List Demand
  | .vlds _ | .vsts _ => [(.scalar, true)]
  | .vmaskq _ => [(.maskDesc, true)]
  | _ => []

def Instr.demands (i : Instr) : List Demand := pfxDemand i.pfx ++ i.fields.flatMap fieldDemand ++ i.own

/-- Type that a PXC count counts, or none where the prefix has no effect (R39, R258, R259, R213). -/
def Instr.counted : Instr → Option Nat
  | .vadd f | .vsub f | .vmul f | .vfma f | .vfnma f | .vmin f | .vmax f | .vabs f | .vneg f | .vclamp f | .vmov f | .vsel f
  | .vexp2 f | .vlog2 f | .vrcp f | .vrsq f | .viadd f | .visub f | .vimul f | .vimad f | .vand f | .vor f | .vxor f | .vnot f
  | .vshl f | .vshr f | .vsar f | .vimin f | .vimax f | .vrmax f | .vrmin f | .vrsum f | .vcsum f | .vrscan f | .vshuf f
  | .vrot f | .vtrn f | .vcmp _ f => some f.ty.toNat
  | .vcvt f => some (narrowOf f.ty.toNat f.vc.toNat)
  | .vqnt _ => some 5
  | .vld f | .vlds f | .vgath f | .vst f | .vsts f | .vscat f => some f.ty.toNat
  | _ => none

/-- Class of the memory accesses that an LDQ or STQ instruction makes, if it makes any and no window gives it (R42, R233). -/
def Instr.memClass : Instr → Option Nat
  | .vld f | .vlds f | .vgath f | .vst f | .vsts f | .vscat f | .nstv f => some (classOf f.pfx f.cls)
  | .tfetch f | .twin f | .tpark f | .twb f => some (classOf f.pfx f.cls)
  | .tunpark f => some (classOf f.pfx 0)
  | _ => none

/-! ### The head (R240) -/

end Sys2Proof

namespace Sys2Proof.Machine

/-- What the body of an instruction sees at its head: the state, the task, the task with the registers and masks as the instruction
reads them (R243), its entry, the values taken from the CTQ. -/
structure Hd where
  s : State
  t : Nat
  k : Task
  see : Task
  hs : Bool
  e : Entry
  tk : Taken

/-- The PXC count that applies. -/
def Hd.cnt (x : Hd) : Option (Nat × Nat) := if x.e.instr.counted.isSome then countOf x.e.instr.pfx x.tk.pfx else none

/-- What an issue does at once, and what it leaves for later. -/
structure Eff where
  s : State
  flags : BitVec 6 := 0
  push : Option W64 := none
  fills : List Nat := []
  busy : Bool := false
  skipped : Bool := false
  olds : List (Nat × VReg) := []
  oldm : List (Nat × BitVec 8192) := []

/-- Outcome of a body. A wait or a fault can have started part of the work (TWIN, R230). -/
inductive Head where
  | wait (code : Nat) (s : State)
  | fault (cause : Byte) (data : W64) (s : State)
  /-- An access of context F to the device-register range. -/
  | refuse
  | done (e : Eff)

/-- Tokens: the code of a channel that is short (R36, R179). -/
def tokenWait (qs : QSet) (q : Nat) (tok : BitVec 4) : Option Nat :=
  if tok.getLsbD 0 && qs.chan (nbrA q) q == 0 then some 1
  else if tok.getLsbD 2 && qs.chan (nbrB q) q == 0 then some 2
  else none

/-- Take the tokens waited for (R36). -/
def takeTokens (qs : QSet) (q : Nat) (tok : BitVec 4) : QSet :=
  let q1 := if tok.getLsbD 0 then qs.setChan (nbrA q) q (qs.chan (nbrA q) q - 1) else qs
  if tok.getLsbD 2 then q1.setChan (nbrB q) q (q1.chan (nbrB q) q - 1) else q1

/-- Outcome of items 1 to 3 of R240. -/
inductive Gate where
  | wait (code : Nat)
  | fault (cause : Byte)
  | skip
  | run (vals : List CtqEntry)

/-- Tokens and CTQ entries of an instruction that is to run (R240 items 2 and 3). -/
def gateRun (i : Instr) (qs : QSet) (q : Nat) (e : Entry) : Gate :=
  match e.popped with
  | some vals => match tokenWait qs q i.tok with | some c => .wait c | none => .run vals
  | none =>
    match serve (qs.ctq q) i.demands with
    | none => .wait 0
    | some vals =>
      match tokenWait qs q i.tok with
      | some c => .wait c
      | none => if kindsOk vals i.demands then .run vals else .fault 0x1C

/-- Items 1 to 3 of R240 (R40, R47). -/
def gate (i : Instr) (qs : QSet) (q : Nat) (e : Entry) : Gate :=
  if i.pfx = some .pxp ∧ e.popped = none then
    match qs.ctq q with
    | [] => .wait 0
    | c :: _ =>
      if c.kind != .pred then .fault 0x1C
      else if c.val.getLsbD 0 then gateRun i qs q e
      else match tokenWait qs q i.tok with | some c => .wait c | none => .skip
  else gateRun i qs q e

/-- The entry holds its unit: its holding time has not ended, and it is no MMA that has been stopped (R242, R270). -/
def Issued.holds (k : Task) (x : Issued) : Bool := x.holding && !(x.busy && x.entry.instr.isMma && k.mma.any fun m => !m.held)

/-- Another user context's MX entry holds the matrix unit of the core (R269). -/
def State.matrixBusy (s : State) (t : Nat) (k : Task) : Bool :=
  s.tasks.any fun p => p.1 != t && p.2.coreKey == k.coreKey && p.2.ord.cmq.issued.any fun x =>
    x.entry.instr.unit == 2 && x.holds p.2

/-- A test strip is running, or is due before the next MX entry (R272). -/
def State.stripWait (s : State) (k : Task) : Bool :=
  let c := s.core k.coreKey
  let en := if k.die = 0 then s.hif.strip0 else s.hif.strip1
  let lg := if k.die = 0 then s.hif.ilog0 else s.hif.ilog1
  c.strip || (en && decide (2 ^ lg ≤ c.mmas))

/-- Storage that the next MMA at the head reads: its format is the oldest entry of the format queue (R266, R278). -/
def Task.scalesAhead (k : Task) (i : Instr) : List Nat := match k.fmtq with | d :: _ => i.blockScales d.1 | [] => []

/-- Storage that an issued entry still reads: an MMA's, until its last micro-step (R270, R278). -/
def Task.stillReads (k : Task) (x : Issued) : List Nat :=
  if x.busy && x.entry.instr.isMma then
    x.entry.instr.reads ++ match k.mma with | some m => x.entry.instr.blockScales m.desc | none => []
  else []

/-- No earlier entry of the queue stands in the way of the registers and the unit of instruction i (R240 item 4, R241): a stopped MMA
still has its unit before what follows it in its queue. -/
def RQ.clear (rq : RQ) (k : Task) (i : Instr) : Bool :=
  let uses := i.reads ++ k.scalesAhead i ++ i.writes
  rq.issued.all fun x => !((!x.skipped && x.entry.instr.writes.any uses.contains) || (x.entry.instr.unit == i.unit && x.holding) ||
    (k.stillReads x).any i.writes.contains)

/-- The head of the CMQ of a task is an MX entry that awaits nothing but the matrix unit and its accumulators (R269): its gate is
open, its registers, its format entry and its tiles are there. -/
def State.mxReady (s : State) (k : Task) : Bool :=
  match k.ord.cmq.entries with
  | [] => false
  | e :: _ =>
    let slot (n : BitVec 6) : Bool := (get TSlot.empty (s.core k.coreKey).slots (k.partBase + n.toNat)).state == .live
    e.instr.unit == 2 && !k.inTrap && (match k.phase with | .running | .ended => true | _ => false) &&
      k.ord.cmq.fault.isNone && k.ord.cmq.late.isEmpty && !k.ord.cmq.halted &&
      (match gate e.instr k.ord 1 e with | .run _ => true | _ => false) && k.ord.cmq.clear k e.instr &&
      (match e.instr with | .mma f => !k.fmtq.isEmpty && slot f.ta && slot f.tb | _ => true)

/-- It is the other context's turn: task t took the matrix unit last, and an MX entry of another task of the core is ready
(R269). -/
def State.othersTurn (s : State) (t : Nat) (k : Task) : Bool :=
  (s.core k.coreKey).mxLast == some t && s.tasks.any fun p => p.1 != t && p.2.coreKey == k.coreKey && s.mxReady p.2

/-- Operands and unit (R240 item 4, R241, R269): code 5. So a head waits for a test strip that is running or due too: R272 gives that
wait no code (DESIGN CHOICE, log 49). -/
def operandWait (s : State) (t : Nat) (k : Task) (i : Instr) (rq : RQ) : Bool :=
  !rq.clear k i || (i.unit == 2 && (s.matrixBusy t k || s.stripWait k || s.othersTurn t k))

/-- Accesses of queue q that have left its head: those of the LDQ and those of the STQ. -/
def Task.outOf (k : Task) (q : Nat) : List Access := if q = 0 then k.ldqOut else if q = 2 then k.stqOut else []

/-- The access belongs to an entry routed before position p and is of a class in the mask. -/
def Access.isBefore (p : Nat) (mask : W16) : Access → Bool
  | .write _ c _ n | .read _ c n => decide (n < p) && mask.getLsbD c
  | _ => false

/-- Window n of a task, if it was declared. -/
def Task.window (k : Task) (n : Nat) : Option Window := get none k.win n

def Task.setWindow (k : Task) (n : Nat) (w : Window) : Task := { k with win := put none k.win n (some w) }

/-- Class of the fetch that a TADV makes from window w: the window's, unless a PXO prefix replaces it (R42, R228). -/
def Window.classFor (w : Window) (p : Option Pfx) : Nat := classOf p (BitVec.ofNat 4 w.cls)

/-- Class of the accesses that the instruction is about to make: a TADV's are its window's, if it has a group left to fetch (R231). -/
def Task.memClass (k : Task) (i : Instr) : Option Nat :=
  match i with
  | .tadv f => (k.window f.ta.toNat).bind fun w => if w.next < w.groups then some (w.classFor f.pfx) else none
  | _ => i.memClass

/-- A fence point ahead orders the access after one of the queue that has not been performed (R345): code 7. -/
def fenceWait (k : Task) (q : Nat) (rq : RQ) (e : Entry) (i : Instr) : Bool :=
  match k.memClass i with
  | none => false
  | some c => rq.fences.any fun f => decide (f.1 ≤ e.pos) && f.2.getLsbD c && (k.outOf q).any (Access.isBefore f.1 f.2)

/-- The unit u of R358 is the task's to use, or its passing has been started: code 9. -/
def State.claim (s : State) (t : Nat) (k : Task) (u : Nat) : Bool × State :=
  let co := s.core k.coreKey
  let x := get PUnit.empty co.units u
  let set (v : PUnit) : State := s.setCore k.coreKey { co with units := put PUnit.empty co.units u v }
  if x.pass != .idle then (false, s)
  else
    match x.holder with
    | none => if k.saved.contains u then (false, set { x with pass := .restoring t }) else (true, set { x with holder := some t })
    | some v =>
      if v = t then (if k.saved.contains u then (false, set { x with pass := .restoring t }) else (true, s))
      else (false, set { x with pass := .saving t })

def State.claims (s : State) (t : Nat) (k : Task) : List Nat → Bool × State
  | [] => (true, s)
  | u :: r =>
    let (a, s1) := s.claim t k u
    let (b, s2) := s1.claims t k r
    (a && b, s2)

end Sys2Proof.Machine

namespace Sys2Proof

open Sys2Proof.Machine

/-- Units that an entry claims (R358): banks that it writes, or reads from a saved copy; the accumulator set; a deferral queue, of
which each user context has its own (R247). -/
def Instr.units (i : Instr) (k : Task) : List Nat :=
  let w := (i.writes.filter fun c => decide (c < 1000)).map fun c => c / 64
  let r := ((i.reads ++ k.scalesAhead i).filter fun c => decide (c < 1000) && k.saved.contains (c / 64)).map fun c => c / 64
  let m := if i.unit = 2 then [12] else []
  let dq (n : Nat) : List Nat := if k.fw then [] else [(if k.ctx = 0 then 13 else 80) + n % 2]
  let d := match i with | .vdefer f => dq f.vd.toNat | .vdrain f => dq f.va.toNat | _ => []
  (w ++ r ++ m ++ d).eraseDups

end Sys2Proof

namespace Sys2Proof.Machine

/-- Record the awaited item of a head's wait (R179). -/
def State.awaits (s : State) (t : Nat) (hs : Bool) (q code : Nat) : State :=
  let k := s.task t
  let qs := k.set hs
  s.setTask t (k.withSet hs (qs.setRq q { qs.rq q with await := code }))

/-- The head raises a fault: its entry stays, unissued (R347). -/
def State.raise (s : State) (t : Nat) (hs : Bool) (q : Nat) (e : Entry) (cause : Byte) (data : W64) (await : Nat) : State :=
  let k := s.task t
  let qs := k.set hs
  let f : FaultRec := { cause := cause, addr := e.pc, data := data, src := q + 1, await := await, pos := e.pos }
  s.setTask t (k.withSet hs (qs.setRq q { qs.rq q with fault := some f }))

/-- A fault found once the entry's pops are made (R47, R240 item 3): the head keeps what it popped for its next attempt,
and SKIP removes it with the entry (R259: the descriptor is already popped). DEDUCED for the other faults: log 33. -/
def State.raisePopped (s : State) (t : Nat) (hs : Bool) (q : Nat) (e : Entry) (npop : Nat) (vals : List CtqEntry)
    (cause : Byte) (data : W64) : State :=
  let k := s.task t
  let qs := k.set hs
  let e1 := { e with popped := some vals }
  let rq1 := { qs.rq q with entries := e1 :: (qs.rq q).entries.drop 1 }
  (s.setTask t (k.withSet hs ((qs.setCtq q ((qs.ctq q).drop npop)).setRq q rq1))).raise t hs q e1 cause data 0

/-- Issue: the head entry leaves with its effect; the tokens and CTQ entries are taken, the stall counter restarts. -/
def State.issueHead (s : State) (t : Nat) (hs : Bool) (q : Nat) (e : Entry) (npop : Nat) (tok : BitVec 4) (hold : Bool)
    (x : Eff) : State :=
  let k := s.task t
  let qs := takeTokens (k.set hs) q tok
  let rq := qs.rq q
  let it : Issued := { entry := e, holding := hold, busy := x.busy, skipped := x.skipped, flags := x.flags, push := x.push,
                       fills := x.fills, got := [], olds := x.olds, oldm := x.oldm }
  let rq1 := { rq with entries := rq.entries.drop 1, issued := rq.issued ++ [it], stall := 0, await := 0 }
  s.setTask t (k.withSet hs ((qs.setCtq q ((qs.ctq q).drop npop)).setRq q rq1))

/-- The CMQ holds its format underflow condition (R268): TEND has issued, or the slice waits to route into the CMQ, which is at
its slip depth. -/
def Task.underflow (k : Task) : Bool :=
  k.phase == .ended || (k.waitQ == some 1 && decide (k.ord.cmq.depth ≤ k.ord.cmq.entries.length))

/-- An MMA skipped by its predicate pops its format entry too (R266); with none there it waits, or underflows, as any MMA does
(R268). -/
def skipMma (s : State) (t : Nat) (k : Task) (hs : Bool) (e : Entry) (tok : BitVec 4) : State :=
  match k.fmtq with
  | [] => if k.underflow then s.raise t hs 1 e 0x18 0 0 else s.awaits t hs 1 6
  | _ :: r => (s.setTask t { k with fmtq := r }).issueHead t hs 1 e 1 tok false { s := s, skipped := true }

/-! ### Registers that another queue is writing (R243) -/

/-- Register with each aligned 8-byte chunk as it was before a write or as it is after, by the bits of pick; rows never written
read zero. -/
def mixReg (pick : Nat) (old new : VReg) : VReg :=
  { bits := BitVec.ofNat 65536 (packBits 64 (fun c => if pick.testBit c then old.elem 64 c else new.elem 64 c) 1024),
    written := old.written ||| new.written }

/-- The same for a mask. -/
def mixMask (pick : Nat) (old new : BitVec 8192) : BitVec 8192 :=
  BitVec.ofNat 8192 (packBits 64 (fun c => (if pick.testBit c then old else new).toNat / 2 ^ (64 * c) % 2 ^ 64) 128)

/-- Issued entries of the queues other than q of a set. -/
def QSet.others (qs : QSet) (q : Nat) : List Issued := [0, 1, 2].flatMap fun p => if p = q then [] else (qs.rq p).issued

/-- The registers and masks of the codes in uses that entries of other queues have written and not yet completed (R243). -/
def racing (l : List Issued) (uses : List Nat) : List (Nat × VReg) × List (Nat × BitVec 8192) :=
  (l.flatMap fun x => x.olds.filter fun o => uses.contains o.1, l.flatMap fun x => x.oldm.filter fun o => uses.contains (1000 + o.1))

/-- What an instruction of queue q that uses these registers and masks sees of them: each chunk of one that another queue is
writing as before the write or as after it, a free choice (R243, log 8). -/
def State.seen (s : State) (k : Task) (hs : Bool) (q : Nat) (uses : List Nat) : Task × State :=
  let (vs, ms) := racing ((k.set hs).others q) uses
  let p := each (fun o (p : Task × State) => let (d, s1) := p.2.draw; (p.1.wv o.1 (mixReg d o.2 (p.1.rv o.1)), s1)) vs (k, s)
  each (fun o (p : Task × State) => let (d, s1) := p.2.draw; (p.1.wm o.1 (mixMask d o.2 (p.1.rm o.1)), s1)) ms p

/-- Register w after a body has run, or the value v where it has not issued. -/
def Head.reg (h : Head) (t w : Nat) (v : VReg) : VReg := match h with | .done x => (x.s.task t).rv w | _ => v

/-- Mask w after a body has run, or the value v where it has not issued. -/
def Head.mask (h : Head) (t w : Nat) (v : BitVec 8192) : BitVec 8192 := match h with | .done x => (x.s.task t).rm w | _ => v

/-- What an issued entry keeps of the registers and masks that it has written, after an entry of another queue has written them too:
f and g give a register and a mask after that write (R241, R243). -/
def Issued.rewrite (i : Issued) (f : Nat → VReg → VReg) (g : Nat → BitVec 8192 → BitVec 8192) : Issued :=
  { i with olds := i.olds.map fun o => (o.1, f o.1 o.2), oldm := i.oldm.map fun o => (o.1, g o.1 o.2) }

/-- The same for every issued entry of the queues other than q. -/
def QSet.rewrite (qs : QSet) (q : Nat) (f : Nat → VReg → VReg) (g : Nat → BitVec 8192 → BitVec 8192) : QSet :=
  let on (n : Nat) (r : RQ) : RQ := if n = q then r else { r with issued := r.issued.map fun i => i.rewrite f g }
  { qs with ldq := on 0 qs.ldq, cmq := on 1 qs.cmq, stq := on 2 qs.stq }

/-- The body of an instruction of queue q, with the registers that it uses as R243 lets it see them. It writes the registers as they
stand, and what entries of other queues keep of them changes as they do. -/
def seeing (i : Instr) (body : Hd → Head) (s : State) (t : Nat) (k : Task) (hs : Bool) (q : Nat) (e : Entry) (tk : Taken) : Head :=
  let uses := i.reads ++ i.writes
  let (vs, ms) := racing ((k.set hs).others q) uses
  if vs.isEmpty && ms.isEmpty then body { s := s, t := t, k := k, see := k, hs := hs, e := e, tk := tk }
  else
    let (km, s1) := s.seen k hs q uses
    let run (k : Task) : Head := body { s := s1.setTask t k, t := t, k := k, see := km, hs := hs, e := e, tk := tk }
    match run k with
    | .done x =>
      let k1 := x.s.task t
      let f (w : Nat) (v : VReg) : VReg := if i.writes.contains w then (run (k.wv w v)).reg t w v else v
      let g (w : Nat) (v : BitVec 8192) : BitVec 8192 := if i.writes.contains (1000 + w) then (run (k.wm w v)).mask t w v else v
      .done { x with s := x.s.setTask t (k1.withSet hs ((k1.set hs).rewrite q f g)) }
    | h => h

/-- What the registers and masks that an instruction writes hold before it (R243). -/
def Task.oldRegs (k : Task) (i : Instr) : List (Nat × VReg) := (i.writes.filter fun c => decide (c < 1000)).map fun n => (n, k.rv n)
def Task.oldMasks (k : Task) (i : Instr) : List (Nat × BitVec 8192) :=
  (i.writes.filter fun c => decide (1000 ≤ c) && decide (c < 2000)).map fun n => (n - 1000, k.rm (n - 1000))

/-- The matrix unit's last taker (R269). -/
def State.tookMatrix (s : State) (t : Nat) (k : Task) (i : Instr) : State :=
  if i.unit = 2 then s.setCore k.coreKey { s.core k.coreKey with mxLast := some t } else s

/-! ### Issue (R240) -/

/-- An MMA at the head finds the format queue empty, and no FMTP can fill it any more (R268). -/
def Task.starved (k : Task) (i : Instr) : Bool := i.isMma && k.fmtq.isEmpty && k.underflow

/-- Code of a head that waits; 9, the greatest, of one that does not. -/
def Head.code : Head → Nat
  | .wait c _ => c
  | _ => 9

/-- A head that cannot issue: it waits, or it faults with its pops made. -/
def stay (t : Nat) (hs : Bool) (q : Nat) (e : Entry) (npop : Nat) (vals : List CtqEntry) (s : State) : Head → Out
  | .wait c s => .next (s.awaits t hs q c)
  | .fault c d s => .next (s.raisePopped t hs q e npop vals c d)
  | .refuse => .refused .registerWindow
  | .done _ => .next s

/-- What the body of instruction i finds before any unit is claimed. -/
def tried (body : Hd → Head) (s : State) (t : Nat) (k : Task) (hs : Bool) (e : Entry) (tk : Taken) : Head :=
  body { s := s, t := t, k := k, see := k, hs := hs, e := e, tk := tk }

/-- The head issues: units are claimed, then the count is tested, and the body runs. -/
def headIssues (i : Instr) (body : Hd → Head) (s : State) (t : Nat) (k : Task) (hs : Bool) (q : Nat) (e : Entry)
    (vals : List CtqEntry) : Out :=
  let tk := takenOf i.pfx i.fields vals
  let npop := match e.popped with | some _ => 0 | none => pops i.demands
  let (ok, s1) := s.claims t k (i.units k)
  if !ok then .next (s1.awaits t hs q (tried body s t k hs e tk).code)
  else if i.counted.any fun T => countBad T (countOf i.pfx tk.pfx) then
    .next (s1.raisePopped t hs q e npop vals 0x03 0)
  else
    match seeing i body s1 t k hs q e tk with
    | .done x =>
      let x1 : Eff := if x.busy && !i.isMma then x else { x with olds := k.oldRegs i, oldm := k.oldMasks i }
      .next ((x.s.issueHead t hs q e npop i.tok true x1).tookMatrix t k i)
    | h => stay t hs q e npop vals s h

/-- The rest of R240 for an instruction that is to run: operands, fence points, units, count, and the body's own. A head that awaits
several items reports the lowest code (R179). An MMA takes its format entry and its tiles before it claims the accumulator set
(R278). -/
def headRun (i : Instr) (body : Hd → Head) (s : State) (t : Nat) (k : Task) (hs : Bool) (q : Nat) (e : Entry)
    (vals : List CtqEntry) : Out :=
  let rq := (k.set hs).rq q
  let tk := takenOf i.pfx i.fields vals
  let npop := match e.popped with | some _ => 0 | none => pops i.demands
  let c5 := operandWait s t k i rq
  let c7 := fenceWait k q rq e i || (q == 0 && decide (16 ≤ rq.issued.length))
  if k.starved i then .next (s.raisePopped t hs q e npop vals 0x18 0)
  else if c5 || c7 then .next (s.awaits t hs q (min (tried body s t k hs e tk).code (if c5 then 5 else 7)))
  else if i.isMma then
    match tried body s t k hs e tk with
    | .done _ => headIssues i body s t k hs q e vals
    | h => stay t hs q e npop vals s h
  else headIssues i body s t k hs q e vals

/-- The heads of a set may issue: the ordinary set is frozen in a handler (R351), and no head issues during a drain
(R349), while the task is out, or before it runs. -/
def Task.headsRun (k : Task) (hs : Bool) : Bool :=
  k.inTrap == hs && (match k.phase with | .running | .ended => true | _ => false)

/-- The queue may issue: no fault of it is pending and no token overflow stops it (R36, R347). -/
def RQ.open (rq : RQ) : Bool := rq.fault.isNone && rq.late.isEmpty && !rq.halted

/-- The head of queue q tries to issue instruction i (R240). Nothing happens where i is not the head's, or may not issue. -/
def headIssue (i : Instr) (body : Hd → Head) (s : State) (q : Nat) (hs : Bool) : Out :=
  match find s.tasks s.cur with
  | none => .fault .noTask
  | some k =>
    let t := s.cur
    let qs := k.set hs
    match (qs.rq q).entries with
    | [] => .next s
    | e :: _ =>
      if e.instr ≠ i ∨ !(k.headsRun hs && (qs.rq q).open) then .next s
      else
        match gate i qs q e with
        | .wait c => .next (s.awaits t hs q c)
        | .fault c => .next (s.raise t hs q e c 0 0)
        | .skip =>
          match i with
          | .mma _ => .next (skipMma s t k hs e i.tok)
          | _ => .next (s.issueHead t hs q e 1 i.tok false { s := s, skipped := true })
        | .run vals => headRun i body s t k hs q e vals

/-- A routed instruction: the slice routes it, or the head of its queue tries to issue it. -/
def routed (i : Instr) (home : Nat) (body : Hd → Head) (s : State) : Out :=
  match s.turn with
  | .slice => routeInstr i home s
  | .head q hs => headIssue i body s q hs

end Sys2Proof.Machine
end

