-- ==== Sys2Proof/Machine/Vector.lean ====
section
/-! DEFINITION. The vector instructions that compute: floating arithmetic, transcendental functions, compares, integer
arithmetic, reductions, permutes, masks, deferral and return (10_vector_queues.md R252 to R262). -/

namespace Sys2Proof.Machine

/-! ### Shared shapes -/

/-- Active(e) of R60 for an instruction with prefix p, mask field m and element type T. -/
def Hd.active (x : Hd) (p : Option Pfx) (m : BitVec 4) (T : Nat) : Nat → Bool :=
  let mask := x.see.rm m.toNat
  let cnt := x.cnt
  fun e => maskBit mask T e && inRange p cnt T e

/-- Random value of element e (R66). -/
def Hd.rand (x : Hd) (md : Mode) (e : Nat) : Nat := if md.rnd == 5 then mix x.e.seed e else 0

/-- Bits of a source of a V4 instruction. -/
def Hd.src (x : Hd) (T : Nat) (f : VField) : Nat → Nat := readSrc x.see x.tk.src T f

/-- Write the elements of vd for which a table holds a result; sink writes nothing (R51). -/
def Task.setElems (k : Task) (vd : VField) (T : Nat) (tbl : Array (Option (Nat × BitVec 6))) : Task :=
  if isVReg vd then k.wv vd.toNat ((k.rv vd.toNat).update T fun e => ((tbl[e]?).join).map fun r => r.1) else k

/-- Flags of a table of results. -/
def tableFlags (tbl : Array (Option (Nat × BitVec 6))) : BitVec 6 :=
  tbl.foldl (fun a r => match r with | some v => a ||| v.2 | none => a) 0

/-- The elementwise shape of R60: result and flags of each element e that act selects, into vd. -/
def vecRun (x : Hd) (vd : VField) (T : Nat) (act : Nat → Bool) (op : Nat → Nat × BitVec 6) : Head :=
  let tbl := tabulate (fun e => if act e then some (op e) else none) (elems T)
  .done { s := x.s.setTask x.t (x.k.setElems vd T tbl), flags := tableFlags tbl }

/-- An elementwise instruction on exact values, rounded once (R252). -/
def numBody (f : V4) (op : Mode → Num → Num → Num → Num × BitVec 6) (x : Hd) : Head :=
  let T := f.ty.toNat
  let md := modeOf f.pfx
  let a := x.src T f.va
  let b := x.src T f.vb
  let c := x.src T f.vc
  vecRun x f.vd T (x.active f.pfx f.mask T) fun e =>
    let (v, fl) := op md (valueOf T (a e)) (valueOf T (b e)) (valueOf T (c e))
    let (r, g) := roundTo v T md (x.rand md e)
    (r, fl ||| g)

/-- An elementwise instruction on raw bits, which sets no flag (R252, R255). -/
def bitBody (f : V4) (op : Nat → Nat → Nat → Nat) (x : Hd) : Head :=
  let T := f.ty.toNat
  let a := x.src T f.va
  let b := x.src T f.vb
  vecRun x f.vd T (x.active f.pfx f.mask T) fun e => (op (width T) (a e) (b e) % 2 ^ width T, 0)

def isRdn (md : Mode) : Bool := md.rnd == 2
def isMiss (md : Mode) : Bool := md.nan == 2

/-! ### Floating arithmetic (R252) -/

def execVadd (f : V4) (s : State) : Out := routed (.vadd f) 1 (numBody f fun md a b _ => addN (isRdn md) a b) s

def execVsub (f : V4) (s : State) : Out := routed (.vsub f) 1 (numBody f fun md a b _ => addN (isRdn md) a (negN b)) s

def execVmul (f : V4) (s : State) : Out := routed (.vmul f) 1 (numBody f fun _ a b _ => mulN a b) s

def execVfma (f : V4) (s : State) : Out := routed (.vfma f) 1 (numBody f fun md a b c => fmaN (isRdn md) a b c) s

def execVfnma (f : V4) (s : State) : Out := routed (.vfnma f) 1 (numBody f fun md a b c => fmaN (isRdn md) (negN a) b c) s

def execVmin (f : V4) (s : State) : Out :=
  routed (.vmin f) 1 (numBody f fun md a b _ => (minmaxN false (isMiss md) a b, 0)) s

def execVmax (f : V4) (s : State) : Out :=
  routed (.vmax f) 1 (numBody f fun md a b _ => (minmaxN true (isMiss md) a b, 0)) s

def execVabs (f : V4) (s : State) : Out := routed (.vabs f) 1 (numBody f fun _ a _ _ => (absN a, 0)) s

def execVneg (f : V4) (s : State) : Out := routed (.vneg f) 1 (numBody f fun _ a _ _ => (negN a, 0)) s

def execVclamp (f : V4) (s : State) : Out :=
  routed (.vclamp f) 1 (numBody f fun md a b c => (minmaxN false (isMiss md) (minmaxN true (isMiss md) a b) c, 0)) s

def execVmov (f : V4) (s : State) : Out := routed (.vmov f) 1 (bitBody f fun _ a _ => a) s

/-- VSEL writes every element within count and rows; its mask chooses the source (R252). -/
def selBody (f : V4) (x : Hd) : Head :=
  let T := f.ty.toNat
  let a := x.src T f.va
  let b := x.src T f.vb
  let mask := x.see.rm f.mask.toNat
  let cnt := x.cnt
  vecRun x f.vd T (inRange f.pfx cnt T) fun e => (if maskBit mask T e then a e else b e, 0)

def execVsel (f : V4) (s : State) : Out := routed (.vsel f) 1 (selBody f) s

/-! ### Transcendental functions (R253, R73 to R75) -/

/-- VRCP and VRSQ: exact results rounded once; the results of R75 apply before saturation. -/
def rcpBody (f : V4) (op : Num → Num × BitVec 6) (x : Hd) : Head := numBody f (fun _ a _ _ => op a) x

/-- VEXP2 and VLOG2 round the f32 value of the unit (R74). -/
def expBody (f : V4) (op : Num → Nat → Mode → Nat → Nat × BitVec 6) (x : Hd) : Head :=
  let T := f.ty.toNat
  let md := modeOf f.pfx
  let a := x.src T f.va
  vecRun x f.vd T (x.active f.pfx f.mask T) fun e => op (valueOf T (a e)) T md (x.rand md e)

def execVexp2 (f : V4) (s : State) : Out := routed (.vexp2 f) 1 (expBody f exp2To) s

def execVlog2 (f : V4) (s : State) : Out := routed (.vlog2 f) 1 (expBody f log2To) s

def execVrcp (f : V4) (s : State) : Out := routed (.vrcp f) 1 (rcpBody f rcpN) s

def execVrsq (f : V4) (s : State) : Out := routed (.vrsq f) 1 (rcpBody f rsqN) s

/-! ### Compare (R254) -/

/-- Compare under a condition code. -/
def compareN (cond : Nat) (a b : Num) : Bool :=
  if a.isNan || b.isNan then cond == 1 || cond == 6
  else
    let o := cmpN a b
    match cond with
    | 0 => o == .eq
    | 1 => o != .eq
    | 2 => o == .lt
    | 3 => o != .gt
    | 4 => o == .gt
    | 5 => o != .lt
    | 6 => false
    | _ => true

/-- Write mask md, or nothing for sink. -/
def Task.setMask (k : Task) (md : VField) (v : BitVec 8192) : Task := if isSink md then k else k.wm md.toNat v

/-- The count is zero: the instruction writes nothing (R39). -/
def noCount : Option (Nat × Nat) → Bool
  | some (_, 0) => true
  | _ => false

/-- The bits that VCMP gives md (R254). -/
def cmpMask (cond : BitVec 3) (f : V4) (x : Hd) : BitVec 8192 :=
  let T := f.ty.toNat
  let a := x.src T f.va
  let b := x.src T f.vb
  let act := x.active f.pfx f.mask T
  mkMask fun e => decide (e < elems T) && act e && compareN cond.toNat (valueOf T (a e)) (valueOf T (b e))

/-- VCMP writes every bit of md (R254), and none where its count is zero (R39). -/
def cmpBody (cond : BitVec 3) (f : V4) (x : Hd) : Head :=
  .done { s := if noCount x.cnt then x.s else x.s.setTask x.t (x.k.setMask f.vd (cmpMask cond f x)) }

def execVcmp (cond : BitVec 3) (f : V4) (s : State) : Out := routed (.vcmp cond f) 1 (cmpBody cond f) s

/-! ### Integer arithmetic (R255) -/

def execViadd (f : V4) (s : State) : Out := routed (.viadd f) 1 (numBody f fun _ a b _ => addN false a b) s

def execVisub (f : V4) (s : State) : Out := routed (.visub f) 1 (numBody f fun _ a b _ => addN false a (negN b)) s

def execVimul (f : V4) (s : State) : Out := routed (.vimul f) 1 (numBody f fun _ a b _ => mulN a b) s

def execVimad (f : V4) (s : State) : Out := routed (.vimad f) 1 (numBody f fun _ a b c => fmaN false a b c) s

def execVand (f : V4) (s : State) : Out := routed (.vand f) 1 (bitBody f fun _ a b => a &&& b) s

def execVor (f : V4) (s : State) : Out := routed (.vor f) 1 (bitBody f fun _ a b => a ||| b) s

def execVxor (f : V4) (s : State) : Out := routed (.vxor f) 1 (bitBody f fun _ a b => a ^^^ b) s

def execVnot (f : V4) (s : State) : Out := routed (.vnot f) 1 (bitBody f fun w a _ => 2 ^ w - 1 - a) s

def execVshl (f : V4) (s : State) : Out := routed (.vshl f) 1 (bitBody f fun w a b => a * 2 ^ (b % w)) s

def execVshr (f : V4) (s : State) : Out := routed (.vshr f) 1 (bitBody f fun w a b => a / 2 ^ (b % w)) s

/-- Shift right by b mod w with copies of the top bit. -/
def sarBits (w a b : Nat) : Nat :=
  let n := b % w
  if a / 2 ^ (w - 1) % 2 = 1 then a / 2 ^ n + (2 ^ n - 1) * 2 ^ (w - n) else a / 2 ^ n

def execVsar (f : V4) (s : State) : Out := routed (.vsar f) 1 (bitBody f sarBits) s

/-- VIMIN and VIMAX ignore PXM: the bits of one operand (R255). -/
def iminBody (f : V4) (max : Bool) (x : Hd) : Head :=
  let T := f.ty.toNat
  bitBody f (fun _ a b => if decide (intValue T a < intValue T b) == max then b else a) x

def execVimin (f : V4) (s : State) : Out := routed (.vimin f) 1 (iminBody f false) s

def execVimax (f : V4) (s : State) : Out := routed (.vimax f) 1 (iminBody f true) s

/-! ### Reductions and scans (R256) -/

/-- Exact sum of finite terms, or NaN, or an infinity, with NV where infinities of both signs meet (R256, R71). The zero of an
empty list, and of terms that are all -0, is -0, any other exact zero +0, under rdn too (R256, where R71 says otherwise; DEDUCED, log 49);
where a term is NaN, infinities of both signs among the rest set no NV (R80; DESIGN CHOICE, log 49). -/
def sumN : List Num → Num × BitVec 6
  | [] => (.fin true 0 1, 0)
  | v :: r =>
    match r with
    | [] => (v, 0)
    | _ =>
      let (t, fl) := sumN r
      if v.isNan || t.isNan then (.nan, if v.isNan then 0 else fl) else addN false v t

/-- Least or greatest of a list of values (R256, R38). -/
def extremeN (max miss : Bool) : List Num → Num
  | [] => .nan
  | v :: r => match r with | [] => v | _ => minmaxN max miss v (extremeN max miss r)

/-- Active elements of row r of a register of type T, in order of column. -/
def rowActive (T : Nat) (act : Nat → Bool) (r : Nat) : List Nat :=
  ((List.range (perRow T)).map fun c => perRow T * r + c).filter act

/-- Active elements of column c, in order of row. -/
def colActive (T : Nat) (act : Nat → Bool) (c : Nat) : List Nat :=
  ((List.range 32).map fun r => perRow T * r + c).filter act

/-- A reduction: the result of group e selects, computed once for each group, and rounded for each element it reaches. -/
def redBody (f : V4) (groups : Nat) (groupOf : Nat → Nat) (members : (Nat → Bool) → Nat → List Nat)
    (op : Mode → List Num → Num × BitVec 6) (x : Hd) : Head :=
  let T := f.ty.toNat
  let md := modeOf f.pfx
  let a := x.src T f.va
  let act := x.active f.pfx f.mask T
  let tbl := tabulate (fun g => op md ((members act g).map fun e => valueOf T (a e))) groups
  vecRun x f.vd T act fun e =>
    let (v, fl) := (tbl[groupOf e]?).getD (.nan, 0)
    let (r, g) := roundTo v T md (x.rand md e)
    (r, fl ||| g)

def rowRed (f : V4) (op : Mode → List Num → Num × BitVec 6) : Hd → Head :=
  redBody f 32 (fun e => e / perRow f.ty.toNat) (rowActive f.ty.toNat) op

def execVrmax (f : V4) (s : State) : Out :=
  routed (.vrmax f) 1 (rowRed f fun md l => (extremeN true (isMiss md) l, 0)) s

def execVrmin (f : V4) (s : State) : Out :=
  routed (.vrmin f) 1 (rowRed f fun md l => (extremeN false (isMiss md) l, 0)) s

def execVrsum (f : V4) (s : State) : Out := routed (.vrsum f) 1 (rowRed f fun _ l => sumN l) s

def execVcsum (f : V4) (s : State) : Out :=
  routed (.vcsum f) 1 (redBody f (perRow f.ty.toNat) (fun e => e % perRow f.ty.toNat) (colActive f.ty.toNat) fun _ l => sumN l) s

/-- Exact prefix sums of a list of values, with flags, the running sum first; an exact zero is -0 only where every term is, as in `sumN`
(R256; DEDUCED, log 49). -/
def prefixN (acc : Num) (fl : BitVec 6) : List Num → List (Num × BitVec 6)
  | [] => []
  | v :: r =>
    let (t, g) := if acc.isNan || v.isNan then (.nan, if v.isNan then 0 else fl) else addN false acc v
    (t, g) :: prefixN t g r

/-- Prefix sums of the active elements of one row: pairs of element and sum (R256). -/
def scanRow (T : Nat) (act : Nat → Bool) (a : Nat → Nat) (r : Nat) : List (Nat × (Num × BitVec 6)) :=
  let l := rowActive T act r
  l.zip (prefixN (.fin true 0 1) 0 (l.map fun e => valueOf T (a e)))

def scanBody (f : V4) (x : Hd) : Head :=
  let T := f.ty.toNat
  let md := modeOf f.pfx
  let a := x.src T f.va
  let act := x.active f.pfx f.mask T
  let sums := ((List.range 32).flatMap (scanRow T act a)).toArray
  let none' : Array (Option (Nat × BitVec 6)) := Array.replicate (elems T) none
  let tbl := sums.foldl (fun tbl p =>
    let (r, g) := roundTo p.2.1 T md (x.rand md p.1)
    tbl.setIfInBounds p.1 (some (r, p.2.2 ||| g))) none'
  .done { s := x.s.setTask x.t (x.k.setElems f.vd T tbl), flags := tableFlags tbl }

def execVrscan (f : V4) (s : State) : Out := routed (.vrscan f) 1 (scanBody f) s

/-! ### Permutes (R257) -/

/-- A permute: element e of vd receives the bits of element pick e of va. -/
def permBody (f : V4) (pick : Hd → Nat → Nat) (x : Hd) : Head :=
  let T := f.ty.toNat
  let a := x.src T f.va
  let p := pick x
  vecRun x f.vd T (x.active f.pfx f.mask T) fun e => (a (p e), 0)

/-- VSHUF: a column of the same row, by the raw index bits modulo the columns. -/
def shufPick (f : V4) (x : Hd) : Nat → Nat :=
  let T := f.ty.toNat
  let p := perRow T
  let b := x.src T f.vb
  fun e => p * (e / p) + b e % p

def execVshuf (f : V4) (s : State) : Out := routed (.vshuf f) 1 (permBody f (shufPick f)) s

/-- VROT: element e + k modulo the element count, k the scalar taken from the CTQ. -/
def rotPick (f : V4) (x : Hd) (e : Nat) : Nat := (e + x.tk.src.toNat) % elems f.ty.toNat

def execVrot (f : V4) (s : State) : Out := routed (.vrot f) 1 (permBody f (rotPick f)) s

/-- VTRN: transposition of each 32 by 32 block. -/
def trnPick (f : V4) (_ : Hd) (e : Nat) : Nat :=
  let p := perRow f.ty.toNat
  let row := e / p
  let col := e % p
  p * (col % 32) + 32 * (col / 32) + row

def execVtrn (f : V4) (s : State) : Out := routed (.vtrn f) 1 (permBody f (trnPick f)) s

/-! ### Masks (R258, R259) -/

/-- Bits of VMSK by operation code. -/
def maskOp (op : Nat) (a b : BitVec 8192) : BitVec 8192 :=
  match op with
  | 0 => a &&& b
  | 1 => a ||| b
  | 2 => a ^^^ b
  | 3 => a &&& ~~~b
  | 4 => ~~~a
  | _ => a

def mskBody (f : V4) (x : Hd) : Head :=
  .done { s := x.s.setTask x.t (x.k.wm f.vd.toNat (maskOp f.vc.toNat (x.see.rm f.va.toNat) (x.see.rm f.vb.toNat))) }

def execVmsk (f : V4) (s : State) : Out := routed (.vmsk f) 1 (mskBody f) s

/-- Limits of a mask descriptor for type T (R259). -/
def descBad (D T : Nat) : Bool :=
  let kind := D / 2 ^ 62 % 4
  let rows := decide (32 < D / 2 ^ 57 % 32 + D / 2 ^ 41 % 64)
  let cols := decide (perRow T < D / 2 ^ 47 % 1024 + D / 2 ^ 30 % 2048)
  match kind with
  | 0 => decide (elems T < D % 2 ^ 15)
  | 1 => rows
  | 2 => cols
  | _ => rows || cols

/-- Elements that a mask descriptor selects (R259). -/
def descSel (D T e : Nat) : Bool :=
  let fr := D / 2 ^ 57 % 32
  let rc := D / 2 ^ 41 % 64
  let g := D / 2 ^ 47 % 1024
  let cc := D / 2 ^ 30 % 2048
  let row := e / perRow T
  let col := e % perRow T
  let rows := decide (fr ≤ row) && decide (row < fr + rc)
  let cols := decide (g ≤ col) && decide (col < g + cc)
  match D / 2 ^ 62 % 4 with
  | 0 => decide (e < D % 2 ^ 15)
  | 1 => rows
  | 2 => cols
  | _ => rows && cols

def maskqBody (f : V4) (x : Hd) : Head :=
  let T := f.ty.toNat
  let D := x.tk.own.toNat
  if descBad D T then .fault 0x03 0 x.s
  else
    let mask := x.see.rm f.mask.toNat
    let m := mkMask fun e => decide (e < elems T) && descSel D T e && maskBit mask T e
    .done { s := x.s.setTask x.t (x.k.wm f.vd.toNat m) }

def execVmaskq (f : V4) (s : State) : Out := routed (.vmaskq f) 1 (maskqBody f) s

/-! ### Deferral and return (R260 to R262) -/

def Task.dq (k : Task) (n : Nat) : List (BitVec 128) := if n = 0 then k.dq0 else k.dq1

def Task.setDq (k : Task) (n : Nat) (l : List (BitVec 128)) : Task := if n = 0 then { k with dq0 := l } else { k with dq1 := l }

/-- Indices below n that act selects. -/
def activeList (act : Nat → Bool) (n : Nat) : List Nat := (List.range n).filter act

def deferBody (f : V4) (x : Hd) : Head :=
  let T := f.ty.toNat
  let l := activeList (x.active f.pfx f.mask T) (elems T)
  let q := x.k.dq f.vd.toNat
  if 4096 < q.length + l.length then .fault 0x38 0 x.s
  else
    let a := x.src T f.va
    let b := x.src T f.vb
    let c := x.src T f.vc
    let recs := l.map fun e => BitVec.ofNat 128 (e + a e * 2 ^ 32 + b e * 2 ^ 64 + c e * 2 ^ 96)
    .done { s := x.s.setTask x.t (x.k.setDq f.vd.toNat (q ++ recs)) }

def execVdefer (f : V4) (s : State) : Out := routed (.vdefer f) 1 (deferBody f) s

/-- Write field n of the records to the first elements of register r; no record writes nothing. -/
def Task.drainTo (k : Task) (r n : Nat) (recs : Array (BitVec 128)) : Task :=
  if recs.isEmpty then k
  else k.wv r ((k.rv r).update 13 fun e => (recs[e]?).map fun c => c.toNat / 2 ^ (32 * n) % 2 ^ 32)

def drainBody (f : V4) (x : Hd) : Head :=
  let q := x.k.dq f.va.toNat
  let recs := (q.take 2048).toArray
  let v := f.vd.toNat
  let k1 := x.k.setDq f.va.toNat (q.drop 2048)
  let k2 := (((k1.drainTo v 0 recs).drainTo (v + 1) 1 recs).drainTo (v + 2) 2 recs).drainTo (v + 3) 3 recs
  let k3 := k2.wm f.mask.toNat (BitVec.ofNat 8192 (2 ^ recs.size - 1))
  .done { s := x.s.setTask x.t k3 }

def execVdrain (f : V4) (s : State) : Out := routed (.vdrain f) 1 (drainBody f) s

/-- Number of one bits below n. -/
def onesOf (m : BitVec 8192) : Nat → Nat
  | 0 => 0
  | n + 1 => onesOf m n + (if m.getLsbD n then 1 else 0)

/-- Value that VRET pushes (R262). -/
def retValue (f : V4) (x : Hd) : W64 :=
  let T := f.ty.toNat
  let m := x.see.rm f.mask.toNat
  match f.vc.toNat with
  | 0 =>
    match (List.range (elems T)).find? (x.active f.pfx f.mask T) with
    | none => 0
    | some e =>
      let b := x.src T f.va e
      if isInt T && isSigned T then BitVec.ofInt 64 (intValue T b) else BitVec.ofNat 64 b
  | 1 => BitVec.ofNat 64 (onesOf m 8192)
  | _ => BitVec.ofNat 64 (((List.range 8192).find? m.getLsbD).getD 8192)

/-- VRET waits while entries and pushes in flight fill the RTQ (R159, R248). -/
def retBody (f : V4) (x : Hd) : Head :=
  let qs := x.k.set x.hs
  if rtqCap x.hs ≤ qs.rtq.length + (qs.cmq.issued.filter fun i => i.push.isSome).length then .wait 8 x.s
  else .done { s := x.s, push := some (retValue f x) }

def execVret (f : V4) (s : State) : Out := routed (.vret f) 1 (retBody f) s

end Sys2Proof.Machine
end

