-- ==== Sys2Proof/Machine/VectorMemory.lean ====
section
/-! DEFINITION. Vector loads and stores (10_vector_queues.md R249 to R251) and the nameless store NSTV
(08_memory_sites.md R200 to R202, R213). -/

namespace Sys2Proof.Machine

/-- Address-space context of a task (R2, R370). -/
def State.ascOf (s : State) (k : Task) : Nat := (s.packet k.packet).asc

/-- One access of a vector load or store: the register elements it moves and its byte offset from the handle's base. -/
structure Acc where
  off : Int
  len : Nat
  elts : List Nat

/-- Elements that a row holds, within count and rows (R242: a touched row holds at least one). -/
def rowElts (T : Nat) (sel : Nat → Bool) (r : Nat) : List Nat :=
  ((List.range (perRow T)).map fun c => perRow T * r + c).filter sel

/-- Byte of an element in its row (R49). -/
def byteIn (T e : Nat) : Nat := e % perRow T * width T / 8

/-- Accesses by rows: base + stride times r for each touched row; the elements moved are the active ones (R250). -/
def rowAccs (x : Hd) (f : VM) (base stride : Int) : List Acc :=
  let T := f.ty.toNat
  let cnt := x.cnt
  let act := x.active f.pfx f.mask T
  (List.range 32).filterMap fun r =>
    if (rowElts T (inRange f.pfx cnt T) r).isEmpty then none
    else some { off := base + stride * r, len := 256, elts := rowElts T act r }

/-- Accesses by elements: base plus the index element (R250). -/
def eltAccs (x : Hd) (f : VM) (base : Int) : List Acc :=
  let T := f.ty.toNat
  let act := x.active f.pfx f.mask T
  let vi := x.see.rv (f.tail.setWidth 10 : VField).toNat
  (activeList act (elems T)).map fun e => { off := base + intValue 9 (vi.elem 32 e), len := width T / 8, elts := [e] }

/-- Offset imm15 of the offset tail (R30). -/
def imm15 (f : VM) : Int := f.tail.toInt

/-- The accesses of a vector-memory instruction; stride: the CTQ value of VLDS and VSTS. -/
def plainAccs (f : VM) (x : Hd) : List Acc := rowAccs x f (x.e.xa.toInt + imm15 f) 256
def strideAccs (f : VM) (x : Hd) : List Acc := rowAccs x f (x.e.xa.toInt + imm15 f) x.tk.own.toInt
def indexAccs (f : VM) (x : Hd) : List Acc := eltAccs x f x.e.xa.toInt

/-- Checks of a captured handle for a list of accesses: cause and offset of the first that fails (R249, R250, R371). -/
def accFault (h : Handle) (perm : Bool) (l : List Acc) : Option (Byte × W64) :=
  let first : W64 := match l with | a :: _ => BitVec.ofInt 64 a.off | [] => 0
  if !h.v then some (0x08, first)
  else if !perm then some (0x0A, first)
  else (l.find? fun a => decide (a.off < 0) || decide ((h.size : Int) < a.off + a.len)).map fun a => (0x09, BitVec.ofInt 64 a.off)

/-- Physical address of an offset. -/
def Handle.addr (h : Handle) (off : Int) : Nat := ((h.base : Int) + off).toNat

/-- Common start of a load or store: the checks at the head, before any byte is read or written (R249). -/
def accCheck (x : Hd) (perm : Bool) (l : List Acc) : Option Head :=
  match accFault x.e.h perm l with
  | some (c, d) => some (.fault c d x.s)
  | none =>
    if isDevReg x.e.h.base && !l.isEmpty then some .refuse else none

/-- Address of element e within access a: rows hold their elements in register order (R249). -/
def Acc.at (a : Acc) (h : Handle) (T e : Nat) (byRow : Bool) : Nat := h.addr a.off + (if byRow then byteIn T e else 0)

/-- The aligned 8-byte chunk that holds an element of n bytes at a, or none where it lies across two (R249, R329). -/
def chunkOf (n a : Nat) : Option Nat := if a % 8 + n ≤ 8 then some (a / 8) else none

/-- Elements of a row, each with its address, in order: neighbours in one aligned chunk form one access, any other element its
own (R249). -/
def byChunk (n : Nat) : List (Nat × Nat) → List (List (Nat × Nat))
  | [] => []
  | c :: r =>
    match byChunk n r with
    | (d :: g) :: l => if (chunkOf n c.2).isSome && chunkOf n c.2 == chunkOf n d.2 then (c :: d :: g) :: l else [c] :: (d :: g) :: l
    | l => [c] :: l

/-- The elements of an access list, each with its address, in the groups that are accessed together (R249, R329). -/
def eltGroups (h : Handle) (T : Nat) (byRow : Bool) (l : List Acc) : List (List (Nat × Nat)) :=
  l.flatMap fun a =>
    let es := a.elts.map fun e => (e, a.at h T e byRow)
    if byRow then byChunk (width T / 8) es else es.map fun c => [c]

/-- The LDQ entry's reads: for each group, the places of its bytes in the register and their addresses. -/
def readsOf (n cls pos : Nat) (l : List (List (Nat × Nat))) : List Access :=
  l.map fun g => Access.read (g.flatMap fun c => (List.range n).map fun j => (n * c.1 + j, c.2 + j)) cls pos

/-- Body of a vector load: its checks, and its reads, which are then performed one by one (R249, R250, R329). -/
def loadBody (f : VM) (byRow : Bool) (accs : Hd → List Acc) (x : Hd) : Head :=
  let T := f.ty.toNat
  let h := x.e.h
  let l := accs x
  match accCheck x h.r l with
  | some r => r
  | none =>
    let gs := eltGroups h T byRow l
    let s1 := x.s.touchAll x.k.coreKey h (gs.flatMap fun g => g.map fun c => c.2)
    let rs := readsOf (width T / 8) (classOf f.pfx f.cls) x.e.pos gs
    .done { s := s1.setTask x.t { x.k with ldqOut := x.k.ldqOut ++ rs }, busy := !rs.isEmpty }

def execVld (f : VM) (s : State) : Out := routed (.vld f) 0 (loadBody f true (plainAccs f)) s

def execVlds (f : VM) (s : State) : Out := routed (.vlds f) 0 (loadBody f true (strideAccs f)) s

def execVgath (f : VM) (s : State) : Out := routed (.vgath f) 0 (loadBody f false (indexAccs f)) s

/-- Writes leave the STQ: one for each list of cells, all with the serial number of their instruction. -/
def Task.post (k : Task) (cls pos : Nat) (l : List (List (Nat × Byte))) : Task :=
  let ws := (l.filter fun c => !c.isEmpty).map fun c => Access.write c cls k.wid pos
  { k with stqOut := k.stqOut ++ ws, wid := k.wid + 1 }

/-- The first of a list of accesses of n bytes of a task that would write a page of a slot that is mapped read-only: the fault, with the
offset in the handle (R58, R85). -/
def Hd.keepsOut (x : Hd) (n : Nat) (l : List Nat) : Option Head :=
  if x.k.fw then none
  else (l.find? fun a => x.s.readOnly a n).map fun a => .fault 0x0A (BitVec.ofInt 64 ((a : Int) - x.e.h.base)) x.s

/-- Body of a vector store: the active elements' bytes, each group of elements one access (R249, R251). -/
def storeBody (f : VM) (byRow : Bool) (accs : Hd → List Acc) (x : Hd) : Head :=
  let T := f.ty.toNat
  let h := x.e.h
  let l := accs x
  match accCheck x h.w l with
  | some r => r
  | none =>
    let n := width T / 8
    let v := x.src T f.v
    let gs := eltGroups h T byRow l
    let starts := gs.flatMap fun g => g.map fun c => c.2
    match x.keepsOut n starts with
    | some r => r
    | none =>
      let ws := gs.map fun g => g.flatMap fun c => cellsAt c.2 (bytesOf n (v c.1))
      let s1 := x.s.touchAll x.k.coreKey h starts
      .done { s := s1.setTask x.t (x.k.post (classOf f.pfx f.cls) x.e.pos ws) }

def execVst (f : VM) (s : State) : Out := routed (.vst f) 2 (storeBody f true (plainAccs f)) s

def execVsts (f : VM) (s : State) : Out := routed (.vsts f) 2 (storeBody f true (strideAccs f)) s

def execVscat (f : VM) (s : State) : Out := routed (.vscat f) 2 (storeBody f false (indexAccs f)) s

/-! ### Nameless stores -/

/-- Room in the NRQ, counting names issued and not pushed (R159). -/
def Hd.nrqRoom (x : Hd) : Bool :=
  let qs := x.k.set x.hs
  decide (qs.nrq.length + qs.names.length < nrqCap x.hs)

/-- A name is issued with the writes of its block: `wid` is their serial number (R202). -/
def Task.nameOut (k : Task) (hs : Bool) (nm : Nat) : Task :=
  let qs := k.set hs
  k.withSet hs { qs with names := qs.names ++ [{ name := nm, wid := k.wid }] }

/-- The choice of R200 for a block of n bytes at a head: a wait (code 7), arena full, or the state with the block
allocated, its name and its address. -/
def Hd.block (x : Hd) (n : Nat) : Except Head (State × Nat × Nat) :=
  if !x.nrqRoom then .error (.wait 7 x.s)
  else
    let asc := x.s.ascOf x.k
    let (pick, s1) := x.s.draw
    match s1.choose x.k.die asc (n / 4096) pick with
    | .waits => .error (.wait 7 x.s)
    | .full => .error (.fault 0x0E 0 x.s)
    | .block i c j => .ok (s1.allocate asc i c j (n / 4096), mkName i c j (s1.unitGen i c j), arenaAddr i c j)

/-- Rows stored, as 256-byte runs: for each register in turn, the rows of the prefix (R213). -/
def nstvBytes (f : VM) (x : Hd) : List Byte :=
  let (lo, hi) := rowRange f.pfx
  (List.range f.count).flatMap fun j =>
    let v := if isVReg f.v then x.see.rv (f.v.toNat + j) else VReg.empty
    let c := if isVReg f.v then fun _ => 0 else x.src 0 f.v
    ((List.range (hi + 1 - lo)).map fun r => lo + r).flatMap fun r =>
      (List.range 64).flatMap fun e => bytesOf 4 (if isVReg f.v then v.elem 32 (64 * r + e) else c (64 * r + e))

def nstvBody (f : VM) (x : Hd) : Head :=
  match x.block f.block with
  | .error h => h
  | .ok (s1, nm, a) =>
    let k := x.k.nameOut x.hs nm
    .done { s := (s1.arrive a).setTask x.t (k.post (classOf f.pfx f.cls) x.e.pos [cellsAt a (nstvBytes f x)]) }

def execNstv (f : VM) (s : State) : Out := routed (.nstv f) 2 (nstvBody f) s

end Sys2Proof.Machine
end

