-- ==== Sys2Proof/Machine/Handles.lean ====
section
/-! DEFINITION. Handles, names and the start of a hand-over: XLT, XLTN, HREL, HCHK, NREL, SHAND, the page-table walk of a
core, the pushing of names and the freeing of relinquished blocks (08_memory_sites.md R186 to R212). -/

namespace Sys2Proof.Machine

/-- Site field of a handle: that of its base (R192). -/
def siteField (base : Nat) : Nat := (siteOf base).getD 0 % 8

/-- The page of n bytes at base holds an address of the range that R183 keeps from translation. -/
def reservedPage (base n : Nat) : Bool :=
  decide (base < 2 ^ 41) && decide (base % 2 ^ 38 < 240 * 2 ^ 30) && decide (240 * 2 ^ 30 - 8 * 2 ^ 20 < base % 2 ^ 38 + n)

/-- The page at base lies in a site under hand-over (R197). -/
def State.handingAt (s : State) (base : Nat) : Bool := (siteOf base).any s.handing

/-- The page at base lies in a site that die d does not own (R194). -/
def State.foreign (s : State) (d base : Nat) : Bool := (siteOf base).any fun i => (s.site i).owner != d

/-! ### The TLB (R191) -/

def tlbMatch (asc va : Nat) (e : TlbEntry) : Bool := e.asc == asc && decide (e.va ≤ va) && decide (va < e.va + e.size)

/-- Entry of the core's TLB for va in context asc. -/
def Core.lookup (c : Core) (asc va : Nat) : Option TlbEntry := c.tlb.find? (tlbMatch asc va)

/-- The entry becomes the most recently used: the first of the list. XLT alone uses an entry so; whether an access through a handle does too,
R191 leaves open (DESIGN CHOICE, log 49). -/
def Core.used (c : Core) (e : TlbEntry) : Core := { c with tlb := e :: c.tlb.filter fun x => x.idx != e.idx }

/-- Lowest entry index of a list of candidates that no entry uses. -/
def freeIdx (l : List TlbEntry) : List Nat → Option Nat
  | [] => none
  | i :: r => if l.any fun e => e.idx == i then freeIdx l r else some i

/-- Fill an entry with a leaf: an unused one, or the least recently used, whose hotness goes to the shadow table (R186). -/
def State.fillTlb (s : State) (c asc va : Nat) (l : Leaf) : State :=
  let co := s.core c
  let old := match freeIdx co.tlb (List.range 128) with | some _ => [] | none => co.tlb.drop 127
  let idx := match freeIdx co.tlb (List.range 128) with | some i => i | none => (old.map TlbEntry.idx).headD 0
  let gen := get 0 co.tlbGen idx + 1
  let e : TlbEntry := { idx := idx, asc := asc, va := va - va % l.size, base := l.base, size := l.size, r := l.r, w := l.w, hot := 0,
                        gen := gen, last := l.base }
  let kept := match old with | [] => co.tlb | _ => co.tlb.take 127
  (s.setCore c { co with tlb := e :: kept, tlbGen := put 0 co.tlbGen idx gen }).cool old

/-- Number of pinned pages in a group (R187). -/
def Site.pinnedIn (st : Site) (g : Nat) : Nat :=
  (st.pins.filter fun p => p % 786432 == g).length

/-- Mark page p of a site pinned; PINC of its group is set when another page of the group is pinned (R187). -/
def Site.pin (st : Site) (p : Nat) : Site :=
  let st1 := { st with pins := if st.pins.contains p then st.pins else st.pins ++ [p] }
  let g := p % 786432
  if 2 ≤ st1.pinnedIn g then { st1 with remap := put identMap st1.remap g (get identMap st1.remap g ||| 0x8000) } else st1

/-- Pin every 64 KiB page of a leaf with PIN = 1 (R187, R189). -/
def State.pinLeaf (s : State) (l : Leaf) : State :=
  match siteOf l.base with
  | none => s
  | some i =>
    if !l.pin then s
    else
      let first := l.base % 2 ^ 38 / 65536
      s.setSite i (each (fun j st => if first + j < 3932160 then st.pin (first + j) else st) (List.range (l.size / 65536)) (s.site i))

/-! ### XLT (R208) -/

/-- Handle of a TLB entry. -/
def TlbEntry.handle (e : TlbEntry) : Handle :=
  { v := true, base := e.base, size := e.size, block := false, r := e.r, w := e.w, host := isHost e.base, site := siteField e.base,
    entry := some (e.idx, e.gen), name := none, asc := e.asc, va := e.va }

/-- XLT with its TLB entry: the checks of R208, then the handle and the page offset. -/
def xltEntry (s : State) (k : Task) (hd : BitVec 5) (b : Reg) (va : Nat) (e : TlbEntry) : State :=
  if s.handingAt e.base then s
  else if s.foreign k.die e.base then s.slip 0x0C k.pc (BitVec.ofNat 64 va)
  else if reservedPage e.base e.size || (isDevReg e.base && !k.fw) then s.slip 0x0A k.pc 0
  else
    let co := s.core k.coreKey
    (s.setCore k.coreKey (co.used e)).now (((k.wh hd e.handle).wx b (BitVec.ofNat 64 (va % e.size))).adv 4)

/-- XLT: from the TLB, or after a walk, which it starts and waits for (R190, R207). -/
def execXlt (hd : BitVec 5) (a b : Reg) (s : State) : Out :=
  onSlice s [a, b] fun k =>
    let va := (k.rx a).toNat
    if 2 ^ 52 ≤ va then s.slip 0x0B k.pc 0
    else
      match (s.core k.coreKey).lookup (s.ascOf k) va with
      | some e => xltEntry s k hd b va e
      | none => s.now { k with walk := some va }

/-- The walk that the task waits for finishes: its reads have arrived, and the TLB is filled or the XLT faults (R182, R186, R189, R190).
A task that is draining or out does not fault: its XLT is tried again when it resumes (R349, R357). -/
def execTranslationWalkComplete (s : State) : Out :=
  match find s.tasks s.cur with
  | none => .next s
  | some k =>
    match k.walk with
    | none => .next s
    | some va =>
      let s1 := (s.walked (s.ascOf k) va).now { k with walk := none }
      match s.walk (s.ascOf k) va with
      | .waits => .next s
      | .absent => .next (if k.phase == .running then s1.slip 0x0B k.pc 0 else s1)
      | .poisoned => .next (if k.phase == .running then s1.slip 0x40 k.pc 0 else s1)
      | .leaf l => .next ((s1.fillTlb k.coreKey (s.ascOf k) va l).pinLeaf l)

/-! ### XLTN, HREL, HCHK (R209, R210) -/

/-- Handle of the block of n bytes that a name stands for. -/
def blockHandle (asc nm n : Nat) : Handle :=
  { v := true, base := nameAddr nm, size := n, block := true, r := true, w := true, host := false, site := nameSite nm,
    entry := none, name := some nm, asc := asc, va := 0 }

def execXltn (hd : BitVec 5) (a : Reg) (s : State) : Out :=
  onSlice s [a] fun k =>
    let nm := (k.rx a).toNat
    if s.handing (nameSite nm) then s
    else
      match s.blockOf (s.ascOf k) nm with
      | none => s.slip 0x0D k.pc (k.rx a)
      | some n =>
        if (s.site (nameSite nm)).owner ≠ k.die then s.slip 0x0C k.pc (k.rx a)
        else s.now ((k.wh hd (blockHandle (s.ascOf k) nm n)).adv 4)

def execHrel (hd : BitVec 5) (s : State) : Out :=
  onSlice s [] fun k => s.now ((k.wh hd { k.rh hd with v := false }).adv 4)

/-- SizeCode of R210. -/
def sizeCode (h : Handle) : Nat :=
  if h.block then (if h.size = 4096 then 3 else if h.size = 16384 then 4 else 5)
  else if h.size = 2 ^ 30 then 2 else if h.size = 2 ^ 21 then 1 else 0

/-- What HCHK reports (R210). -/
def hchkOf (h : Handle) (b : W64) : W64 :=
  if !h.v then 0
  else BitVec.ofNat 64 (1 + h.r.toNat * 2 ^ 3 + h.w.toNat * 2 ^ 4 + sizeCode h * 2 ^ 5 + (if h.host then 0 else h.site) * 2 ^ 8 +
    (if 0 ≤ b.toInt ∧ b.toInt < (h.size : Int) then 2 ^ 11 else 0) + h.host.toNat * 2 ^ 12)

def execHchk (d : Reg) (ha : BitVec 5) (b : Reg) (s : State) : Out :=
  compute s 4 d [b] fun k => hchkOf (k.rh ha) (k.rx b)

/-! ### NREL and the return of blocks (R211) -/

def execNrel (a : Reg) (s : State) : Out :=
  onSlice s [a] fun k =>
    match s.blockOf (s.ascOf k) (k.rx a).toNat with
    | none => s.slip 0x0D k.pc (k.rx a)
    | some n => (s.now (k.adv 4)).relinquish (k.rx a).toNat n

/-- No access of a task to the n bytes at a is left, and no command that captured the name (R211). -/
def State.quiet (s : State) (a n : Nat) (nm : Nat) : Bool :=
  (s.tasks.all fun p => !p.2.touching a n) && !s.lateIn a n && s.ce.cmds.all fun c => c.2.state == .ended || !c.2.names.contains nm

/-- The units of a relinquished block become free and the quota returns, after a hand-over of its site (R197, R211). -/
def execNameBlockFree (site chan index : Nat) (s : State) : Out :=
  let st := s.site site
  let u := get AUnit.none st.arena (unitKey chan index)
  let old := mkName site chan index ((u.gen + 255) % 256)
  if !u.leaving || s.handing site || !s.quiet (arenaAddr site chan index) u.size old then .next s
  else
    let n := u.size / 4096
    let l := mapUnits (fun v => { v with free := true, size := 0, asc := 0, leaving := false }) chan index n st.arena
    .next (s.setSite site { st with arena := l, used := put 0 st.used u.asc (get 0 st.used u.asc - n) })

/-- The oldest name not pushed reaches the NRQ once its block's writes have been performed (R159, R202). -/
def execNamePush (t : Nat) (hs : Bool) (s : State) : Out :=
  match find s.tasks t with
  | none => .next s
  | some k =>
    let qs := k.set hs
    match qs.names with
    | [] => .next s
    | x :: r =>
      if k.stqOut.any fun a => match a with | .write _ _ w _ => w == x.wid | _ => false then .next s
      else .next ((s.setTask t (k.withSet hs { qs with names := r, nrq := qs.nrq ++ [x.name] })).afterTend t)

/-! ### SHAND (R196, R212) -/

/-- Die of a package semaphore file (R115). -/
def fileDie (f : Nat) : Nat := f / 256 % 2

/-- Die d is under warm reset (R394). -/
def State.underReset (s : State) (d : Nat) : Bool := if d = 0 then s.hif.reset0 else s.hif.reset1

/-- The hand-over of site i begins: revocation of the site on the die that owns it (R193, R196). -/
def State.beginHandOver (s : State) (i : Nat) (h : HandOver) : State :=
  let st := s.site i
  let s1 := s.setSite i { st with hstate := .revoking, hand := some h }
  (s1.revoke fun x => siteOf x.base == some i).dropTlb fun c e => c / 96 == st.owner && siteOf e.base == some i

def execShand (a b : Reg) (s : State) : Out :=
  onSlice s [a, b] fun k =>
    let i := (k.rx a).toNat
    let v := (k.rx b).toNat
    let file := (s.packet k.packet).file
    if 7 < i ∨ 2 ^ 20 ≤ v then s.slip 0x03 k.pc 0
    else if !(s.site i).rights.contains (s.ascOf k) then s.slip 0x04 k.pc 0
    else if s.handing i || (s.site i).owner != k.die then s.slip 0x0C k.pc 0
    else if s.underReset (fileDie file) then s.slip 0x29 k.pc 0
    else if !performed k.slice then s
    else
      (s.now (k.adv 4)).beginHandOver i
        { file := file, counter := v % 256, delta := (BitVec.ofNat 12 (v / 256)).toInt }

end Sys2Proof.Machine
end

