-- ==== Sys2Proof/Machine/Packets.lean ====
section
/-! DEFINITION. Launch records and kernel headers (04_describing_work.md R87 to R105), the order of a queue (05_launching.md
R120, R121), the end of a packet, and its removal. -/

namespace Sys2Proof.Machine

/-! ### Fields of a launch record (R89 to R95, R100) -/

def Packet.gen (p : Packet) : Nat := p.field 55 48
def Packet.tag (p : Packet) : Nat := p.field 39 16
def Packet.kernel (p : Packet) : Nat := p.field 15 10
def Packet.intr (p : Packet) : Bool := p.field 7 7 == 1
def Packet.strict (p : Packet) : Bool := p.field 6 6 == 1
def Packet.barrier (p : Packet) : Bool := p.field 4 4 == 1 && !p.poisoned
def Packet.table (p : Packet) : Bool := p.field 3 0 == 1
def Packet.bound (p : Packet) : Nat := p.field 351 320
def Packet.part (p : Packet) : Nat := p.field 354 352
def Packet.gx (p : Packet) : Nat := p.field 357 356
def Packet.gy (p : Packet) : Nat := p.field 359 358
def Packet.shape (p : Packet) : Nat := p.field 361 360
def Packet.vector (p : Packet) : Nat := p.field 308 298
def Packet.reloc (p : Packet) (n : Nat) : Nat := p.field (447 + 64 * n) (384 + 64 * n)
def Packet.base (p : Packet) : Nat := p.field 115 64
def Packet.ecount (p : Packet) : Nat := p.field 175 160

/-- Slots of a partition (R95). -/
def partSlots (code : Nat) : Nat := 4 * 2 ^ code

/-- A loop level (R91). -/
structure Level where
  rank : Nat
  mark : Nat
  step : Nat
  extent : Nat
  deriving DecidableEq, Repr

def Packet.level (p : Packet) (n : Nat) : Level :=
  let w := p.field (95 + 32 * n) (64 + 32 * n)
  { rank := bits w 31 30, mark := bits w 29 28, step := bits w 27 16, extent := bits w 15 0 }

def Packet.levels (p : Packet) : List Level := [p.level 0, p.level 1, p.level 2, p.level 3]

/-- A spatial level: marked C or D. -/
def Level.spatial (l : Level) : Bool := decide (2 ≤ l.mark)

/-- Product of a list. -/
def prodNat : List Nat → Nat
  | [] => 1
  | a :: r => a * prodNat r

/-- Ticket count (R92, R100). -/
def Packet.tickets (p : Packet) : Nat :=
  if p.table then p.rcount
  else if p.levels.any fun l => l.mark != 0 && l.extent == 0 then 0
  else prodNat ((p.levels.filter Level.spatial).map Level.extent)

/-- An entry with V = 0 has another bit set. -/
def entryBad (e : Nat) : Bool := bits e 20 20 == 0 && bits e 19 0 != 0

/-- Signals of a packet: counter and delta. -/
def Packet.signals (p : Packet) : List (Nat × Int) :=
  (entries21 (p.field 319 256) 2).map fun e => (e.2, (BitVec.ofNat 12 e.1).toInt)

/-! ### Checks at header decode (R92 to R96, R100, R105) -/

def levelsBad (p : Packet) : Bool :=
  let l := p.levels
  let sp := l.filter Level.spatial
  let ranks := sp.map Level.rank
  (l.any fun v => v.mark == 0 && (v.extent != 0 || v.step != 0 || v.rank != 0)) || (l.any fun v => v.mark == 1 && v.rank != 0) ||
    decide (1 < (l.filter fun v => v.mark == 3).length) || (l.any fun v => v.mark == 3 && v.rank != 0) ||
    (ranks.any fun r => decide (sp.length ≤ r)) || decide (ranks.eraseDups.length < ranks.length) || decide (2 ^ 24 < p.tickets)

/-- The gang levels of a CLUSTER record (R105): both are C levels, in either shape; distinct in shape 1. -/
def gangBad (p : Packet) : Bool :=
  let x := p.level p.gx
  let y := p.level p.gy
  x.mark != 2 || y.mark != 2 ||
    if p.shape = 0 then x.extent % 4 != 0 else p.gx == p.gy || x.extent % 2 != 0 || y.extent % 2 != 0

def tableBad (p : Packet) : Bool :=
  p.field 191 176 != 0 || decide (p.ecount < 1) || decide (4096 < p.ecount) || decide (2 ^ 24 < p.rcount) || p.field 127 116 != 0 ||
    p.base % 16 != 0 || p.cluster

/-- The record fails stage 1 of R96. -/
def headBad (p : Packet) : Bool :=
  decide (1 < p.field 3 0) || p.field 63 56 != 0 || p.field 255 255 != 0 ||
    [0, 1, 2].any (fun k => entryBad (p.field (212 + 21 * k) (192 + 21 * k))) || p.field 319 309 != 0 ||
    [0, 1].any (fun k => entryBad (p.field (276 + 21 * k) (256 + 21 * k))) || (p.vector != 0 && !p.intr) ||
    p.field 383 362 != 0 || p.field 355 355 != 0 || decide (4 < p.part) || (!p.cluster && p.field 361 356 != 0) ||
    (if p.table then tableBad p else levelsBad p || (p.cluster && (decide (1 < p.shape) || gangBad p)))

/-! ### Kernel headers (R87, R88) -/

/-- Entry k of the kernel table at the start of slot n's image, as memory stands. -/
def State.tableEntry (s : State) (n k : Nat) : Nat := s.word ((s.rslot n).image.headD 0 + 32 * k) 32

/-- Kernel-table entry k of slot n, as the load read and checked it: a task never starts from a malformed header (R88). What becomes of the
table in memory after the load, poison too, changes none of it (DEDUCED, log 49). -/
def State.kernelEntry (s : State) (n k : Nat) : Nat := (((s.rslot n).kernels[k]?).getD 0).toNat

def kEntry (w : Nat) : Nat := bits w 31 0
def kDepth (w q : Nat) : Nat := bits w (39 + 8 * q) (32 + 8 * q) + 1
def kMinpart (w : Nat) : Nat := bits w 58 56
def kStrict (w : Nat) : Bool := bits w 59 59 == 1
def kGang (w : Nat) : Bool := bits w 60 60 == 1
def kRkind (w n : Nat) : Nat := bits w (65 + 2 * n) (64 + 2 * n)

/-- A used entry that fails the load (R88). -/
def kernelBad (w ilen : Nat) : Bool :=
  bits w 255 80 != 0 || bits w 63 61 != 0 || ((List.range 8).any fun n => kRkind w n == 3) || decide (4 < kMinpart w) ||
    kEntry w % 8 != 0 || decide (kEntry w < 2048) || decide (ilen ≤ kEntry w)

/-- The record fails stage 2 of R96. -/
def State.postBad (s : State) (p : Packet) : Bool :=
  let w := s.kernelEntry p.slot p.kernel
  w == 0 || decide (p.part < kMinpart w) || (kGang w && !p.cluster) ||
    (List.range 8).any fun n =>
      (kRkind w n == 1 && decide (2 ^ 52 ≤ p.reloc n)) || (kRkind w n == 2 && decide (2 ^ 48 ≤ p.reloc n))

/-- Strict-count mode of a packet (R104). -/
def State.strictOf (s : State) (p : Packet) : Bool := p.strict || kStrict (s.kernelEntry p.slot p.kernel)

/-! ### Order of a queue (R120, R121, R131) -/

/-- The packet has completed. -/
def Packet.completed (p : Packet) : Bool :=
  match p.phase with
  | .completing | .body | .header | .signalled => true
  | _ => false

/-- Two packets belong to one queue, or are children of one launching task. -/
def sameQueue (a b : Packet) : Bool := a.child == b.child && (if a.child then a.parent == b.parent else a.queue == b.queue)

/-- Packets before p in its queue. -/
def State.earlier (s : State) (p : Packet) : List Packet :=
  (s.lfe.packets.map fun e => e.2).filter fun v => sameQueue v p && decide (v.qidx < p.qidx)

/-- Packet v lets the next of its queue become the head (R120, R131). -/
def Packet.passedOn (v : Packet) : Bool :=
  v.completed || (v.phase == .dispatched && (v.tickets == 0 || v.firstPulled))

/-- Packet p may be the head, by the dispatch of earlier packets and the barriers among them (R120, R121, R126). -/
def State.mayHead (s : State) (p : Packet) : Bool :=
  (s.earlier p).all fun v =>
    v.passedOn && (!v.barrier || (v.completed && (s.earlier v).all Packet.completed))

/-! ### The end of a packet -/

/-- Every record of the queue before packet p has been read, or passed. -/
def State.allRead (s : State) (p : Packet) : Bool :=
  p.child || (List.range (p.qidx - (s.queue p.queue).readIdx)).all fun i =>
    (s.queue p.queue).skips.contains ((s.queue p.queue).readIdx + i)

/-- Completed packets that no later rule looks at leave: a barrier stays while an earlier packet runs, or has not been read (R121,
R126). -/
def State.prune (s : State) : State :=
  { s with lfe := { s.lfe with packets := s.lfe.packets.filter fun e =>
      !(e.2.done && (!e.2.barrier || (s.allRead e.2 && (s.earlier e.2).all Packet.completed))) } }

/-- The read that r makes next is over, or is not made. -/
def State.readDone (s : State) (r : LfeRead) : State := { s with lfe := { s.lfe with early := s.lfe.early.filter fun e => e.1 != r } }

/-- The indices of queue q start again: packets of it that are over leave, and order nothing any more; what was read of its next record is
lost (R394). -/
def State.forget (s0 : State) (q : Nat) : State :=
  let s := s0.readDone (.record q)
  { s with lfe := { s.lfe with packets := (s.lfe.packets.filter fun e => !(e.2.done && !e.2.child && e.2.queue == q)).map fun e =>
      (e.1, if !e.2.child && e.2.queue == q then { e.2 with qidx := 0 } else e.2) } }

end Sys2Proof.Machine
end

