-- ==== Sys2Proof/Machine/Builder.lean ====
section
/-! DEFINITION. The command builder, CEGO, CEPOP, markers and fences (12_copy_engines.md R293 to R296, R323 to R327;
13_ordering.md R345), and the semaphore instructions (05_launching.md R133). -/

namespace Sys2Proof.Machine

/-! ### CBW and CBCLR (R323) -/

def execCbw (d a : Reg) (s : State) : Out :=
  onDecode s [a] (operand (decide (15 < d.toNat))) fun k => s.now ((k.wcb d (k.rx a)).adv 4)

def execCbclr (s : State) : Out := onSlice s [] fun k => s.now ({ k with cb := [] }.adv 4)

/-! ### Checks of a command at CEGO (R296) -/

/-- Doubleword n of a command. -/
def dwOf (l : List W64) (n : Nat) : Nat := ((l[n]?).getD 0).toNat

def kindOf (l : List W64) : Nat := bits (dwOf l 0) 3 0
def rsubOf (l : List W64) : Nat := bits (dwOf l 0) 7 4

/-- Doublewords lo to hi are zero. -/
def zeroDws (l : List W64) (lo hi : Nat) : Bool := (List.range (hi + 1 - lo)).all fun i => dwOf l (lo + i) == 0

/-- A reference of form 0 or 1 that keeps R295. -/
def refOk (form v : Nat) : Bool := form == 1 || (form == 0 && decide (v < 2 ^ 52))

/-- OP, TYPE and STYPE combine (R302). -/
def accwOk (op ty sty : Nat) : Bool :=
  if op = 0 then [0, 1, 9, 10].contains ty && (sty == ty || (ty == 0 && sty == 1))
  else if op ≤ 2 then [0, 1, 9, 10, 13, 14].contains ty && sty == ty
  else decide (op ≤ 5) && [9, 10, 13, 14].contains ty && sty == ty

/-- Body of COPY or ACCW, the destination form aside (R300, R302). -/
def walkOk (l : List W64) (accw : Bool) : Bool :=
  let c := dwOf l 5
  let es := bits c 6 4
  if accw then
    bits c 63 25 == 0 && es == 0 && decide (bits c 24 23 ≤ 1) && decide (bits c 22 20 ≤ 4) &&
      accwOk (bits c 11 8) (bits c 15 12) (bits c 19 16)
  else bits c 63 8 == 0 && decide (es ≤ 4)

/-- The body of a command keeps the checks that CEGO makes, by kind (R300 to R314). -/
def bodyOk (l : List W64) : Bool :=
  let d := dwOf l
  let sf := bits (d 5) 1 0
  let df := bits (d 5) 3 2
  match kindOf l with
  | 0 => walkOk l false && refOk sf (d 3) && refOk df (d 4) && zeroDws l 10 15
  | 1 => walkOk l true && refOk sf (d 3) && refOk df (d 4) && zeroDws l 10 15
  | 2 => bits (d 5) 31 24 == 0 && bits (d 5) 6 6 == 0 && refOk sf (d 3) && refOk df (d 4) && refOk (bits (d 5) 5 4) (d 6) &&
      bits (d 7) 63 24 == 0 && zeroDws l 9 15
  | 3 => bits (d 5) 31 8 == 0 && decide (bits (d 5) 7 4 ≤ 1) && refOk sf (d 3) && refOk df (d 4) && zeroDws l 7 15
  | 4 => d 4 == 0 && bits (d 5) 63 2 == 0 && refOk sf (d 3) && zeroDws l 7 15
  | 5 => bits (d 5) 63 8 == 0 && decide (bits (d 5) 6 4 ≤ 3) && sf == 0 && refOk df (d 4) && d 7 == 0 && bits (d 8) 31 0 == 0 &&
      zeroDws l 10 15
  | 6 => zeroDws l 3 15
  | 7 => bits (d 8) 31 19 == 0 && decide (bits (d 8) 15 14 ≤ 2) && decide (bits (d 8) 13 10 ≤ 1) &&
      ([0, 1, 2, 3, 4].all fun i => refOk (bits (d 8) (2 * i + 1) (2 * i)) (d (3 + i))) && bits (d 9) 47 45 == 0 &&
      bits (d 9) 31 17 == 0 && zeroDws l 10 15
  | 8 =>
    bits (d 10) 51 41 == 0 && bits (d 10) 31 21 == 0 && !entryBad (bits (d 10) 20 0) && zeroDws l 11 15 &&
      (match rsubOf l with
       | 0 => walkOk l false && refOk sf (d 3) && df == 2
       | 1 => walkOk l true && refOk sf (d 3) && df == 2
       | _ => zeroDws l 3 9)
  | _ => false

/-- A command passes the checks that CEGO makes (R293 to R296). -/
def cmdOk (l : List W64) : Bool :=
  let h := dwOf l 0
  bits h 11 9 == 0 && decide (kindOf l ≤ 8) && (if kindOf l = 8 then decide (rsubOf l ≤ 2) else rsubOf l == 0) &&
    bits (dwOf l 1) 63 42 == 0 && !entryBad (bits (dwOf l 1) 20 0) && !entryBad (bits (dwOf l 1) 41 21) && dwOf l 2 == 0 && bodyOk l

/-! ### CEGO (R290, R324, R325) -/

/-- NR of a command: it returns no entry. -/
def Cmd.nr (c : Cmd) : Bool := bits (dwOf c.dw 0) 8 8 == 1

/-- Commands of task t on engine e whose entry has not been pushed, or that have not ended (R290). -/
def State.streamOf (s : State) (t e : Nat) : List Cmd :=
  (s.ce.cmds.map fun c => c.2).filter fun c => c.task == t && c.engine == e

/-- Commands in the input FIFO of an engine (R289). -/
def State.fifoLen (s : State) (die e : Nat) : Nat :=
  (s.ce.cmds.filter fun c => c.2.die == die && c.2.engine == e && c.2.state == .queued).length

def Task.resultsOf (k : Task) (e : Nat) : List ResEntry := get [] k.results e

/-- CEGO with its command l and its length in the wait order of R325. -/
def cego (s : State) (k : Task) (d : Reg) (e : Nat) (l : List W64) : State :=
  let t := s.cur
  let returning := bits (dwOf l 0) 8 8 == 0
  let rets := (s.streamOf t e).filter fun c => !c.nr
  if !cmdOk l then s.slip 0x03 k.pc 0
  else if 64 ≤ s.fifoLen k.die e then s
  else if returning && decide (8 ≤ rets.length + (k.resultsOf e).length) then
    if rets.all fun c => c.state == .ended then s.slip 0x1C k.pc 0 else s
  else if !k.released (BitVec.ofNat 16 (bits (dwOf l 0) 63 48)) then s
  else
    let seq := get 0 k.seq e
    let p := s.packet k.packet
    let c : Cmd := { Cmd.empty with
      die := k.die, engine := e, task := t, who := whoOf k, packet := k.packet, func := p.func, asc := p.asc, file := p.file, seq := seq,
      dw := l, progress := if kindOf l = 3 then 0 else bits (dwOf l 0) 47 16, start := s.time }
    let s1 := s.setCmd s.ce.nextCmd c
    let s2 := { s1 with ce := { s1.ce with nextCmd := s1.ce.nextCmd + 1 } }
    (s2.setPacket k.packet { p with commands := p.commands + 1 }).now
      ({ k with seq := put 0 k.seq e ((seq + 1) % 2 ^ 32) }.wx d (BitVec.ofNat 64 seq) |>.adv 4)

def execCego (d : Reg) (e : BitVec 4) (s : State) : Out :=
  onSlice s [d] fun k => cego s k d e.toNat ((List.range 16).map k.rcb)

/-- Physical address of a byte of the templates of a slot. -/
def State.templateAt (s : State) (slot o : Nat) : Option Nat := ((s.rslot slot).tmpl)[o / 65536]?.map fun f => f + o % 65536

/-- Doubleword n of the template at byte offset off of a slot, and whether it is poisoned. -/
def State.template (s : State) (slot off n : Nat) : W64 × Bool :=
  match s.templateAt slot (off + 8 * n) with
  | none => (0, false)
  | some a => (BitVec.ofNat 64 (s.word a 8), s.badIn a 8)

/-- The template is read once its page is not held (R185, R206). -/
def execCegoT (d a : Reg) (e : BitVec 4) (s : State) : Out :=
  onSlice s [d, a] fun k =>
    let v := (k.rx a).toNat
    let off := v % 2 ^ 32
    let slot := s.slotOf k
    if 2 ^ 48 ≤ v ∨ off % 128 ≠ 0 ∨ (s.rslot slot).tmplLen < off + 128 then s.slip 0x03 k.pc 0
    else if (s.templateAt slot off).any s.heldAt then s
    else if (List.range 16).any fun n => (s.template slot off n).2 then s.slip 0x40 k.pc 0
    else
      cego (s.arriveAll (s.templateAt slot off).toList) k d e.toNat ((List.range 16).map fun n => if v / 2 ^ (32 + n) % 2 = 1 then k.rcb n else (s.template slot off n).1)

/-! ### CEPOP (R326) -/

def execCepop (d : Reg) (e : BitVec 4) (s : State) : Out :=
  onSlice s [d] fun k =>
    match k.resultsOf e.toNat with
    | r :: l => s.now (({ k with results := put [] k.results e.toNat l }.wx d r.word).adv 4)
    | [] => if (s.streamOf s.cur e.toNat).any fun c => !c.nr then s else s.slip 0x1C k.pc 0

/-! ### FENCE.M and JOIN (R327, R351) -/

/-- Every entry of queue q of a set routed before position p has completed, and its stores have been performed. -/
def Task.queueClear (k : Task) (hs : Bool) (q p : Nat) : Bool :=
  let rq := (k.set hs).rq q
  (rq.entries.all fun e => decide (p ≤ e.pos)) && (rq.issued.all fun i => decide (p ≤ i.entry.pos)) &&
    (q != 2 || k.stqOut.all fun a => match a with | .write _ _ _ n => decide (p ≤ n) | _ => true)

/-- Sequence number a comes before b, of numbers modulo 2^32 of one stream that are less than 2^31 apart (R290). -/
def seqBefore (a b : Nat) : Bool :=
  let d := (b + 2 ^ 32 - a) % 2 ^ 32
  decide (0 < d) && decide (d < 2 ^ 31)

/-- A marker group is complete. -/
def State.markerDone (s : State) (t : Nat) (k : Task) (m : Marker) : Bool :=
  (m.queues.all fun x => k.queueClear m.hs x.1 x.2) &&
    m.engines.all fun x => (s.streamOf t x.1).all fun c => c.state == .ended || !seqBefore c.seq x.2

/-- Markers not complete. -/
def State.markersLeft (s : State) (t : Nat) (k : Task) : List Marker := k.markers.filter fun m => !s.markerDone t k m

def execFenceM (queues : BitVec 3) (engines : W16) (s : State) : Out :=
  onDecode s [] (operand (queues == 0 && engines == 0)) fun k =>
    let left := s.markersLeft s.cur k
    if 8 ≤ left.length then s
    else
      let m : Marker :=
        { queues := ([0, 1, 2].filter fun q => queues.getLsbD q).map fun q => (q, k.routed),
          engines := ((List.range 16).filter fun e => engines.getLsbD e).map fun e => (e, get 0 k.seq e), hs := k.inTrap }
      s.now ({ k with markers := left ++ [m] }.adv 8)

/-- JOIN: in a handler only the handler's own markers count (R351). -/
def execJoin (s : State) : Out :=
  onSlice s [] fun k =>
    let left := s.markersLeft s.cur k
    if left.any fun m => m.hs || !k.inTrap then s else s.now ({ k with markers := left }.adv 4)

/-! ### FENCE.C (R345) -/

/-- Fence points of a queue that have not been passed. -/
def Task.fencesLeft (k : Task) (hs : Bool) (q : Nat) : List (Nat × W16) :=
  ((k.set hs).rq q).fences.filter fun f =>
    (((k.set hs).rq q).entries.any fun e => decide (e.pos < f.1)) || !k.queueClear hs q f.1

def QSet.withFence (qs : QSet) (q : Nat) (l : List (Nat × W16)) : QSet := qs.setRq q { qs.rq q with fences := l }

/-- FENCE.C: one point in each stream of the context. Every scope acts as package scope (log 13). -/
def execFenceC (scope : BitVec 3) (mask : W16) (s : State) : Out :=
  onDecode s [] (operand (decide (4 < scope.toNat) || mask == 0)) fun k =>
    let sl := dropFences k.slice
    let hs := k.inTrap
    let f (q : Nat) := k.fencesLeft hs q
    if 16 ≤ (sl.filter Access.isFence).length ∨ [0, 1, 2].any fun q => decide (16 ≤ (f q).length) then s
    else
      let g (q : Nat) := f q ++ [(k.routed, mask)]
      let qs := (((k.set hs).withFence 0 (g 0)).withFence 1 (g 1)).withFence 2 (g 2)
      let sl1 := if performed sl then sl else sl ++ [.fence scope.toNat mask]
      s.now (({ k with slice := sl1 }.withSet hs qs).adv 8)

/-! ### SEMW, SEMS, SEMRD (R133) -/

/-- The task's semaphore file (R115). -/
def State.fileOf (s : State) (k : Task) : Nat := (s.packet k.packet).file

def execSemw (d a : Reg) (n : BitVec 8) (s : State) : Out :=
  onSlice s [d, a] fun k =>
    let file := s.fileOf k
    let t := (k.rx a).toInt
    let c := (s.sem file n.toNat).toInt
    if t < 0 ∨ 2 ^ 31 - 1 < t then s.slip 0x03 k.pc 0
    else if s.underReset (fileDie file) then s.slip 0x29 k.pc 0
    else if c < 0 then s.slip 0x48 k.pc (BitVec.ofNat 64 n.toNat)
    else if c ≤ t then s.now ((k.wx d (BitVec.ofInt 64 c)).adv 4)
    else s

/-- SEMS waits for its release: every earlier access of the slice stream (R335). -/
def execSems (d a : Reg) (n : BitVec 8) (s : State) : Out :=
  onSlice s [d, a] fun k =>
    let file := s.fileOf k
    let x := (k.rx a).toInt
    if x < -2 ^ 31 ∨ 2 ^ 31 - 1 < x then s.slip 0x03 k.pc 0
    else if s.underReset (fileDie file) then s.slip 0x29 k.pc 0
    else if !performed k.slice then s
    else (s.signal file n.toNat x (some k)).now ((k.wx d (BitVec.ofInt 64 (s.sem file n.toNat).toInt)).adv 4)

def execSemrd (d : Reg) (n : BitVec 8) (s : State) : Out :=
  onSlice s [d] fun k =>
    let file := s.fileOf k
    if s.underReset (fileDie file) then s.slip 0x29 k.pc 0
    else s.now ((k.wx d (BitVec.ofInt 64 (s.sem file n.toNat).toInt)).adv 4)

end Sys2Proof.Machine
end

