-- ==== Sys2Proof/Machine/Launching.lean ====
section
/-! DEFINITION. From a record to dispatch: LAUNCH and the child pool (05_launching.md R129 to R135), the reading of records
(R111, R418), the head of a queue (R117 to R121), the selection of R145, dispatch (R117, R122, R137) and the topology walker
(04_describing_work.md R100 to R103). -/

namespace Sys2Proof.Machine

/-! ### Packets by where they stand -/

/-- In the front end or the pool: read, not dispatched, not completed. -/
def Packet.undispatched (p : Packet) : Bool :=
  match p.phase with
  | .held | .waiting | .passed | .ready => true
  | _ => false

/-- Packets that satisfy f, with their numbers. -/
def State.packetsWith (s : State) (f : Packet → Bool) : List (Nat × Packet) := s.lfe.packets.filter fun e => f e.2

/-- Occupancy of the child pool of die d (R129). -/
def State.poolOcc (s : State) (d : Nat) : Nat := (s.packetsWith fun p => p.child && p.home == d && p.undispatched).length

def State.pool (s : State) (d : Nat) : Pool := if d = 0 then s.lfe.pool0 else s.lfe.pool1

def State.setPool (s : State) (d : Nat) (v : Pool) : State :=
  if d = 0 then { s with lfe := { s.lfe with pool0 := v } } else { s with lfe := { s.lfe with pool1 := v } }

/-- A new packet. -/
def State.addPacket (s : State) (p : Packet) : State :=
  let s1 := s.setPacket s.lfe.nextPacket p
  { s1 with lfe := { s1.lfe with nextPacket := s1.lfe.nextPacket + 1 } }

/-- Package storm (R383). -/
def State.storm (s : State) : Bool := s.hif.health == .storm

/-! ### LAUNCH and the child pool (R129 to R135) -/

/-- Value of a list of doublewords, the first the least significant. -/
def valOf : List W64 → Nat
  | [] => 0
  | w :: r => w.toNat + 2 ^ 64 * valOf r

/-- The 128 bytes of a record, the first at the lowest address. -/
def recordBytes (r : BitVec 1024) : List Byte := (List.range 128).map fun i => BitVec.ofNat 8 (r.toNat / 2 ^ (8 * i))

/-- Address of a slot of the spill ring of a pool. -/
def Pool.slotAddr (p : Pool) (i : Nat) : Nat := p.spill + 128 * (i % 2 ^ p.slog)

/-- The child of task t with the record of its command builder (R97, R132, R135). -/
def State.childOf (s : State) (t : Nat) (k : Task) : Packet :=
  let par := s.packet k.packet
  let r : BitVec 1024 := BitVec.ofNat 1024 (valOf ((List.range 16).map k.rcb))
  { Packet.empty with
    record := r, child := true, queue := par.queue, qidx := (s.pool k.die).seq, parent := t, home := k.die, func := par.func,
    asc := par.asc, file := par.file, prio := min (bits r.toNat 9 8) par.prio }

/-- The child is placed in the pool, in a reserve entry of it if rsv. -/
def State.placePool (s : State) (t : Nat) (k : Task) (rsv : Bool) : State :=
  let pl := s.pool k.die
  (s.setPool k.die { pl with seq := pl.seq + 1 }).addPacket { s.childOf t k with reserve := rsv }

/-- The child is placed in the spill ring; where its slot is held, the write waits at the base die (R185, R206). -/
def State.placeSpill (s : State) (t : Nat) (k : Task) : State :=
  let pl := s.pool k.die
  let c := s.childOf t k
  let s1 := s.setPool k.die { pl with seq := pl.seq + 1, spillTail := pl.spillTail + 1, ring := pl.ring ++ [s.lfe.nextPacket] }
  ((s1.addPacket { c with phase := .spilled }).performLate 0 (cellsAt (pl.slotAddr pl.spillTail) (recordBytes c.record))).arrive
    (pl.slotAddr pl.spillTail)

/-- The child of task t is placed by the first row of R130 that applies, and the task goes on; none where LAUNCH waits. -/
def State.place1 (s : State) (t : Nat) (k : Task) : Option State :=
  let pl := s.pool k.die
  let occ := s.poolOcc k.die
  let rsv := s.packetsWith fun p => p.child && p.parent == t && p.reserve && p.undispatched
  if decide (occ < pl.hwm) && pl.ring.isEmpty then some ((s.placePool t k false).setTask t (k.adv 4))
  else if pl.sen && decide (pl.ring.length < 2 ^ pl.slog) then some ((s.placeSpill t k).setTask t (k.adv 4))
  else if occ < 3584 then some ((s.placePool t k false).setTask t (k.adv 4))
  else if rsv.isEmpty && decide (occ < 4096) then some ((s.placePool t k true).setTask t (k.adv 4))
  else none

/-- LAUNCHes that wait at die d are tried again, in the order in which they reached the LFE (R130). One whose task no longer stands at it
is gone; so is one with stores of its slice to be performed, which a handler has issued meanwhile: it reaches the LFE again once they are
(R335). -/
def State.retryLaunches (s : State) (d : Nat) : State :=
  each (fun (w : Nat × Nat) s =>
    let drop := s.setPool d { s.pool d with waiting := (s.pool d).waiting.filter fun x => x != w }
    match find s.tasks w.1 with
    | none => drop
    | some k =>
      if k.pc ≠ w.2 ∨ !performed k.slice then drop
      else if k.phase != .running then s
      else (drop.place1 w.1 k).getD s) (s.pool d).waiting s

/-- LAUNCH: placed at once, or it waits in its place in the order (R130). It takes its issue slot as it reaches the LFE, and none when a
retry places it (R149). One that a trap interrupts keeps its place, unless a retry has found its task elsewhere meanwhile: R130 does not
say (DESIGN CHOICE, log 49). -/
def execLaunch (s : State) : Out :=
  onSlice s [] fun k =>
    let pl := s.pool k.die
    if !performed k.slice || pl.waiting.contains (s.cur, k.pc) then s
    else (s.place1 s.cur k).getD ((s.setPool k.die { pl with waiting := pl.waiting ++ [(s.cur, k.pc)] }).now { k with waitQ := none })

/-- The oldest spill entry moves into the pool, read back from the ring, and LAUNCHes that wait are tried again (R130, R418). A
withdrawn child keeps its slot of the ring until it is the oldest (DESIGN CHOICE, log 49). -/
def execChildPoolRefill (die : Nat) (s : State) : Out :=
  let pl := s.pool die
  match pl.ring with
  | [] => .next s
  | id :: r =>
    let a := pl.slotAddr pl.spillHead
    if 3584 ≤ s.poolOcc die ∨ s.held a 128 ∨ s.lateIn a 128 then .next s
    else
      let s1 := (s.setPool die { pl with ring := r, spillHead := pl.spillHead + 1 }).arrive a
      let p := s.packet id
      let bad := s.badIn a 128
      .next ((if p.phase = .spilled then
          s1.setPacket id { p with phase := .held, poisoned := bad,
                                   record := if bad then 0 else BitVec.ofNat 1024 (s.word a 128) }
        else s1).retryLaunches die)

/-! ### Reading records (R110, R111, R418) -/

/-- Address of the record at index i of the ring of queue q. -/
def State.recordAt (s : State) (q i : Nat) : Nat := (s.queue q).qbase + 128 * (i % 2 ^ (s.queue q).qlog)

/-- The packet at index i of the ring of queue q, as ring memory stands. -/
def State.ringPacket (s : State) (q i : Nat) : Packet :=
  let qu := s.queue q
  let a := s.recordAt q i
  let bad := s.badIn a 128
  let r : BitVec 1024 := if bad then 0 else BitVec.ofNat 1024 (s.word a 128)
  { Packet.empty with
    record := r, poisoned := bad, queue := q, qidx := i, home := fileDie qu.semf, func := qu.func, asc := qu.asc, file := qu.semf,
    prio := bits r.toNat 9 8 }

/-- Some bytes of the read that r makes next are read apart from the rest: the LFE's reads are byte events (R329). They wait with their
pages (R185, R206). -/
def State.readEarly (s : State) (r : LfeRead) (which : Nat) (pas : List Nat) : State :=
  let f := whichItem false 1 which pas
  let new := pas.filter fun a => f a && !s.lfe.early.any fun e => e.1 == r && e.2.1 == a
  if new.any s.heldAt then s
  else { s with lfe := { s.lfe with early := s.lfe.early ++ new.map fun a => (r, a, s.byte a, s.bad a) } }

/-- Memory as the reader r finds it: what it has read apart is as it was then. -/
def State.seenBy (s : State) (r : LfeRead) : State :=
  each (fun e s => { s with mem := put unlisted s.mem e.2.1 e.2.2.1, poison := put false s.poison e.2.1 e.2.2.2 })
    (s.lfe.early.filter fun e => e.1 == r) s

/-- The LFE reads the next record of queue q, or passes one: it holds fewer than four that have been neither dispatched nor completed. Where
R111 counts those held, and not how far the read index stands above the oldest, the count decides (DESIGN CHOICE, log 49). -/
def State.readsRecord (s : State) (q : Nat) : Bool :=
  let qu := s.queue q
  qu.en && decide (qu.readIdx < qu.notified) && decide ((s.packetsWith fun p => !p.child && p.queue == q && p.undispatched).length < 4)

/-- RECORD_READ: the next record of a queue enters the front end, or a record withdrawn or killed unread is passed. -/
def execRecordRead (q : Nat) (s0 : State) : Out :=
  let qu := s0.queue q
  let a := s0.recordAt q qu.readIdx
  let s := s0.readDone (.record q)
  if !s0.readsRecord q then .next s0
  else if qu.skips.contains qu.readIdx then
    .next (s.setQueue q { qu with readIdx := qu.readIdx + 1, skips := qu.skips.filter fun i => i != qu.readIdx })
  else if s0.held a 128 then .next s0
  else .next (((s.addPacket ((s0.seenBy (.record q)).ringPacket q qu.readIdx)).setQueue q { qu with readIdx := qu.readIdx + 1 }).arrive a)

/-- Some bytes of the next record of queue q are read. -/
def State.recordPart (s : State) (q which : Nat) : State :=
  let qu := s.queue q
  if s.readsRecord q && !qu.skips.contains qu.readIdx then s.readEarly (.record q) which (addrs (s.recordAt q qu.readIdx) 128) else s

/-! ### The head of a queue (R117 to R121) -/

/-- PACKET_HEAD: header decode, then the wait list. -/
def execPacketHead (s : State) : Out :=
  let id := s.cur
  let p := s.packet id
  if p.phase != .held || !s.mayHead p then .next s
  else if p.poisoned || headBad p then .next (s.finish id 4)
  else if p.barrier && !(s.earlier p).all Packet.completed then .next s
  else .next ((s.setPacket id { p with phase := .waiting }).evalWait id)

/-- RESIDENCY_CHECK: the slot, then the checks against its kernel header (R96, R119). -/
def execResidencyCheck (s : State) : Out :=
  let id := s.cur
  let p := s.packet id
  let r := s.rslot p.slot
  if p.phase != .passed then .next s
  else if r.state != .resident || r.func != p.func || r.gen != p.gen then .next (s.finish id 3)
  else if s.postBad p then .next (s.finish id 4)
  else .next (s.setPacket id { p with phase := .ready })

/-! ### Selection (R145) -/

/-- Keys of ptr and of a deficit: kind 0 tickets, 1 dispatch. -/
def ptrKey (kind d prio : Nat) : Nat := (2 * kind + d) * 4 + prio
def defKey (kind d prio f : Nat) : Nat := ptrKey kind d prio * 64 + f

/-- Insert into a rising list without repeats. -/
def insNat : List Nat → Nat → List Nat
  | [], n => [n]
  | a :: r, n => if n < a then n :: a :: r else if n = a then a :: r else a :: insNat r n

def sortNat (l : List Nat) : List Nat := l.foldl insNat []

/-- The function after f in a rising list, wrapping. -/
def nextFn (fs : List Nat) (f : Nat) : Nat := (fs.find? fun g => decide (f < g)).getD (fs.headD 0)

/-- The loop of R145: turns left, ptr and deficits, to the function chosen. -/
def drr (weight cost : Nat → Nat) (key : Nat → Nat) (fs : List Nat) : Nat → Nat → Assoc Nat → Nat × Assoc Nat
  | 0, f, dl => (f, dl)
  | n + 1, f, dl =>
    if cost f ≤ get 0 dl (key f) then (f, put 0 dl (key f) (get 0 dl (key f) - cost f))
    else
      let g := nextFn fs f
      drr weight cost key fs n g (put 0 dl (key g) (get 0 dl (key g) + weight g))

/-- Place in the order of dispatch; packets that wait for dispatch by number. -/
def firstOf : List (Nat × Packet) → Option (Nat × Packet)
  | [] => none
  | e :: r =>
    match firstOf r with
    | none => some e
    | some v => if v.2.order < e.2.order then some v else some e

def packetCost (p : Packet) : Nat := if p.cluster then 1024 else 256

/-- Selection on die d among eligible packets: the packet chosen, and the state with ptr and deficits moved. Before the first
selection ptr names no function (log 24). -/
def State.select (s : State) (kind d : Nat) (elig : List (Nat × Packet)) : Option (Nat × State) :=
  match elig with
  | [] => none
  | e :: r =>
    let prio := (e :: r).foldl (fun m v => max m v.2.prio) 0
    let at' := elig.filter fun v => v.2.prio == prio
    let fs := sortNat (at'.map fun v => v.2.func)
    let mine (f : Nat) := firstOf (at'.filter fun v => v.2.func == f)
    let cost (f : Nat) := match mine f with | some v => if kind = 0 then packetCost v.2 else 256 | none => 256
    let weight (f : Nat) := (s.func f).weight
    let p0 := get 64 s.lfe.ptr (ptrKey kind d prio)
    let f0 := if fs.contains p0 then p0 else fs.headD 0
    let key (f : Nat) := defKey kind d prio f
    let d0 := if fs.contains p0 then s.lfe.deficit else put 0 s.lfe.deficit (key f0) (get 0 s.lfe.deficit (key f0) + weight f0)
    let (f, dl) := drr weight cost key fs (131072 * fs.length) f0 d0
    match mine f with
    | none => none
    | some v => some (v.1, { s with lfe := { s.lfe with ptr := put 64 s.lfe.ptr (ptrKey kind d prio) f, deficit := dl } })

/-- The walker goes on: no fault of it is being answered, and none has ended it. -/
def Walker.goes (w : Walker) : Bool := w.haveArray && !w.held && w.failed.isNone

/-- A dispatched packet has an entry that a core of either die can take: a ticket of either counter, or a record that no request has asked
for yet (R139, R141, R145). It need not be read: R145 does not say (DESIGN CHOICE, log 49). -/
def Packet.hasEntry (p : Packet) : Bool :=
  p.phase == .dispatched && !p.stop &&
    (match p.walker with
     | some w => w.goes && decide (w.next + w.asks.length < p.rcount)
     | none => decide (p.lo0 < p.hi0) || decide (p.lo1 < p.hi1))

/-- A packet that may be dispatched on die d: ready, and not held by a reset or by storm (R366, R383, R394). -/
def State.mayDispatch (s : State) (d : Nat) (p : Packet) : Bool :=
  p.phase == .ready && p.home == d && !s.storm && !(s.func p.func).flr && !s.underReset d

/-- A deficit is 0 while its function has no eligible launch at its priority (R145). -/
def State.trim (s : State) : State :=
  let keep (key : Nat) : Bool :=
    let f := key % 64
    let prio := key / 64 % 4
    let d := key / 256 % 2
    s.lfe.packets.any fun e =>
      e.2.func == f && e.2.prio == prio && (if key / 512 = 0 then e.2.hasEntry else e.2.phase == .ready && e.2.home == d)
  { s with lfe := { s.lfe with deficit := s.lfe.deficit.filter fun e => keep e.1 } }

/-! ### Dispatch (R117, R122, R137) -/

/-- Entries of a loop-mode packet: tickets, or gangs (R137). -/
def Packet.entries (p : Packet) : Nat := if p.cluster then p.tickets / 4 else p.tickets

/-- Entries of CD0's first range (R137). -/
def Packet.split (p : Packet) : Nat :=
  match p.levels.find? fun l => l.mark == 3 with
  | some l => if p.cluster then (p.entries + 1) / 2 else (l.extent + 1) / 2 * (p.tickets / l.extent)
  | none => if p.home = 0 then p.entries else 0

/-- Entries of CD0's first range as dispatch finds the dies: a die under warm reset is given none (R394). -/
def State.splitOf (s : State) (p : Packet) : Nat := if s.underReset 0 then 0 else if s.underReset 1 then p.entries else p.split

def Walker.start : Walker :=
  { next := 0, haveArray := false, entries := [], served := [], handed := [], record := none, held := false, failed := none,
    bad := false, asks := [] }

/-- The slot of a packet still holds the load that the packet names (R84). -/
def State.slotStands (s : State) (p : Packet) : Bool :=
  let r := s.rslot p.slot
  (r.state == .resident || r.state == .unloading) && r.gen == p.gen && r.func == p.func

/-- The packet is dispatched: counters, or a walker; a loop without tickets ends (R122). Where its slot has been unloaded since its
residency check, it completes NOT-RESIDENT: R84 gives it no fate (DESIGN CHOICE, log 49). -/
def State.open (s : State) (id : Nat) : State :=
  let p := s.packet id
  let q := { p with phase := .dispatched, reserve := false, order := s.lfe.order }
  let s1 := { s with lfe := { s.lfe with order := s.lfe.order + 1 } }
  if !s.slotStands p then s.finish id 3
  else if p.table then s1.setPacket id { q with walker := some Walker.start }
  else if p.tickets = 0 then (s1.setPacket id q).finish id 0
  else
    let n := s.splitOf p
    s1.setPacket id { q with lo0 := 0, hi0 := n, lo1 := n, hi1 := p.entries }

/-- DISPATCH of the packet that R145 selects among those ready on its home die. One from the child pool lets LAUNCHes be tried again
(R130). -/
def execDispatch (s : State) : Out :=
  let d := (s.packet s.cur).home
  match s.select 1 d (s.packetsWith (s.mayDispatch d)) with
  | some (id, s1) =>
    let s2 := (s1.open id).trim
    .next (if id ≠ s.cur then s else if (s.packet id).child then s2.retryLaunches d else s2)
  | none => .next s

/-! ### The walker (R100 to R103) -/

/-- Outcome of a read of a topology table. -/
inductive TableRead where
  | bytes (l : List Byte)
  /-- A site under hand-over. -/
  | waits
  | absent
  | fails (cause : Byte)
  deriving DecidableEq, Repr

/-- Read 16 bytes at va in context asc (R102). -/
def State.readChunk (s : State) (asc va : Nat) : TableRead :=
  match s.walk asc va with
  | .waits => .waits
  | .absent => .absent
  | .poisoned => .fails 0x40
  | .leaf l =>
    let a := l.base + va % l.size
    if s.handingAt l.base || s.held a 16 then .waits
    else if !l.r || reserved a || isDevReg a then .fails 0x0A
    else if s.badIn a 16 then .fails 0x40
    else .bytes (s.bytes a 16)

/-- Read n chunks of 16 bytes from va up. -/
def State.readChunks (s : State) (asc : Nat) : Nat → Nat → TableRead
  | _, 0 => .bytes []
  | va, n + 1 =>
    match s.readChunk asc va with
    | .bytes l =>
      match s.readChunks asc (va + 16) n with
      | .bytes r => .bytes (l ++ r)
      | o => o
    | o => o

/-- What the reads of n chunks from va up touch has arrived: table entries and the chunks (R186). -/
def State.chunksArrived (s : State) (asc va n : Nat) : State :=
  each (fun i s =>
    let v := va + 16 * i
    let s1 := s.walked asc v
    match s.walk asc v with | .leaf l => s1.arrive (l.base + v % l.size) | _ => s1) (List.range n) s

/-- Chunks of the per-expert signal array (R101). -/
def Packet.arrayChunks (p : Packet) : Nat := (p.ecount + 3) / 4

/-- Groups of four bytes as words. -/
def words4 (l : List Byte) : List W32 := (List.range (l.length / 4)).map fun i => BitVec.ofNat 32 (wordOfBytes ((l.drop (4 * i)).take 4))

/-- Experts, in increasing number, whose signal is applied or forced: V = 1, reserved bits zero, not in a list. -/
def Walker.left (w : Walker) (l : List Nat) : List (Nat × Nat) :=
  (List.range w.entries.length).filterMap fun e =>
    let v := ((w.entries[e]?).getD 0).toNat
    if bits v 31 9 = 0 ∧ bits v 8 8 = 1 ∧ !l.contains e then some (e, bits v 7 0) else none

/-- The walk ends before table end: the experts that no ticket serves are forced to abort (R103). -/
def State.endWalk (s : State) (id : Nat) : State :=
  let p := s.packet id
  match p.walker with
  | none => s
  | some w =>
    if w.failed.isSome || decide (p.rcount ≤ w.next) && w.haveArray then s
    else each (fun e s => s.abort p.file e.2) (w.left w.handed) s

/-- A read of the walker fails: the walk ends with a cause (R102). -/
def State.failWalk (s : State) (id : Nat) (cause : Byte) : State :=
  let s1 := s.endWalk id
  let p := s1.packet id
  match p.walker with
  | none => s1
  | some w => s1.setPacket id { p with status := mergeStatus p.status 4, walker := some { w with failed := some cause, held := false } }

/-- Table end, once the last record has been handed out: experts without a record are signalled (R103). -/
def State.tableEnd (s : State) (id : Nat) : State :=
  let p := s.packet id
  match p.walker with
  | none => s
  | some w => if w.next < p.rcount then s else each (fun e s => s.signal p.file e.2 (-1) none) (w.left w.served) s

def recRows (r : Nat) : Nat := bits r 31 16
def recExpert (r : Nat) : Nat := bits r 15 0

/-- The record breaks R101. -/
def Packet.recordBad (p : Packet) (r : Nat) : Bool :=
  bits r 127 125 != 0 || (bits r 124 124 == 0 && bits r 123 116 != 0) || decide (recRows r < 1) || decide (128 < recRows r) ||
    decide (p.ecount ≤ recExpert r)

/-- The signal array is read; the bytes that pad it are not looked at (DESIGN CHOICE, log 49). With no record, table end is the dispatch,
but no entry is known before this read: the signals apply at it, and a kill that comes first applies and forces none (R103; DESIGN CHOICE,
log 49). -/
def State.haveArray (s : State) (id : Nat) (l : List Byte) : State :=
  let p := s.packet id
  match p.walker with
  | none => s
  | some w =>
    let es := (words4 l).take p.ecount
    let bad := es.any fun e => bits e.toNat 31 9 != 0
    (s.setPacket id { p with status := if bad then mergeStatus p.status 4 else p.status,
                             walker := some { w with haveArray := true, entries := es, bad := bad } }).tableEnd id

/-- A record is read: it waits for a core; a malformed one runs no task, and its counter is forced to abort (R102). -/
def State.haveRecord (s : State) (id : Nat) (l : List Byte) : State :=
  let p := s.packet id
  let r := wordOfBytes l
  match p.walker with
  | none => s
  | some w =>
    if p.recordBad r then
      let sv := if recExpert r < p.ecount then recExpert r :: w.served else w.served
      let s1 := s.setPacket id { p with status := mergeStatus p.status 4,
                                        walker := some { w with next := w.next + 1, bad := true, served := sv } }
      (if bits r 124 124 = 1 then s1.abort p.file (bits r 123 116) else s1).tableEnd id
    else s.setPacket id { p with walker := some { w with record := some (BitVec.ofNat 128 r) } }

/-- The walker of a packet reads: the signal array first, then each record before it is handed out. -/
def Packet.walks (p : Packet) : Option Walker :=
  p.walker.filter fun w => p.phase == .dispatched && !p.stop && !w.held && w.failed.isNone && w.record.isNone &&
    (!w.haveArray || decide (w.next < p.rcount))

/-- Where the walker reads next: the address, and the number of chunks. -/
def Packet.tableRead (p : Packet) (w : Walker) : Nat × Nat :=
  if w.haveArray then (p.base + 16 * (p.arrayChunks + w.next), 1) else (p.base, p.arrayChunks)

/-- Some bytes of the walker's next read are read, where it translates (R102, R329). -/
def State.tablePart (s : State) (id which : Nat) : State :=
  let p := s.packet id
  match p.walks with
  | none => s
  | some w =>
    let (va, n) := p.tableRead w
    match s.readChunks p.asc va n with
    | .bytes _ =>
      s.readEarly (.table id) which ((List.range (16 * n)).filterMap fun j =>
        match s.walk p.asc (va + j) with | .leaf l => some (l.base + (va + j) % l.size) | _ => none)
    | _ => s

/-- WALKER_READ of the current packet. -/
def execWalkerRead (s0 : State) : Out :=
  let id := s0.cur
  let p := s0.packet id
  match p.walks with
  | none => .next s0
  | some w =>
      let (va, n) := p.tableRead w
      let s := s0.readDone (.table id)
      let s1 := s.chunksArrived p.asc va n
      match (s0.seenBy (.table id)).readChunks p.asc va n with
      | .waits => .next s0
      | .absent => .next (s1.setPacket id { p with walker := some { w with held := true } })
      | .fails c => .next (s1.failWalk id c)
      | .bytes l => .next (if w.haveArray then s1.haveRecord id l else s1.haveArray id l)

/-- Firmware answers the fault of a walker: the read again, or the end of the walk (R102). -/
def execWalkerTranslationFaultAnswer (p : Nat) (resume : Bool) (s : State) : Out :=
  let v := s.packet p
  match v.walker with
  | none => .next s
  | some w =>
    if !w.held || v.phase != .dispatched then .next s
    else if resume then .next (s.setPacket p { v with walker := some { w with held := false } })
    else .next (s.failWalk p 0x28)

end Sys2Proof.Machine
end

