-- ==== Sys2Proof/Machine/Responses.lean ====
section
/-! DEFINITION. The end of withdrawals and of queue and function-level resets (05_launching.md R124 to R128; R366, R394). -/

namespace Sys2Proof.Machine

/-! ### Withdrawal (R124 to R128) -/

/-- Insert by ring index. -/
def insQidx (e : Nat × Packet) : List (Nat × Packet) → List (Nat × Packet)
  | [] => [e]
  | v :: r => if e.2.qidx < v.2.qidx then e :: v :: r else v :: insQidx e r

/-- In increasing QIDX; of equal ones, a host packet's and a child's or two dies' children's, the later packet of the list first
(R124 states no order of these; DESIGN CHOICE, log 49). -/
def sortQidx (l : List (Nat × Packet)) : List (Nat × Packet) := l.foldr insQidx []

/-- Ring indices notified and not read, those passed apart. -/
def Queue.unread (q : Queue) : List Nat :=
  ((List.range (q.notified - q.readIdx)).map fun i => q.readIdx + i).filter fun i => !q.skips.contains i

/-- Records not read, of the ring indices that sel selects, are read from ring memory as it stands; those that f selects become packets,
and are passed (R124). A read whose page is held is performed after the hold, on the same contents (R185, R206). -/
def State.readAhead (s : State) (q : Nat) (sel : Nat → Bool) (f : Packet → Bool) : State :=
  let l := (s.queue q).unread.filter sel
  let s1 := (s.setQueue q { s.queue q with reads := (s.queue q).reads ++ l.filter fun i => s.held (s.recordAt q i) 128 }).arriveAll
    (l.map (s.recordAt q))
  each (fun i s =>
    let p := s.ringPacket q i
    if f p then
      let qu := s.queue q
      (s.addPacket p).setQueue q { qu with skips := qu.skips ++ [i] }
    else s) l s1

/-- A record that a withdrawal or a kill reads at ring index i of queue q is still held at the base die. -/
def State.readWaits (s : State) (q i : Nat) : Bool := (s.queue q).reads.contains i && s.held (s.recordAt q i) 128

/-- Such a read of queue q is left. -/
def State.readsWait (s : State) (q : Nat) : Bool := (s.queue q).reads.any (s.readWaits q)

/-- Packets of queue q, and children with that root queue, that have not been dispatched (R124). A child in a spill ring is known by
the record it was placed with, of which the LFE keeps a copy (DESIGN CHOICE, log 49). -/
def State.waiting (s : State) (q : Nat) (f : Packet → Bool) : List (Nat × Packet) :=
  sortQidx (s.packetsWith fun p => p.queue == q && (p.undispatched || p.phase == .spilled) && f p)

/-- Complete packets in order, with a status and without interrupts where quiet (R124, R366); a function whose last ready packet goes
has no deficit left (R145). -/
def State.endAll (s : State) (l : List (Nat × Packet)) (status : Nat) (quiet : Bool) : State :=
  (each (fun e s => (s.setPacket e.1 { s.packet e.1 with noIntr := quiet }).finish e.1 status) l s).trim

/-- A withdrawal of a tag from queue q takes effect; one of tag 0 withdraws nothing (R124). -/
def State.withdraw (s : State) (q tag : Nat) : State :=
  if tag = 0 then s.setQueue q { s.queue q with count := 0 }
  else
    let f (p : Packet) : Bool := p.tag == tag && !p.poisoned
    let s1 := s.readAhead q (fun _ => true) f
    let l := s1.waiting q f
    let s2 := s1.endAll l 1 false
    let qu := s2.queue q
    if l.isEmpty && !s2.readsWait q then s2.setQueue q { qu with count := 0, reads := [] }
    else s2.setQueue q { qu with busy := true, scan := l.map fun e => e.1, wcount := l.length }

/-- Withdrawals held at the port take effect in turn while no scan runs (R127). -/
def State.nextWithdraw (s : State) (q : Nat) : Nat → State
  | 0 => s
  | n + 1 =>
    let qu := s.queue q
    if qu.busy then s
    else
      match qu.heldW with
      | [] => s
      | t :: r => ((s.setQueue q { qu with heldW := r }).withdraw q t).nextWithdraw q n

/-- The scan of queue q ends, where no record of it is left to be read or written (R128). -/
def State.scanEnd (s : State) (q : Nat) : State :=
  let qu := s.queue q
  if !qu.busy || !qu.scan.isEmpty || s.readsWait q then s
  else (s.setQueue q { qu with busy := false, count := qu.wcount, reads := [] }).nextWithdraw q qu.heldW.length

/-- The record of a withdrawn packet has been written: the scan may end (R128). -/
def State.scanStep (s : State) (q id : Nat) : State :=
  let qu := s.queue q
  if !qu.scan.contains id then s
  else
    let l := qu.scan.filter fun i => i != id
    let s1 := s.setQueue q { qu with scan := l }
    if l.isEmpty then s1.scanEnd q else s1

/-! ### Queue reset and function-level reset (R366, R394) -/

/-- A packet's record is still owed. -/
def Packet.owing (p : Packet) : Bool := p.phase != .signalled

/-- Queue registers after a queue reset: the indices start again, the configuration stays with EN = 0 (R109, R394). Withdrawals held at
the port stay (R127). -/
def Queue.restarted (q : Queue) : Queue :=
  { q with en := false, notified := 0, readIdx := 0, cwrite := 0, cread := 0, resetting := false, skips := [], reads := [] }

/-- Queues under reset whose last outstanding completion is written (R394). -/
def State.queueResets (s : State) : State :=
  each (fun q s => (s.setQueue q (s.queue q).restarted).forget q)
    ((s.lfe.queues.filter fun e => e.2.resetting && !s.lfe.packets.any fun p => p.2.queue == e.1 && p.2.owing).map fun e => e.1) s

/-- Steps 7 to 9 of a function-level reset of f (R366). -/
def State.flrEnd (s : State) (f : Nat) : State :=
  let file (k : Nat) : Nat := k / 256
  let lf := s.lfe
  let owned (k : Nat) : Bool := get 0 s.hif.ownFile (file k) == f
  let mine := (lf.queues.filter fun e => e.2.func == f).map fun e => e.1
  let qs := lf.queues.map fun e => (e.1, if e.2.func = f then e.2.restarted else e.2)
  let fn := s.func f
  each (fun q s => s.forget q) mine
    (({ s with
      lfe := { lf with sems := lf.sems.filter fun e => !owned e.1, queues := qs.filter fun e => e.2 != Queue.empty }
      hif := { s.hif with vectors := s.hif.vectors.filter fun e => e.1 / 2048 != f } }).setFunc f { fn with flr := false })

/-- Function-level resets that have nothing left to wait for: no task, no command, no record (R366). -/
def State.flrs (s : State) : State :=
  let busy (f : Nat) : Bool :=
    (s.lfe.packets.any fun e => e.2.func == f && !e.2.done) || s.ce.cmds.any fun c => c.2.func == f && c.2.state != .ended
  each (fun f s => s.flrEnd f) ((s.hif.funcs.filter fun e => e.2.flr && !busy e.1).map fun e => e.1) s

end Sys2Proof.Machine
end

