-- ==== Sys2Proof/Machine/Commands.lean ====
section
/-! DEFINITION. The life of a copy-engine command (12_copy_engines.md R289 to R299, R315 to R320): its fields, its translation of
references, leaving QUEUED, running, being held, and its end with result and signals. -/

namespace Sys2Proof.Machine

/-! ### Fields (R293 to R314) -/

def Cmd.d (c : Cmd) (n : Nat) : Nat := dwOf c.dw n
def Cmd.kind (c : Cmd) : Nat := kindOf c.dw
def Cmd.rsub (c : Cmd) : Nat := rsubOf c.dw
def Cmd.cls (c : Cmd) : Nat := bits (c.d 0) 15 12
def Cmd.first (c : Cmd) : Nat := bits (c.d 0) 47 16
def Cmd.rowsig (c : Cmd) : Bool := bits (c.d 5) 7 7 == 1
def Cmd.sform (c : Cmd) : Nat := bits (c.d 5) 1 0
def Cmd.dform (c : Cmd) : Nat := bits (c.d 5) 3 2

/-- Signal entry of cb1: counter and delta (R294). -/
def Cmd.signals (c : Cmd) : List (Nat × Int) := (entries21 (bits (c.d 1) 41 21) 1).map fun e => (e.2, (BitVec.ofNat 12 e.1).toInt)

/-- RSIG of a REMOTE: fabric number, package file, and its entry (R314). -/
def Cmd.rsig (c : Cmd) : List (Nat × Nat × Nat × Int) :=
  (entries21 (bits (c.d 10) 20 0) 1).map fun e => (bits (c.d 10) 63 52, bits (c.d 10) 40 32, e.2, (BitVec.ofNat 12 e.1).toInt)

/-- Fabric number of a REMOTE's destination: that of DST, or of RSIG for SIGNAL (R314). -/
def Cmd.fab (c : Cmd) : Nat := if c.rsub = 2 then bits (c.d 10) 63 52 else bits (c.d 4) 63 52

/-- The command goes to another package; one that names the package's own number runs as its local kind (R314). -/
def State.remote (s : State) (c : Cmd) : Bool := c.kind == 8 && c.fab != s.fabno.toNat

/-- Kind of the work: a REMOTE's is that of its RSUB. -/
def Cmd.work (c : Cmd) : Nat := if c.kind = 8 then (if c.rsub = 0 then 0 else if c.rsub = 1 then 1 else 6) else c.kind

/-- Signed 32-bit field of a doubleword. -/
def strideOf (w : Nat) (hi : Bool) : Int := (BitVec.ofNat 32 (if hi then w / 2 ^ 32 else w)).toInt

/-- Extent n of the walk (R300). -/
def Cmd.ext (c : Cmd) (n : Nat) : Nat := bits (c.d 6) (16 * n + 15) (16 * n)

/-- Bytes of a source and of a destination element (R301, R302). -/
def Cmd.ssz (c : Cmd) : Nat := if c.work = 1 then width (bits (c.d 5) 19 16) / 8 else 2 ^ bits (c.d 5) 6 4
def Cmd.dsz (c : Cmd) : Nat := if c.work = 1 then width (bits (c.d 5) 15 12) / 8 else 2 ^ bits (c.d 5) 6 4

/-- ROTATE: pairs in a row, and rows (R305). -/
def Cmd.pairs (c : Cmd) : Nat := bits (c.d 5) 23 8 / 2
def Cmd.rotRows (c : Cmd) : Nat := bits (c.d 7) 23 0

/-- Elements of a command (R301, R306). -/
def Cmd.total (c : Cmd) : Nat :=
  match c.work with
  | 0 | 1 | 5 => c.ext 0 * c.ext 1 * c.ext 2 * c.ext 3
  | 2 => c.rotRows * c.pairs
  | _ => 0

/-- Elements in a row. -/
def Cmd.rowLen (c : Cmd) : Nat := if c.work = 2 then c.pairs else c.ext 0

/-- Displacements of element n on the source and the destination side (R301). -/
def Cmd.walkSrc (c : Cmd) (n : Nat) : Int :=
  let i1 : Int := (n / c.ext 0 % c.ext 1 : Nat)
  let i2 : Int := (n / (c.ext 0 * c.ext 1) % c.ext 2 : Nat)
  let i3 : Int := (n / (c.ext 0 * c.ext 1 * c.ext 2) : Nat)
  (n % c.ext 0 * c.ssz : Nat) + i1 * strideOf (c.d 7) false + i2 * strideOf (c.d 7) true + i3 * strideOf (c.d 8) false

def Cmd.walkDst (c : Cmd) (n : Nat) : Int :=
  let i1 : Int := (n / c.ext 0 % c.ext 1 : Nat)
  let i2 : Int := (n / (c.ext 0 * c.ext 1) % c.ext 2 : Nat)
  let i3 : Int := (n / (c.ext 0 * c.ext 1 * c.ext 2) : Nat)
  (n % c.ext 0 * c.dsz : Nat) + i1 * strideOf (c.d 8) true + i2 * strideOf (c.d 9) false + i3 * strideOf (c.d 9) true

/-! ### Translation by an engine (R316 to R318) -/

/-- A byte that a reference names. -/
inductive EAddr where
  | va (a : Int)
  | blk (name : Nat) (off : Int)
  deriving DecidableEq, Repr

/-- Byte at displacement d of a reference of form 0 or 1; a form-2 address is one of form 0 (R295, R314). -/
def eaddr (form ref : Nat) (d : Int) : EAddr :=
  if form = 1 then .blk (ref % 2 ^ 48) ((ref / 2 ^ 48 : Nat) + d) else .va ((ref % 2 ^ 52 : Nat) + d)

/-- The byte has a virtual address that can come to be mapped (R189). -/
def inSpace : EAddr → Bool
  | .va a => decide (0 ≤ a) && decide (a < 2 ^ 52)
  | .blk _ _ => true

/-- Where an engine access goes. -/
inductive Reach where
  | at (pa : Nat)
  | waits
  | absent
  | fails (cause : Byte)
  deriving DecidableEq, Repr

/-- Start of a captured name in the list of pages: beyond every virtual address. -/
def nameKey (nm : Nat) : Nat := 2 ^ 60 + nm

/-- A captured page serves an access at offset o of it. -/
def inPage (w : Bool) (p : Nat × Nat × Nat × Bool × Bool) (o : Nat) : Reach :=
  if if w then p.2.2.2.2 else p.2.2.2.1 then .at (p.2.1 + o) else .fails 0x0A

/-- A byte of a block that a name names. -/
def inBlock (base size : Nat) (o : Int) : Reach := if 0 ≤ o ∧ o < size then .at (base + o.toNat) else .fails 0x09

/-- The engine reaches a byte: through what the command has captured, or by a new translation, which it captures (R316). A new
translation into a site under hand-over waits (R197). -/
def State.reach (s : State) (c : Cmd) (w : Bool) : EAddr → Reach × Cmd
  | .blk nm o =>
    match c.pages.find? fun p => p.1 == nameKey nm with
    | some p => (inBlock p.2.1 p.2.2.1 o, c)
    | none =>
      match s.blockOf c.asc nm with
      | none => (.fails 0x0D, c)
      | some n =>
        if s.handing (nameSite nm) then (.waits, c)
        else (inBlock (nameAddr nm) n o,
          { c with pages := c.pages ++ [(nameKey nm, nameAddr nm, n, true, true)], names := c.names ++ [nm] })
  | .va a =>
    if a < 0 ∨ 2 ^ 52 ≤ a then (.absent, c)
    else
      let v := a.toNat
      match c.pages.find? fun p => decide (p.1 ≤ v) && decide (v < p.1 + p.2.2.1) with
      | some p => (inPage w p (v - p.1), c)
      | none =>
        match s.walk c.asc v with
        | .waits => (.waits, c)
        | .absent => (.absent, c)
        | .poisoned => (.fails 0x40, c)
        | .leaf l =>
          if s.handingAt l.base then (.waits, c)
          else if reservedPage l.base l.size || isDevReg l.base then (.fails 0x0A, c)
          else
            let p := (v - v % l.size, l.base, l.size, l.r, l.w)
            (inPage w p (v % l.size), { c with pages := c.pages ++ [p] })

/-- The addresses of n bytes, or what stops the access at the first that cannot be reached. -/
inductive Run where
  | ok (pas : List Nat)
  | stop (r : Reach)
  deriving DecidableEq, Repr

def State.reachAll (s : State) (w : Bool) (form ref : Nat) : Int → Nat → Cmd → Run × Cmd
  | _, 0, c => (.ok [], c)
  | d, n + 1, c =>
    match s.reach c w (eaddr form ref d) with
    | (.at a, c1) =>
      if w && s.readOnly a 1 then (.stop (.fails 0x0A), c1)
      else
        match s.reachAll w form ref (d + 1) n c1 with
        | (.ok l, c2) => (.ok (a :: l), c2)
        | (.stop r, c2) => (.stop r, c2)
    | (r, c1) => (.stop r, c1)

/-! ### Order in a stream (R292, R330, R333) -/

/-- A run of bytes that a command has still to read or write: len bytes from displacement off of a reference. -/
structure ERef where
  w : Bool
  form : Nat
  ref : Nat
  off : Int
  len : Nat
  deriving DecidableEq, Repr

/-- Rows that are left of a walk: the element each begins at, and how many elements it has. -/
def Cmd.rowsLeft (c : Cmd) : List (Nat × Nat) :=
  if c.total ≤ c.progress then []
  else
    (c.progress, c.rowLen - c.progress % c.rowLen) ::
      ((List.range (c.total / c.rowLen)).filter fun j => decide (c.progress / c.rowLen < j)).map fun j => (j * c.rowLen, c.rowLen)

/-- Bytes of a SCAN element, a logit type. -/
def scanSize (code : Nat) : Nat := if code = 0 then 4 else 2

/-- The element of its range that a SCAN reads next: PROGRESS names the first (R293). -/
def Cmd.scanAt (c : Cmd) : Nat := c.first + c.got.length

/-- Parameters of a job (R284, R313). -/
def Cmd.experts (c : Cmd) : Nat := bits (c.d 9) 44 32
def Cmd.tokens (c : Cmd) : Nat := bits (c.d 9) 16 0
def Cmd.topK (c : Cmd) : Nat := bits (c.d 8) 18 16 + 1
def Cmd.ltype (c : Cmd) : Nat := bits (c.d 8) 13 10

/-- Reference number w of a command with outputs: 1 to 4 of an RTE job, and DST of a SCAN; its form and the doubleword. -/
def Cmd.outRef (c : Cmd) (w : Nat) : Nat × Nat :=
  if c.work = 7 then (bits (c.d 8) (2 * w + 1) (2 * w), c.d (3 + w)) else (c.dform, c.d 4)

/-- A run of bytes of an output. -/
def Cmd.outRun (c : Cmd) (w off len : Nat) : ERef := { w := true, form := (c.outRef w).1, ref := (c.outRef w).2, off := off, len := len }

/-- What a command has still to read and to write, its writes in flight apart; what a REMOTE writes is not here (R322). -/
def Cmd.todo (c : Cmd) (remote : Bool) : List ERef :=
  let read (form ref : Nat) (off : Int) (len : Nat) : ERef := { w := false, form := form, ref := ref, off := off, len := len }
  let write (off : Int) (len : Nat) : ERef := { w := true, form := c.dform, ref := c.d 4, off := off, len := len }
  match c.work with
  | 0 | 1 | 5 => c.rowsLeft.flatMap fun r =>
      (if c.work = 5 then [] else [read c.sform (c.d 3) (c.walkSrc r.1) (r.2 * c.ssz)]) ++
        if remote then [] else [write (c.walkDst r.1) (r.2 * c.dsz)]
  | 2 => c.rowsLeft.flatMap fun r =>
      let i := r.1 % c.pairs
      let row := r.1 / c.pairs
      [read c.sform (c.d 3) (row * bits (c.d 8) 31 0 + 4 * i : Nat) (4 * r.2),
       read (bits (c.d 5) 5 4) (c.d 6) (8 * ((strideOf (c.d 5) true).natAbs * c.pairs + i) : Nat) (8 * r.2),
       write (row * bits (c.d 8) 63 32 + 4 * i : Nat) (4 * r.2)]
  | 3 =>
      let n := bits (c.d 6) 31 0
      let z := scanSize (bits (c.d 5) 7 4)
      let cap := min (bits (c.d 6) 63 32) (n - c.first)
      [read c.sform (c.d 3) (c.scanAt * z : Nat) ((n - c.scanAt) * z), write (8 * c.progress : Nat) (8 * (cap - c.progress))]
  | 7 =>
    if c.phase2 then (c.out.drop c.progress).map fun o => c.outRun o.1 o.2.1 o.2.2.1
    else
      let t0 := c.got.length / c.experts
      ((List.range (c.tokens - t0)).map fun j =>
        read (bits (c.d 8) 1 0) (c.d 3) ((t0 + j) * bits (c.d 8) 63 32 : Nat) (c.experts * scanSize c.ltype)) ++
        [c.outRun 1 0 (8 * c.tokens * c.topK), c.outRun 2 0 (4 * c.experts), c.outRun 3 0 (4 * (c.experts + 1)),
         c.outRun 4 0 (8 * c.tokens * c.topK)]
  | _ => []

/-- One of the addresses is in a run of bytes of command x, or may be: where a translation of the run waits, and where a page of it is
absent, which the host may map to any frame before the command goes on (R292, R317, R333; log 27). -/
def State.runMeets (s : State) (x : Cmd) (r : ERef) (pas : List Nat) : Bool :=
  (List.range r.len).any fun j =>
    match (s.reach x r.w (eaddr r.form r.ref (r.off + j))).1 with
    | .at a => pas.contains a
    | .waits => true
    | .absent => inSpace (eaddr r.form r.ref (r.off + j))
    | .fails _ => false

/-- Writes of a command that have not been performed touch one of the addresses. -/
def Cmd.inFlight (c : Cmd) (pas : List Nat) : Bool := c.flight.any fun p => p.cells.any fun e => pas.contains e.1

/-- An access of command c to some addresses waits for accesses of an earlier command x of its stream: those of its class that R330
orders before it, or that touch one of the same bytes (R292, R333). -/
def State.waitsFor (s : State) (c x : Cmd) (w : Bool) (pas : List Nat) : Bool :=
  let td := x.todo (s.remote x)
  let same := x.cls == c.cls || x.cls == 15 || c.cls == 15
  let reads := td.any fun r => !r.w
  let writes := !x.flight.isEmpty || td.any fun r => r.w
  (same && (reads || (w && writes))) || x.inFlight pas || td.any fun r => s.runMeets x r pas

/-- An access of command id to some addresses has to wait for its stream. -/
def State.blocked (s : State) (id : Nat) (c : Cmd) (w : Bool) (pas : List Nat) : Bool :=
  s.ce.cmds.any fun x =>
    decide (x.1 < id) && x.2.task == c.task && x.2.engine == c.engine && x.2.state != .ended && s.waitsFor c x.2 w pas

/-- An element of a REMOTE leaves after those of its class of an earlier command of the stream to the same package (R322). -/
def State.sendWaits (s : State) (id : Nat) (c : Cmd) : Bool :=
  s.ce.cmds.any fun x =>
    decide (x.1 < id) && x.2.task == c.task && x.2.engine == c.engine && x.2.state != .ended && s.remote x.2 && x.2.fab == c.fab &&
      (x.2.cls == c.cls || x.2.cls == 15 || c.cls == 15) && decide (x.2.progress < x.2.total)

/-- A source read has to wait for its pages, for its stream, and, where own holds, for the writes of its own command: a read of a SCAN or of
a ROTATE's table sees what earlier elements wrote, where R301 lets one of SRC pass them (R292, R306, R333). -/
def State.srcWaits (s : State) (id : Nat) (c : Cmd) (own : Bool) (pas : List Nat) : Bool :=
  pas.any s.heldAt || (own && c.inFlight pas) || s.blocked id c false pas

/-- Read n bytes for command id: their addresses and value. Those that have been read apart keep what was read, until the element leaves
(R329); the others wait as `srcWaits` says, and are fatal where they are poisoned (R318, R320). -/
def State.fetchBytes (s : State) (id : Nat) (c : Cmd) (own : Bool) (form ref : Nat) (d : Int) (n : Nat) : Run × Nat × Cmd :=
  match s.reachAll false form ref d n c with
  | (.ok l, c1) =>
    let new := l.filter fun a => (find c.part a).isNone
    if s.srcWaits id c own new then (.stop .waits, 0, c1)
    else if new.any s.bad then (.stop (.fails 0x40), 0, { c1 with part := [] })
    else (.ok l, wordOfBytes (l.map fun a => (find c.part a).getD (s.byte a)), c1)
  | (.stop .waits, c1) => (.stop .waits, 0, c1)
  | (r, c1) => (r, 0, { c1 with part := [] })

/-! ### The end of a command (R290, R297, R298) -/

/-- Entries of a stream are pushed in sequence order; without its task an entry is discarded (R290, R319). -/
def State.pushResults (s : State) (t e : Nat) : Nat → State
  | 0 => s
  | n + 1 =>
    match s.ce.cmds.find? fun x => x.2.task == t && x.2.engine == e && !x.2.nr with
    | none => s
    | some (id, c) =>
      if c.state != .ended then s
      else
        let s1 := { s with ce := { s.ce with cmds := del s.ce.cmds id } }
        let s2 := match find s1.tasks t with
          | none => s1
          | some k => s1.setTask t { k with results := put [] k.results e (k.resultsOf e ++ [({ seq := c.seq, word := c.word, range := c.wrote } : ResEntry)]) }
        s2.pushResults t e n

/-- COUNT of the status word (R299). -/
def Cmd.counted (s : State) (c : Cmd) : Nat :=
  if s.remote c then (if c.rsub = 2 then 0 else min c.acked (c.total - c.first)) else if c.work = 6 then 0 else c.count

/-- The status word (R297). -/
def Cmd.status (c : Cmd) (count result cause : Nat) : W64 :=
  BitVec.ofNat 64 (count % 2 ^ 32 * 2 ^ 32 + cause * 2 ^ 24 + c.kind * 2 ^ 20 + c.seq % 256 * 2 ^ 12 + c.flags.toNat * 2 ^ 4 + result)

/-- The per-row signals take the place of the final one (R294). -/
def Cmd.byRows (c : Cmd) : Bool := c.rowsig && (c.work == 0 || c.work == 1 || c.work == 2 || c.work == 5)

/-- The routing engine of the die has command id no more. -/
def State.freeRte (s : State) (id : Nat) : State :=
  { s with ce := { s.ce with rte0 := if s.ce.rte0 = some id then none else s.ce.rte0,
                             rte1 := if s.ce.rte1 = some id then none else s.ce.rte1 } }

/-- Command id ends: state, packet, barograph, signals, result entry (R291, R294, R298, R314, R363). -/
def State.endCmd (s : State) (id result cause : Nat) : State :=
  let c := s.cmd id
  let w := c.status (Cmd.counted s c) result cause
  let s1 := (s.setCmd id { c with state := .ended, word := w }).freeRte id
  let p := s1.packet c.packet
  let p1 := if result = 1 ∨ result = 3 then p.faulted (BitVec.ofNat 8 cause) c.who s1.time else p
  let s2 := s1.setPacket c.packet { p1 with commands := p1.commands - 1 }
  let s3 := if result = 1 then s2.note 0x01 cause (BitVec.ofNat 64 c.seq) w (find s2.tasks c.task) else s2
  let good := result == 0 || result == 2
  let s4 := if good && c.kind == 8 && !s.remote c then each (fun e s => s.signal e.2.1 e.2.2.1 e.2.2.2 none) c.rsig s3 else s3
  let s5 := each (fun e s => if good then (if c.byRows then s else s.signal c.file e.1 e.2 none) else s.abort c.file e.1) c.signals s4
  let s6 := if c.nr || (find s5.tasks c.task).isNone then { s5 with ce := { s5.ce with cmds := del s5.ce.cmds id } } else s5
  (s6.pushResults c.task c.engine 8).flrs

/-- Commands that f selects stop at an element boundary, behind the elements they have applied: no entry is pushed and their signal
entries are forced to abort (R317, R319). -/
def State.stopCmds (s : State) (f : Cmd → Bool) : State :=
  let one (e : Nat × Cmd) (s : State) : State :=
    let c := e.2
    let s0 := each (fun p s => (s.performLate c.packet p.cells).arrive ((p.cells.map Prod.fst).headD 0)) c.flight s
    let s1 := ({ s0 with ce := { s0.ce with cmds := del s0.ce.cmds e.1 } }).freeRte e.1
    if c.state = .ended then s1
    else
      let p := s1.packet c.packet
      each (fun g s => s.abort c.file g.1) c.signals (s1.setPacket c.packet { p with commands := p.commands - 1 })
  each one (s.ce.cmds.filter fun e => f e.2) s

/-! ### Leaving QUEUED (R291, R296) -/

/-- The walk of a page of a virtual range has to wait (R185, R190, R206). -/
def State.spanWaits (s : State) (asc va : Nat) : Nat → Bool
  | 0 => false
  | n + 1 => s.walk asc va == .waits || s.spanWaits asc (va + 65536) n

/-- Sites of the pages of a virtual range that are mapped; 8 for one outside every site. -/
def State.spanSites (s : State) (asc va : Nat) : Nat → List Nat
  | 0 => []
  | n + 1 =>
    match s.walk asc va with
    | .leaf l => (siteOf l.base).getD 8 :: s.spanSites asc (va + 65536) n
    | _ => s.spanSites asc (va + 65536) n

/-- First byte and pages of the range of a SCAN. -/
def Cmd.scanVa (c : Cmd) : Nat := c.d 3 % 2 ^ 52
def Cmd.scanLen (c : Cmd) : Nat := bits (c.d 6) 31 0 * scanSize (bits (c.d 5) 7 4)
def Cmd.scanPages (c : Cmd) : Nat := (c.scanVa % 65536 + c.scanLen + 65535) / 65536

/-- The range of a SCAN lies in one site as far as it is mapped (R307). -/
def State.oneSite (s : State) (c : Cmd) : Bool :=
  if c.sform = 1 then true
  else
    let l := s.spanSites c.asc (c.scanVa - c.scanVa % 65536) c.scanPages
    l.all fun x => x == l.headD 0 && x != 8

/-- The engine has to wait for a translation before it can check the range of a SCAN. -/
def State.checkWaits (s : State) (c : Cmd) : Bool :=
  c.work == 3 && c.sform != 1 && s.spanWaits c.asc (c.scanVa - c.scanVa % 65536) c.scanPages

/-- The checks of numeric limits that the engine makes; that of PROGRESS, which R301 states for COPY, ACCW and FILL, for ROTATE and SCAN too
(DESIGN CHOICE, log 49) (R296, R301, R302, R305, R307, R308, R284). -/
def State.valuesOk (s : State) (c : Cmd) : Bool :=
  match c.work with
  | 0 | 5 => decide (c.first ≤ c.total)
  | 1 =>
    let z := c.dsz
    let base := if c.dform = 1 then c.d 4 / 2 ^ 48 else c.d 4 % 2 ^ 52
    decide (c.first ≤ c.total) && base % z == 0 && bits (c.d 8) 63 32 % z == 0 && bits (c.d 9) 31 0 % z == 0 && bits (c.d 9) 63 32 % z == 0
  | 2 =>
    let dim := bits (c.d 5) 23 8
    decide (c.first ≤ c.total) && dim % 2 == 0 && decide (2 ≤ dim) && decide (dim ≤ 1024) && decide (1 ≤ c.rotRows)
  | 3 => decide (1 ≤ bits (c.d 6) 31 0) && decide (c.first ≤ bits (c.d 6) 31 0) && s.oneSite c
  | 4 => decide (1 ≤ bits (c.d 6) 63 32) && decide (1 ≤ bits (c.d 6) 31 0)
  | 7 =>
    let e := bits (c.d 9) 44 32
    let t := bits (c.d 9) 16 0
    let k := bits (c.d 8) 18 16 + 1
    let pitch := bits (c.d 8) 63 32
    decide (1 ≤ t) && decide (t ≤ 65536) && decide (1 ≤ e) && decide (e ≤ 4096) && decide (k ≤ e) &&
      decide (e * scanSize (bits (c.d 8) 13 10) ≤ pitch) && decide (pitch ≤ 2 ^ 20) && pitch % 4 == 0
  | _ => true

/-- What the walks of the check of a SCAN read has arrived (R186, R190, R307). -/
def State.checked (s : State) (c : Cmd) : State :=
  if c.work = 3 ∧ c.sform ≠ 1 then s.walkedPages c.asc (c.scanVa - c.scanVa % 65536) c.scanPages else s

/-- State WAITING or HELD, or on the way out of them. -/
def Cmd.pends (c : Cmd) : Bool :=
  match c.state with
  | .waiting | .aborting | .held | .resumed => true
  | _ => false

/-- The QUEUED condition: every earlier command of the stream has left WAITING and HELD; a 33rd fill stays QUEUED (R291, R309). -/
def State.mayLeave (s : State) (id : Nat) (c : Cmd) : Bool :=
  c.state == .queued &&
    (s.ce.cmds.all fun x => !(decide (x.1 < id) && x.2.task == c.task && x.2.engine == c.engine && (x.2.pends || x.2.state == .queued))) &&
    (c.kind != 4 || decide ((s.ce.cmds.filter fun x =>
      x.2.die == c.die && x.2.engine == c.engine && x.2.kind == 4 && (x.2.state == .running || x.2.pends)).length < 32))

/-- COMMAND_DEQUEUE: in arrival order among those of the engine that may leave. -/
def execCommandDequeue (s : State) : Out :=
  let id := s.cur
  match find s.ce.cmds id with
  | none => .next s
  | some c =>
    let before (x : Nat × Cmd) : Bool := decide (x.1 < id) && x.2.die == c.die && x.2.engine == c.engine && s.mayLeave x.1 x.2
    if !s.mayLeave id c || s.ce.cmds.any before || s.checkWaits c then .next s
    else
      let s1 := s.checked c
      if !s.valuesOk c then .next (s1.endCmd id 3 0x03)
      else
        let ab := c.wait.any fun e => decide ((s.sem c.file e.2).toInt < 0)
        .next (s1.setCmd id { c with state := if ab then .aborting else .waiting })

/-! ### Running (R289, R291) -/

/-- A running place of the engine is free; a pending fill takes none (log 26). -/
def State.placeFree (s : State) (c : Cmd) : Bool :=
  c.kind == 4 || decide ((s.ce.cmds.filter fun x =>
    x.2.die == c.die && x.2.engine == c.engine && x.2.state == .running && x.2.kind != 4).length < 4)

/-- COMMAND_START: the wait is satisfied, or the fault answered, and a place is free. -/
def execCommandStart (s : State) : Out :=
  let id := s.cur
  match find s.ce.cmds id with
  | none => .next s
  | some c =>
    let ok (e : Nat × Nat) : Bool := decide (0 ≤ (s.sem c.file e.2).toInt) && decide ((s.sem c.file e.2).toInt ≤ e.1)
    match c.state with
    | .waiting => .next (if c.wait.all ok && s.placeFree c then s.setCmd id { c with state := .running, start := s.time } else s)
    | .resumed => .next (if s.placeFree c then s.setCmd id { c with state := .running } else s)
    | _ => .next s

/-- ENGINE_FAULT_RESUME: at the recorded element, when a place is free (R317). -/
def execEngineFaultResume (s : State) : Out :=
  match find s.ce.cmds s.cur with
  | none => .next s
  | some c => .next (if c.state = .held then s.setCmd s.cur { c with state := if s.placeFree c then .running else .resumed } else s)

/-- ENGINE_FAULT_FATAL (R291, R318). -/
def execEngineFaultFatal (s : State) : Out :=
  match find s.ce.cmds s.cur with
  | none => .next s
  | some c => .next (if c.state = .held then s.endCmd s.cur 1 0x28 else s)

/-- What stops an access stops its command: it waits, is held with its progress, or ends FAULTED (R317, R318, R320); it stops once
memory has performed the elements below (R292). -/
def State.stopAt (s : State) (id : Nat) (c : Cmd) (r : Reach) : State :=
  if !c.flight.isEmpty then s.setCmd id c
  else
    match r with
    | .at _ | .waits => s.setCmd id c
    | .absent => s.setCmd id { c with state := .held }
    | .fails x => (s.setCmd id c).endCmd id 1 x.toNat

end Sys2Proof.Machine
end

