-- ==== Sys2Proof/Machine/Completion.lean ====
section
/-! DEFINITION. The completion of a packet: its record, its signals and its interrupt (05_launching.md R112 to R116, R123, R132,
R420; 14_interruptions.md R365; 15_retirement_and_health.md R378). -/

namespace Sys2Proof.Machine

/-! ### The end of a dispatched packet (R123, R140, R378) -/

/-- Every entry has been handed out, every task has ended, and every command. -/
def Packet.isOver (p : Packet) : Bool :=
  p.tasks == 0 && p.commands == 0 &&
    (p.stop || (match p.walker with
      | some w => w.failed.isSome || (w.haveArray && decide (p.rcount ≤ w.next))
      | none => decide (p.hi0 ≤ p.lo0) && decide (p.hi1 ≤ p.lo1)))

/-- A completion record is written: always for a host packet (R132). -/
def Packet.reports (p : Packet) : Bool := !p.child || p.intr || p.status != 0

/-! ### The record (R107, R112) -/

/-- CAUSE of the record. -/
def Packet.causeField (p : Packet) : Nat :=
  if p.status = 5 then p.cause.toNat
  else if p.status = 4 then (match p.walker with
    | some w => (w.failed.getD 0).toNat
    | none => if p.poisoned then 0x40 else 0)
  else 0

/-- FDIE, FCORE and FMEMB: of the task whose fault came first; of a killed gang, FMEMB names the member whose kill did (R112, R362;
log 48). -/
def Packet.whoField (p : Packet) : Nat := if p.status = 5 then p.who else if p.status = 6 ∧ p.cluster then p.who % 4 else 0

/-- Bytes 8 to 31, the low byte first, with the time at which they are written. -/
def Packet.bodyWord (p : Packet) (time : Nat) : Nat :=
  p.qidx % 2 ^ 32 + p.whoField * 2 ^ 38 + p.causeField * 2 ^ 56 + p.retired % 2 ^ 32 * 2 ^ 64 +
    p.resid * 2 ^ 96 + time % 2 ^ 64 * 2 ^ 128

/-- Bytes 0 to 7; clog gives the ring's size. -/
def Packet.headWord (p : Packet) (clog : Nat) : Nat :=
  (1 - p.cidx / 2 ^ clog % 2) + p.queue % 2048 * 2 + p.child.toNat * 2 ^ 12 + p.status * 2 ^ 24 + p.slot * 2 ^ 32 + p.tag * 2 ^ 40

/-- Address of the record's slot in its completion ring. -/
def State.recordAddr (s : State) (p : Packet) : Nat :=
  let q := s.queue p.queue
  q.cbase + 32 * (p.cidx % 2 ^ q.clog)

/-! ### Interrupts (R365) -/

/-- Send the message of a vector, or set its pending bit while it is masked. -/
def Vector.fire (v : Vector) : Vector := if v.masked then { v with pending := 0, pbit := true } else { v with pending := 0, sent := v.sent + 1 }

def State.vector (s : State) (fn vec : Nat) : Vector := get Vector.empty s.hif.vectors (2048 * fn + vec)

def State.setVector (s : State) (fn vec : Nat) (v : Vector) : State :=
  { s with hif := { s.hif with vectors := put Vector.empty s.hif.vectors (2048 * fn + vec) v } }

/-- An event on a vector. -/
def State.interrupt (s : State) (fn vec : Nat) : State :=
  let v := s.vector fn vec
  let f := s.func fn
  if v.pbit then s
  else
    let v1 := { v with pending := v.pending + 1, since := if v.pending = 0 then s.time else v.since }
    s.setVector fn vec (if f.hold = 0 ∨ f.cnt ≤ v1.pending then v1.fire else v1)

/-- INTERRUPT_HOLD_OFF_EXPIRY of a vector. -/
def execInterruptHoldOffExpiry (fn vec : Nat) (s : State) : Out :=
  let v := s.vector fn vec
  .next (if v.pending ≠ 0 ∧ v.since + (s.func fn).hold * 256 ≤ s.time then s.setVector fn vec v.fire else s)

/-- VECTOR_UNMASK: a pending bit sends its message. -/
def execVectorUnmask (fn vec : Nat) (s : State) : Out :=
  let v := s.vector fn vec
  .next (s.setVector fn vec { v with masked := false, pbit := false, sent := if v.pbit then v.sent + 1 else v.sent })

/-! ### Signals (R113, R114, R116) -/

/-- An interrupt is due for the packet. -/
def Packet.interrupts (p : Packet) : Bool := p.intr && !p.noIntr && !p.poisoned

/-- A packet whose signals have been performed and that raises no interrupt is done. -/
def State.close (s : State) (id : Nat) : State :=
  let p := s.packet id
  if p.phase = .signalled ∧ p.sigs = 0 ∧ !p.interrupts then (s.setPacket id { p with done := true }).prune.flrs else s

/-- The signal list is issued: deltas, or forced aborts; nothing for a record that could not be read (R113, R418). -/
def State.postSignals (s : State) (id : Nat) : State :=
  let p := s.packet id
  let l := if p.poisoned then [] else p.signals.map fun e =>
    ({ file := p.file, counter := e.1, delta := e.2, abort := decide (2 ≤ p.status), packet := some id } : Sig)
  let s1 := s.setPacket id { p with phase := .signalled, sigs := l.length }
  ({ s1 with lfe := { s1.lfe with signals := s1.lfe.signals ++ l } }).close id

/-- SEMAPHORE_SIGNAL: the k-th signal in flight is performed, those of one packet in their order. -/
def execSemaphoreSignal (k : Nat) (s : State) : Out :=
  match s.lfe.signals[k]? with
  | none => .next s
  | some g =>
    if g.packet.isSome && (s.lfe.signals.take k).any fun x => x.packet == g.packet then .next s
    else
      let s1 := { s with lfe := { s.lfe with signals := dropAt s.lfe.signals k } }
      let s2 := if g.abort then s1.abort g.file g.counter else s1.signal g.file g.counter g.delta none
      match g.packet with
      | none => .next s2
      | some id =>
        let p := s2.packet id
        .next ((s2.setPacket id { p with sigs := p.sigs - 1 }).close id)

/-! ### The steps of a completion (R114, R420) -/

/-- The record is issued if it is the first of its ring and there is space, else CFULL is set (R114). That of a packet whose launch record
is still being read waits for the read (R124, R206). LFE_CWRITE advances here, before the bytes are performed, as the spec does not say when
it does; and a write of LFE_CREAD that leaves the indices further apart than the ring is long counts as a full ring, of which R106 says
only that they are 2^CLOG apart (DESIGN CHOICE, log 49). -/
def State.issueRecord (s : State) (id : Nat) : State :=
  let p := s.packet id
  let q := s.queue p.queue
  let before (v : Packet) : Bool := v.phase == .completing && v.queue == p.queue && v.reports && decide (v.order < p.order)
  if (s.lfe.packets.any fun e => before e.2) || (!p.child && s.readWaits p.queue p.qidx) then s
  else if 2 ^ q.clog ≤ (q.cwrite + 2 ^ 32 - q.cread) % 2 ^ 32 then s.setQueue p.queue { q with cfull := true }
  else (s.setPacket id { p with phase := .body, cidx := q.cwrite }).setQueue p.queue { q with cwrite := (q.cwrite + 1) % 2 ^ 32 }

/-- PACKET_COMPLETE: a dispatched packet that is over completes, once writes of its killed tasks and stopped commands have been performed
(R206); a completed one issues its record, or without one its signals (R114, R123, R132). -/
def execPacketComplete (s : State) : Out :=
  let id := s.cur
  let p := s.packet id
  match p.phase with
  | .dispatched => .next (if p.isOver && !s.lateOf id then (s.finish id 0).unloads else s)
  | .completing => .next (if p.reports then s.issueRecord id else ((s.postSignals id).scanStep p.queue id).queueResets)
  | _ => .next s

/-- The time that a record states: that at which its first bytes are performed (R112). -/
def Packet.bodyTime (p : Packet) (now : Nat) : Nat := (p.partly.map Prod.fst).getD now

/-- Bytes 8 to 31 of a packet's record that have not been performed apart. -/
def State.bodyLeft (s : State) (p : Packet) : List (Nat × Byte) :=
  (cellsAt (s.recordAddr p + 8) (leBytes (p.bodyWord (p.bodyTime s.time)) 24)).filter fun c =>
    !((p.partly.map Prod.snd).getD []).contains c.1

/-- COMPLETION_BODY_PERFORMED: bytes 8 to 31, what is left of them. It waits with the page of the record (R185, R206), as the header does. -/
def execCompletionBodyPerformed (s : State) : Out :=
  let id := s.cur
  let p := s.packet id
  if p.phase != .body || s.heldAt (s.recordAddr p) then .next s
  else
    .next (((s.setPacket id { p with phase := .header, partly := none }).perform (s.bodyLeft p)).arrive (s.recordAddr p + 8))

/-- The bytes of the body that `which` selects are performed apart from the rest, each an event of its own (R329). -/
def State.bodyPart (s : State) (id which : Nat) : State :=
  let p := s.packet id
  let l := s.bodyLeft p
  let f := whichItem false 1 which (l.map fun c => c.1)
  let now := l.filter fun c => f c.1
  if p.phase != .body || now.any fun c => s.heldAt c.1 then s
  else
    (s.setPacket id { p with partly := some (p.bodyTime s.time, ((p.partly.map Prod.snd).getD []) ++ now.map fun c => c.1) }).perform now

/-- COMPLETION_HEADER_PERFORMED: bytes 0 to 7, in the order of the ring; then the signals, and what waited for the record. -/
def execCompletionHeaderPerformed (s : State) : Out :=
  let id := s.cur
  let p := s.packet id
  let before (v : Packet) : Bool := v.queue == p.queue && decide (v.order < p.order) && (v.phase == .body || v.phase == .header)
  if p.phase != .header || s.heldAt (s.recordAddr p) || s.lfe.packets.any fun e => before e.2 then .next s
  else
    let s1 := (s.perform (cellsAt (s.recordAddr p) (leBytes (p.headWord (s.queue p.queue).clog) 8))).arrive (s.recordAddr p)
    .next (((s1.postSignals id).scanStep p.queue id).queueResets)

/-- INTERRUPT_EVENT: the packet's vector, once its signals have been performed. -/
def execInterruptEvent (s : State) : Out :=
  let id := s.cur
  let p := s.packet id
  if p.phase != .signalled || p.done || p.sigs != 0 || !p.interrupts then .next s
  else .next ((((s.interrupt p.func p.vector).setPacket id { p with done := true }).prune).flrs)

end Sys2Proof.Machine
end

