-- ==== Sys2Proof/Machine/Control.lean ====
section
/-! DEFINITION. Control flow of the slice: branches, prepared branches, calls, counted loops, TEND (07_control_slice.md
R166 to R172), and the two decode failures that raise a trap (02_instruction_words.md R44, R55 to R57). -/

namespace Sys2Proof.Machine

/-- Target of a word displacement from an instruction's own address (R26). -/
def wordTarget (k : Task) (disp : Int) : Nat := plus k.pc (disp * 4)

def execBr (disp : BitVec 24) (s : State) : Out := onSlice s [] fun k => s.jump (wordTarget k disp.toInt)

/-- CALL writes x63 before the landing check (R166). -/
def execCall (disp : BitVec 24) (s : State) : Out :=
  onSlice s [63] fun k => (s.now (k.wx 63 (BitVec.ofNat 64 (k.pc + 4)))).jump (wordTarget k disp.toInt)

/-- The mould of R167. -/
def condBranch (s : State) (a b : Reg) (disp : BitVec 12) (p : W64 → W64 → Bool) : Out :=
  branch s [a, b] (fun k => p (k.rx a) (k.rx b)) fun k => wordTarget k disp.toInt

def execBeq (a b : Reg) (disp : BitVec 12) (s : State) : Out := condBranch s a b disp fun x y => decide (x = y)
def execBne (a b : Reg) (disp : BitVec 12) (s : State) : Out := condBranch s a b disp fun x y => decide (x ≠ y)
def execBlt (a b : Reg) (disp : BitVec 12) (s : State) : Out := condBranch s a b disp fun x y => decide (x.toInt < y.toInt)
def execBge (a b : Reg) (disp : BitVec 12) (s : State) : Out := condBranch s a b disp fun x y => decide (y.toInt ≤ x.toInt)
def execBltu (a b : Reg) (disp : BitVec 12) (s : State) : Out := condBranch s a b disp fun x y => decide (x.toNat < y.toNat)
def execBgeu (a b : Reg) (disp : BitVec 12) (s : State) : Out := condBranch s a b disp fun x y => decide (y.toNat ≤ x.toNat)

/-- Line of 64 bytes of the instruction cache that holds an address (R153). -/
def lineOf (a : Nat) : Nat := a / 64 * 64

/-- The slice begins fetching the target's bundle (R168): its line comes into the cache if it lies in the image. Where its page is held,
the fetch has brought nothing yet, and fetch at the target asks again (R153, R185, R206). -/
def State.preload (s : State) (k : Task) (target : Nat) : State :=
  match s.fetch k target with
  | none => s
  | some _ =>
    let co := s.core k.coreKey
    let a := s.imageAt k (lineOf target)
    if co.icache.contains (lineOf target) || a.any s.heldAt then s
    else (s.arriveAll a.toList).setCore k.coreKey { co with icache := (lineOf target :: co.icache).take 4096 }

/-- PBR: b is its own address plus the byte displacement (R168). -/
def execPbr (bd : Reg) (imm : W32) (s : State) : Out :=
  onDecode s [] (operand (decide (7 < bd.toNat) || decide (imm.toNat % 4 ≠ 0))) fun k =>
    let target := plus k.pc imm.toInt
    (s.preload k target).now ((k.wb bd (BitVec.ofNat 64 target)).adv 8)

/-- BRT in its three forms (R169). -/
def brtForm (s : State) (bd : Reg) (regs : List Reg) (taken : Task → Bool) : Out :=
  onDecode s regs (operand (decide (7 < bd.toNat))) fun k => if taken k then s.jump (k.rb bd).toNat else s.now (k.adv 4)

def execBrt (bd : Reg) (s : State) : Out := brtForm s bd [] fun _ => true
def execBrtNz (bd a : Reg) (s : State) : Out := brtForm s bd [a] fun k => decide (k.rx a ≠ 0)
def execBrtZ (bd a : Reg) (s : State) : Out := brtForm s bd [a] fun k => decide (k.rx a = 0)

/-- RET (R170). -/
def execRet (s : State) : Out :=
  onSlice s [63] fun k => if (k.rx 63).toNat % 4 ≠ 0 then s.slip 0x03 k.pc 0 else s.jump (k.rx 63).toNat

/-- LOOP enters its body, or goes past its ENDL with a trip count of 0 (R171). -/
def execLoop (n b : Reg) (disp : BitVec 12) (s : State) : Out :=
  onDecode s [b] (operand (decide (3 < n.toNat))) fun k =>
    let k1 := k.wlc n (k.rx b)
    if k.rx b = 0 then (s.now k1).jump (plus (wordTarget k disp.toInt) 4) else s.now (k1.adv 4)

/-- ENDL counts down and goes back, or falls through (R171). -/
def execEndl (n : Reg) (disp : BitVec 12) (s : State) : Out :=
  onDecode s [] (operand (decide (3 < n.toNat))) fun k =>
    if (k.rlc n).toNat ≤ 1 then s.now ((k.wlc n 0).adv 4)
    else (s.now (k.wlc n (k.rlc n - 1))).jump (wordTarget k disp.toInt)

/-- TEND is refused in context F and in a handler (R172). -/
def tendBad (k : Task) : Option Byte := if k.fw || k.inTrap then some 0x03 else none

/-- TEND: the context stops fetch and issue; the task waits to retire (R172). -/
def execTend (s : State) : Out := onDecode s [] tendBad fun k => (s.now { k with phase := .ended, waitQ := none }).afterTend s.cur

/-- A word that is no instruction raises its cause at decode; `delta`: 4 where the word found illegal follows a prefix
(R22, R25, R46, R55, R57). An illegal selector of TSTAT is an illegal operand (R239). -/
def execIllegalEncoding (why : Reject) (delta : BitVec 4) (s : State) : Out :=
  match find s.tasks s.cur with
  | none => .fault .noTask
  | some k => .next (s.slip (match why with | .operand => 0x03 | _ => 0x01) (k.pc + delta.toNat) 0)

/-- A prefix that cannot bind raises orphan prefix (R44). The word recorded as faulting is the prefix; R46 does not say that it is not the
word after it (DESIGN CHOICE, log 49). -/
def execOrphanPrefix (s : State) : Out :=
  match find s.tasks s.cur with
  | none => .fault .noTask
  | some k => .next (s.slip 0x02 k.pc 0)

end Sys2Proof.Machine
end

