-- ==== Sys2Proof/Machine/Tiles.lean ====
section
/-! DEFINITION. The tile instructions and the end of a tile fill (09_tile_store.md R214 to R239). -/

namespace Sys2Proof.Machine

/-! ### Slots as an instruction finds them -/

/-- Begin the passing of a physical slot to task t, unless a passing is under way (R358). -/
def State.passSlot (s : State) (t : Nat) (k : Task) (n : Nat) (restore : Bool) : State :=
  let co := s.core k.coreKey
  let u := 16 + k.phys n
  let x := get PUnit.empty co.units u
  if x.pass != .idle then s
  else s.setCore k.coreKey { co with units := put PUnit.empty co.units u { x with pass := if restore then .restoring t else .saving t } }

/-- A creation waits for an EMPTY slot (R221); code 3, or 4 for TADV. -/
def Hd.slotFree (x : Hd) (s : State) (n code : Nat) : Except Head Unit :=
  match s.view x.t x.k n with
  | .empty => .ok ()
  | .beyond => .error (.fault 0x03 0 s)
  | .other => .error (.wait 9 (s.passSlot x.t x.k n false))
  | .saved => .error (.wait code (s.passSlot x.t x.k n true))
  | .tile _ => .error (.wait code s)

/-- A read or park of slot n of task ot by task t (R218, R219). -/
def State.readTile (s : State) (t ot : Nat) (ok : Task) (n : Nat) (consume : Bool) : Except Head TSlot :=
  let absent : Head := .fault 0x10 (BitVec.ofNat 64 n) s
  match s.view ot ok n with
  | .beyond | .empty | .other => .error absent
  | .saved => .error (.wait 9 (if ot = t then s.passSlot t ok n true else s))
  | .tile x =>
    if x.state == .filling then .error (.wait 5 s)
    else if shareSum x.shares = 0 ∨ (ot ≠ t ∧ shareOf x.shares t = 0) then .error absent
    else if consume ∧ shareOf x.shares t = 0 then .error absent
    else if x.poison then .error (.fault 0x40 0 s)
    else .ok x

/-- Task in the context that a holder selector names, seen from task k (R216); the one of the same packet first. -/
def State.holderOf (s : State) (t : Nat) (k : Task) (sel : Nat) : Option Nat :=
  if sel = 8 then some t
  else
    let c := s.core (96 * k.die + (k.core / 4 * 4 + sel % 4))
    let x := if sel / 4 = 0 then c.ctxA else c.ctxB
    let mine (o : Option Nat) : Bool := match o with | some v => (s.task v).packet == k.packet | none => false
    if mine x.run then x.run else if mine x.susp then x.susp else x.run

/-- The head once earlier reads of slot n of task ot have taken place (R220). -/
def Hd.flushed (x : Hd) (ot n : Nat) : Hd :=
  let s := x.s.flushTile ot n
  { x with s := s, k := s.task x.t }

/-! ### Fetch (R226) -/

/-- Rows and pitch of a shape value for a row of the given width; none if a field is illegal. -/
def shapeOf (shape : Nat) (width : Nat) : Option (Nat × Nat) :=
  let rows := shape / 2 ^ 32 % 256
  let pitch := shape % 2 ^ 32
  if shape / 2 ^ 40 ≠ 0 ∨ 128 < rows then none
  else some (if rows = 0 then 128 else rows, if pitch = 0 then width else pitch)

/-- Bytes of a source row (R226). -/
def rowWidth (tr : BitVec 2) : Nat := if tr = 0 then 512 else if tr = 1 then 128 else 256

/-- Checks of R226 for rows of a handle: cause and data. Of rows outside the page, the offset of the first is reported: R371 does not say
which byte of a fetch or of a TWB it means (DESIGN CHOICE, log 49). -/
def rowsFault (h : Handle) (perm : Bool) (off : Int) (rows pitch width : Nat) : Option (Byte × W64) :=
  if !h.v then some (0x08, BitVec.ofInt 64 off)
  else if !perm then some (0x0A, BitVec.ofInt 64 off)
  else if off < 0 ∨ (h.size : Int) < off + ((rows - 1) * pitch + width : Nat) then
    let bad (r : Nat) : Bool := decide (off + (r * pitch : Nat) < 0) || decide ((h.size : Int) < off + (r * pitch + width : Nat))
    some (0x09, BitVec.ofInt 64 (off + (((List.range rows).find? bad).getD 0 * pitch : Nat)))
  else none

/-- Values of n parts of w bits, joined with the first lowest. -/
def joinBits (w : Nat) (f : Nat → Nat) (n : Nat) : Nat := packBits w f n

/-- Place in the tile of byte j of source row r: row r of 512 bytes, or transposed (R226). -/
def fillPlace (tr : BitVec 2) (r j : Nat) : Nat :=
  if tr = 0 then 512 * r + j
  else
    let g := if tr = 1 then 1 else 2
    512 * (j / g) + g * r + j % g

/-- The reads of TileFill for physical slot p: one for each source row; 65,536 (p + 1) is added to the places (R226). -/
def fillReads (p a rows pitch : Nat) (tr : BitVec 2) (cls pos : Nat) : List Access :=
  (List.range rows).map fun r =>
    Access.read ((List.range (rowWidth tr)).map fun j => (65536 * (p + 1) + fillPlace tr r j, a + r * pitch + j)) cls pos

/-- A tile that the entry at position pos of task t fills: bytes that no source byte reaches hold zero (R226). -/
def TSlot.filling (x : TSlot) (t pos declared : Nat) (shares : List (Nat × Nat)) (poison : Bool) (tr : Nat) : TSlot :=
  { state := .filling, owner := t, declared := declared, shares := shares, gen := x.gen, poison := poison, tr := tr, filler := pos, data := 0 }

/-- Start a fetch into slot n: a fault, or the state with the slot FILLING and its reads on their way (R226, R217). -/
def Hd.fetchTile (x : Hd) (s : State) (n : Nat) (h : Handle) (off : Int) (rows pitch : Nat) (tr : BitVec 2) (count cls : Nat) :
    Except Head State :=
  let w := rowWidth tr
  match rowsFault h h.r off rows pitch w with
  | some (c, d) => .error (.fault c d s)
  | none =>
    if isDevReg h.base then .error .refuse
    else
      let a := h.addr off
      let p := x.k.phys n
      let tile := (s.tslot x.k.coreKey p).filling x.t x.e.pos count [(x.t, count)] false tr.toNat
      let k := s.task x.t
      let s1 := s.setTask x.t { k with ldqOut := k.ldqOut ++ fillReads p a rows pitch tr cls x.e.pos }
      .ok ((s1.setTslot x.k.coreKey p tile).touchAll x.k.coreKey h ((List.range rows).map fun r => a + r * pitch))

def fetchBody (f : TL) (x : Hd) : Head :=
  let n := f.ta.toNat
  match x.slotFree x.s n 3 with
  | .error h => h
  | .ok () =>
    match shapeOf x.e.xb.toNat (rowWidth f.tr) with
    | none => .fault 0x03 0 x.s
    | some (rows, pitch) =>
      match x.fetchTile x.s n x.e.h x.e.xa.toInt rows pitch f.tr f.n12.toNat (classOf f.pfx f.cls) with
      | .error h => h
      | .ok s1 => .done { s := s1, fills := [x.k.phys n], busy := true }

def execTfetch (f : TL) (s : State) : Out := routed (.tfetch f) 0 (fetchBody f) s

/-! ### Windows (R227, R230, R231) -/

/-- The window that a TWIN declares, or none where its descriptor is illegal (R227). -/
def windowOf (f : TL) (e : Entry) : Option Window :=
  let d := e.xb.toNat
  let rows := d / 2 ^ 40 % 256
  let lg := d / 2 ^ 34 % 8
  if d / 2 ^ 48 = 0 ∨ 128 < rows ∨ d / 2 ^ 37 % 8 ≠ 0 ∨ 4 < lg then none
  else
    some { pos := e.pos, first := f.ta.toNat, size := 2 ^ lg, groups := d / 2 ^ 48, rows := if rows = 0 then 128 else rows,
           pitch := if d % 2 ^ 32 = 0 then rowWidth f.tr else d % 2 ^ 32, count := f.n12.toNat, tr := f.tr.toNat,
           cls := classOf f.pfx f.cls, h := e.h, off := e.xa.toInt, next := 0, oldest := 0 }

/-- Fetch group g of a window into slot n, in the window's class or that of a PXO prefix (R228). -/
def Hd.fetchGroup (x : Hd) (s : State) (w : Window) (g n : Nat) : Except Head State :=
  x.fetchTile s n w.h (w.off + (g * w.rows * w.pitch : Nat)) w.rows w.pitch (BitVec.ofNat 2 w.tr) w.count (w.classFor x.e.instr.pfx)

/-- The TWIN has started its last initial fetch: reads that earlier tries at the head started may be over by now (R230). -/
def twinDone (x : Hd) (m : Nat) (w : Window) (s : State) : Head :=
  .done { s := s, fills := (List.range m).map fun i => x.k.phys (w.first + i),
          busy := (s.task x.t).ldqOut.any fun a => a.posOf == some x.e.pos }

/-- Initial fetches of window number wn, from its next index to m: a wait or a fault leaves the window with the index
reached (R230). -/
def twinLoop (x : Hd) (wn m : Nat) : Nat → Window → State → Head
  | 0, w, s => twinDone x m w s
  | n + 1, w, s =>
    if m ≤ w.next then twinDone x m w s
    else
      match x.slotFree s (w.first + w.next) 3 with
      | .error h => h
      | .ok () =>
        match x.fetchGroup s w w.next (w.first + w.next) with
        | .error h => h
        | .ok s1 =>
          let w1 := { w with next := w.next + 1 }
          twinLoop x wn m n w1 (s1.setTask x.t ((s1.task x.t).setWindow wn w1))

def twinBody (f : TL) (x : Hd) : Head :=
  match windowOf f x.e with
  | none => .fault 0x03 0 x.s
  | some w0 =>
    if x.k.partSize < w0.first + w0.size then .fault 0x03 0 x.s
    else
      let wn := x.e.xb.toNat / 2 ^ 32 % 4
      let w := match x.k.window wn with | some w => if w.pos = x.e.pos then w else w0 | none => w0
      twinLoop x wn (min w.size w.groups) 16 w (x.s.setTask x.t (x.k.setWindow wn w))

def execTwin (f : TL) (s : State) : Out := routed (.twin f) 0 (twinBody f) s

def tadvBody (f : TL) (x : Hd) : Head :=
  let wn := f.ta.toNat
  match x.k.window wn with
  | none => .fault 0x03 0 x.s
  | some w =>
    let n := w.first + w.oldest
    match x.slotFree x.s n 4 with
    | .error h => h
    | .ok () =>
      let old := (w.oldest + 1) % w.size
      if w.next < w.groups then
        match x.fetchGroup x.s w w.next n with
        | .error h => h
        | .ok s1 =>
          .done { s := s1.setTask x.t ((s1.task x.t).setWindow wn { w with next := w.next + 1, oldest := old }),
                  fills := [x.k.phys n], busy := true }
      else .done { s := x.s.setTask x.t (x.k.setWindow wn { w with oldest := old }) }

def execTadv (f : TL) (s : State) : Out := routed (.tadv f) 0 (tadvBody f) s

/-! ### Shares and parking (R232, R233, R235) -/

def tshareBody (f : TL) (y : Hd) : Head :=
  let n := f.ta.toNat
  let x := y.flushed y.t n
  let absent : Head := .fault 0x10 (BitVec.ofNat 64 n) x.s
  match x.s.view x.t x.k n with
  | .beyond | .empty | .other => absent
  | .saved => .wait 9 (x.s.passSlot x.t x.k n true)
  | .tile tl =>
    let sel := x.e.xa.toNat
    let c := x.e.xb.toNat
    let mine := shareOf tl.shares x.t
    if x.k.mmaReads n then .wait 5 x.s
    else if 8 < sel then .fault 0x03 0 x.s
    else if c < 1 ∨ mine < c then .fault 0x03 0 x.s
    else
      match x.s.holderOf x.t x.k sel with
      | none => .fault 0x03 0 x.s
      | some v =>
        if v = x.t then .done { s := x.s }
        else if (x.s.task v).packet ≠ x.k.packet then .fault 0x03 0 x.s
        else
          let l1 := setShare tl.shares x.t (mine - c)
          let l2 := setShare l1 v (shareOf l1 v + c)
          if 4 < l2.length then .fault 0x14 (BitVec.ofNat 64 n) x.s
          else .done { s := x.s.setTslot x.k.coreKey (x.k.phys n) { tl with shares := l2 } }

def execTshare (f : TL) (s : State) : Out := routed (.tshare f) 0 (tshareBody f) s

/-- Parked record of a name (R222). -/
def State.parkedOf (s : State) (nm : Nat) : Option Parked :=
  (get AUnit.none (s.site (nameSite nm)).arena (unitKey (nameChan nm) (nameIndex nm))).parked

/-- The parked record of a name is gone: its tile is in a slot again (R233). -/
def State.unparked (s : State) (nm : Nat) : State :=
  let st := s.site (nameSite nm)
  s.setSite (nameSite nm) { st with arena := mapUnits (fun u => { u with parked := none }) (nameChan nm) (nameIndex nm) 1 st.arena }

/-- A slot that is to be filled holds a tile of the task, in it or saved: code 3 applies (R179, R221). -/
def State.slotHeld (s : State) (t : Nat) (k : Task) (n : Nat) : Bool :=
  match s.view t k n with | .tile _ | .saved => true | _ => false

/-- TUNPARK (R233). Its name is relinquished when it completes (R242). -/
def tunparkBody (f : TL) (x : Hd) : Head :=
  let n := f.ta.toNat
  let nm := x.e.xa.toNat
  let asc := x.s.ascOf x.k
  if decide (nm < 2 ^ 48) && x.s.handing (nameSite nm) then .wait (if x.s.slotHeld x.t x.k n then 3 else 7) x.s
  else
    match x.s.blockOf asc nm, x.s.parkedOf nm with
    | some _, some p =>
      if (x.s.site (nameSite nm)).owner ≠ x.k.die then .fault 0x0C x.e.xa x.s
      else
        match x.slotFree x.s n 3 with
        | .error h => h
        | .ok () =>
          let a := nameAddr nm
          if shareSum p.shares + p.owner = 0 then .done { s := x.s.unparked nm }
          else
            let ph := x.k.phys n
            let tile := (x.s.tslot x.k.coreKey ph).filling x.t x.e.pos p.declared (setShare p.shares x.t (shareOf p.shares x.t + p.owner))
              p.poison p.tr
            let s1 := (x.s.setTslot x.k.coreKey ph tile).unparked nm
            let rs := fillReads ph a 128 512 0 (classOf f.pfx 0) x.e.pos
            .done { s := (s1.arrive a).setTask x.t { x.k with ldqOut := x.k.ldqOut ++ rs }, fills := [ph], busy := true }
    | _, _ => .fault 0x0D x.e.xa x.s

def execTunpark (f : TL) (s : State) : Out := routed (.tunpark f) 0 (tunparkBody f) s

def tparkBody (f : TL) (y : Hd) : Head :=
  let n := f.ta.toNat
  let x := y.flushed y.t n
  match x.s.readTile x.t x.t x.k n false with
  | .error (.wait c s) => .wait (if x.nrqRoom then c else min c 7) s
  | .error h => h
  | .ok tl =>
    if x.k.mmaReads n then .wait 5 x.s
    else
      match x.block 65536 with
      | .error h => h
      | .ok (s1, nm, a) =>
        let rec1 : Parked :=
          { declared := tl.declared, owner := shareOf tl.shares x.t, shares := setShare tl.shares x.t 0, tr := tl.tr, poison := tl.poison }
        let st := s1.site (nameSite nm)
        let s2 := s1.setSite (nameSite nm)
          { st with arena := mapUnits (fun u => { u with parked := some rec1 }) (nameChan nm) (nameIndex nm) 1 st.arena }
        let s3 := s2.setTslot x.k.coreKey (x.k.phys n) tl.emptied
        let k := x.k.nameOut x.hs nm
        .done { s := (s3.arrive a).setTask x.t (k.post (classOf f.pfx f.cls) x.e.pos [cellsAt a (bytesOf 65536 tl.data.toNat)]) }

def execTpark (f : TL) (s : State) : Out := routed (.tpark f) 2 (tparkBody f) s

/-! ### Tiles and registers (R234, R236, R237) -/

/-- Bits of a register with the rows never written as zero (R205). -/
def VReg.value (v : VReg) : Nat := packBits 2048 (fun r => v.elem 2048 r) 32

/-- VLDT and VLDX once the owner is known: the checks, and the read, which takes place before any later event on the tile (R219,
R220, R234). -/
def tileLoad (f : TL) (y : Hd) (ot : Nat) (ok : Task) : Head :=
  let x := y.flushed ot f.ta.toNat
  let off := x.e.xa.toNat
  if off % 256 ≠ 0 ∨ 57344 < off then .fault 0x03 0 x.s
  else
    match x.s.readTile x.t ot ok f.ta.toNat (f.c == 1) with
    | .error h => h
    | .ok _ =>
      let rd := Access.tile ot f.ta.toNat off (f.c == 1) x.e.pos
      .done { s := x.s.setTask x.t { x.k with ldqOut := x.k.ldqOut ++ [rd] }, busy := true }

def execVldt (f : TL) (s : State) : Out := routed (.vldt f) 0 (fun x => tileLoad f x x.t x.k) s

def vldxBody (f : TL) (x : Hd) : Head :=
  let sel := x.e.xb.toNat
  if 8 < sel then .fault 0x03 0 x.s
  else
    match x.s.holderOf x.t x.k sel with
    | some v => tileLoad f x v (x.s.task v)
    | none => tileLoad f x x.t { x.k with partSize := 0 }

def execVldx (f : TL) (s : State) : Out := routed (.vldx f) 0 (vldxBody f) s

def twrBody (f : TL) (x : Hd) : Head :=
  let n := f.ta.toNat
  match x.slotFree x.s n 3 with
  | .error h => h
  | .ok () =>
    let p := x.k.phys n
    let data := packBits 65536 (fun i => (x.see.rv (f.va.toNat + i)).value) 8
    let tile := (x.s.tslot x.k.coreKey p).filling x.t x.e.pos f.n12.toNat [(x.t, f.n12.toNat)] false 0
    .done { s := x.s.setTslot x.k.coreKey p { tile with data := BitVec.ofNat 524288 data } }

def execTwr (f : TL) (s : State) : Out := routed (.twr f) 2 (twrBody f) s

def twbBody (f : TL) (y : Hd) : Head :=
  let n := f.ta.toNat
  let x := y.flushed y.t n
  match x.s.readTile x.t x.t x.k n (f.c == 1) with
  | .error h => h
  | .ok tl =>
    match shapeOf x.e.xb.toNat 512 with
    | none => .fault 0x03 0 x.s
    | some (rows, pitch) =>
      let h := x.e.h
      let off := x.e.xa.toInt
      match rowsFault h h.w off rows pitch 512 with
      | some (c, d) => .fault c d x.s
      | none =>
        let starts := (List.range rows).map fun r => h.addr off + r * pitch
        if isDevReg h.base then .refuse
        else
          match x.keepsOut 512 starts with
          | some r => r
          | none =>
            let ws := (List.range rows).map fun r =>
              cellsAt (h.addr off + r * pitch) (bytesOf 512 (tl.data.toNat / 2 ^ (4096 * r) % 2 ^ 4096))
            let s1 := (x.s.touchAll x.k.coreKey h starts).setTask x.t (x.k.post (classOf f.pfx f.cls) x.e.pos ws)
            .done { s := if f.c = 1 then s1.consume x.t x.k n tl else s1 }

def execTwb (f : TL) (s : State) : Out := routed (.twb f) 2 (twbBody f) s

/-! ### Slice instructions (R238, R239) -/

/-- Every entry that the context routed earlier has issued, in the ordinary set and in the handler's, and no MMA still reads its tiles
(R238). -/
def Task.tilesRead (k : Task) : Bool :=
  let idle (q : QSet) : Bool :=
    q.ldq.entries.isEmpty && q.cmq.entries.isEmpty && q.stq.entries.isEmpty && q.cmq.issued.all fun i => !i.busy
  idle k.ord && idle k.hnd && k.ldqOut.all fun a => match a with | .tile .. => false | _ => true

/-- TSETTLE: the share of this context in a tile of the selected owner is given up. -/
def execTsettle (d a b : Reg) (s : State) : Out :=
  onDecode s [d, a, b] noFw fun k =>
    if !k.tilesRead then s
    else if 8 < (k.rx b).toNat then s.slip 0x03 k.pc 0
    else
      let t := s.cur
      let n := (k.rx a).toNat
      let zero := s.now ((k.wx d 0).adv 4)
      match s.holderOf t k (k.rx b).toNat with
      | none => zero
      | some v =>
        let ok := s.task v
        let s0 := s.flushTile v n
        match s0.view v ok n with
        | .tile tl =>
          if ok.mmaReads n then s
          else
            let c := shareOf tl.shares t
            if c = 0 then zero
            else
              let s1 := s0.setTslot ok.coreKey (ok.phys n) (tl.without t)
              s1.setTask t (((s1.task t).wx d (BitVec.ofNat 64 c)).adv 4)
        | _ => zero

def stateCode : View → Nat
  | .tile x => match x.state with | .filling => 1 | .live => 2 | _ => 0
  | .saved => 4
  | _ => 0

/-- The slot lies in the ring of a declared window (R239). -/
def Task.inRing (k : Task) (n : Nat) : Bool :=
  k.win.any fun p => match p.2 with | some w => decide (w.first ≤ n) && decide (n < w.first + w.size) | none => false

/-- Word of TSTAT for slot n (R239). -/
def statWord (s : State) (t : Nat) (k : Task) (n : Nat) : W64 :=
  if k.partSize ≤ n then 0
  else
    let v := s.view t k n
    let tl := match v with
      | .tile x => x
      | .saved => (((s.core k.coreKey).savedTiles.find? fun (y : SavedTile) => y.task == t && y.slot == n).map SavedTile.tile).getD TSlot.empty
      | _ => TSlot.empty
    let peer := tl.shares.any fun p => p.1 != t
    BitVec.ofNat 64
      ((if peer then 2 ^ 51 else 0) + (if k.inRing n then 2 ^ 50 else 0) + (s.tslot k.coreKey (k.phys n)).gen % 256 * 2 ^ 42 +
        stateCode v * 2 ^ 39 + tl.shares.length % 8 * 2 ^ 36 + shareOf tl.shares t % 4096 * 2 ^ 24 + tl.declared % 4096 * 2 ^ 12 +
        shareSum tl.shares % 4096)

def execTstat (d a : Reg) (s : State) : Out :=
  onDecode s [d, a] noFw fun k => s.now ((k.wx d (statWord s s.cur k (k.rx a).toNat)).adv 4)

/-- Word of TSTAT.p (R239). -/
def partWord (s : State) (t : Nat) (k : Task) : W64 :=
  let winv := sumNat ([0, 1, 2, 3].map fun n => if (k.window n).isSome then 2 ^ n else 0)
  let free := ((List.range k.partSize).filter fun n => match s.view t k n with | .empty | .other => true | _ => false).length
  BitVec.ofNat 64 (k.ctx % 2 * 2 ^ 22 + k.core % 4 * 2 ^ 20 + winv * 2 ^ 16 + free % 128 * 2 ^ 8 + (Nat.log2 (k.partSize / 4)) % 8)

def execTstatP (d : Reg) (s : State) : Out :=
  onDecode s [d] noFw fun k => s.now ((k.wx d (partWord s s.cur k)).adv 4)

/-- A read of the LDQ stream by the entry at position pos for physical slot p has not been performed. -/
def Access.fillsSlot (p pos : Nat) : Access → Bool
  | .read want _ n => n == pos && want.any fun c => c.1 / 65536 == p + 1
  | _ => false

/-- Reads of the entry at position pos for slot p are on their way. -/
def Task.stillFills (k : Task) (p pos : Nat) : Bool := k.ldqOut.any (Access.fillsSlot p pos)

/-- The last byte of the tile in a physical slot is written: FILLING becomes LIVE (R217). -/
def execTileFillComplete (core slot : Nat) (s : State) : Out :=
  let x := s.tslot core slot
  .next (if x.state == .filling && !(s.task x.owner).stillFills slot x.filler then s.setTslot core slot { x with state := .live } else s)

/-! ### What the reads of an entry bring (R226, R233, R250) -/

/-- Bytes read for a tile: each at its place, ored into the slot, and its poison (R217, R226). -/
def TSlot.take (x : TSlot) (l : List (Nat × Byte × Bool)) : TSlot :=
  { x with data := x.data ||| BitVec.ofNat 524288 (sumNat (l.map fun b => b.2.1.toNat * 2 ^ (8 * (b.1 % 65536)))),
           poison := x.poison || l.any fun b => b.2.2 }

/-- Table of the elements of n bytes that bytes read make up, those with a poisoned byte left out (R250). -/
def loadTable (T : Nat) (got : List (Nat × Byte × Bool)) : Array (Option (Nat × BitVec 6)) :=
  let n := width T / 8
  let A : Array (Option (Byte × Bool)) := got.foldl (fun A b => A.setIfInBounds b.1 (some b.2)) (Array.replicate 8192 none)
  tabulate (fun e =>
    let bs := (List.range n).map fun j => ((A[n * e + j]?).join).getD (0, true)
    if bs.any fun b => b.2 then none else some (wordOfBytes (bs.map fun b => b.1), 0)) (elems T)

/-- A vector load has read all: its elements land, and a poisoned byte is a fault of the entry (R250). -/
def Task.landLoad (k : Task) (i : Issued) (vd : VField) (T : Nat) : Task :=
  let tbl := loadTable T i.got
  let k1 := k.lands i.entry.pos vd fun v => v.update T fun e => ((tbl[e]?).join).map fun r => r.1
  if i.got.any fun b => b.2.2 then
    let flt : FaultRec := { cause := 0x40, addr := i.entry.pc, data := 0, src := 1, await := 0, pos := i.entry.pos }
    let hit (q : QSet) : QSet :=
      if q.ldq.issued.any fun x => x.entry.pos == i.entry.pos then { q with ldq := { q.ldq with late := q.ldq.late ++ [flt] } } else q
    { k1 with ord := hit k1.ord, hnd := hit k1.hnd }
  else k1

/-- Bytes that the LDQ entry at pos of task t has read: a load's are kept until the last (R250); a tile's go to the slot that the entry
fills, and nowhere once that tile has been settled (R217, R226). -/
def State.gotBytes (s : State) (t pos : Nat) (l : List (Nat × Byte × Bool)) : State :=
  match find s.tasks t with
  | none => s
  | some k =>
    let mine := l.filter fun b => decide (b.1 < 65536)
    let s1 := if mine.isEmpty then s else s.setTask t (k.atPos pos fun i => { i with got := i.got ++ mine })
    let slots := ((l.filter fun b => decide (65536 ≤ b.1)).map fun b => b.1 / 65536 - 1).eraseDups
    each (fun p s =>
      let x := s.tslot k.coreKey p
      if x.state == .filling && x.owner == t && x.filler == pos then
        s.setTslot k.coreKey p (x.take (l.filter fun b => b.1 / 65536 == p + 1))
      else s) slots s1

/-- After a read: an entry that has none left lands its data (R242, R250). -/
def State.landEntry (s : State) (t pos : Nat) : State :=
  match find s.tasks t with
  | none => s
  | some k =>
    if k.ldqOut.any fun a => a.posOf == some pos then s
    else
      match k.issuedAt pos with
      | none => s
      | some i =>
        match i.entry.instr with
        | .vld f | .vlds f | .vgath f => s.setTask t (k.landLoad i f.v f.ty.toNat)
        | _ => s.setTask t (k.atPos pos fun i => { i with busy := false })

end Sys2Proof.Machine
end

