-- ==== Sys2Proof/Machine/Matrix.lean ====
section
/-! DEFINITION. The matrix unit: MMA and its micro-steps, and the accumulator moves (11_matrix_and_routing.md R263 to R280;
03_numbers.md R80 to R82). -/

namespace Sys2Proof.Machine

/-! ### Accumulators (R265) -/

def Task.racc (k : Task) (n : Nat) : Accum := get Accum.empty k.acc n

def Task.wacc (k : Task) (n : Nat) (a : Accum) : Task := { k with acc := put Accum.empty k.acc n a }

/-- Bits of acc(i, j); a row never written reads zero (R205). -/
def Accum.elem (a : Accum) (i j : Nat) : Nat :=
  if a.written.getLsbD i then a.bits.toNat / 2 ^ (32 * (128 * i + j)) % 2 ^ 32 else 0

/-- Write the rows that act selects, which become written. -/
def Accum.setRows (a : Accum) (act : Nat → Bool) (f : Nat → Nat → Nat) : Accum :=
  let row (i : Nat) : Nat := if act i then packBits 32 (f i) 128 else a.bits.toNat / 2 ^ (4096 * i) % 2 ^ 4096
  { bits := BitVec.ofNat 524288 (packBits 4096 row 128),
    written := a.written ||| BitVec.ofNat 128 (maskOf act 128) }

/-- Active rows of an MX entry: its mask bits, within a PXR range (R276). -/
def Hd.rows (x : Hd) (f : MX) (i : Nat) : Bool :=
  let m := x.see.rm f.mask.toNat
  let (lo, hi) := rowRange f.pfx
  decide (i < 128) && m.getLsbD i && decide (4 * lo ≤ i) && decide (i ≤ 4 * hi + 3)

/-! ### Operands of an MMA (R263, R267, R278) -/

/-- Element type of a format code (R267). -/
def formatType (c : Nat) : Nat := match c with | 0 => 1 | 1 => 2 | 2 => 3 | 3 => 4 | 4 => 7 | _ => 5

/-- Reduction length for an operand width (R263). -/
def reduction (w : Nat) : Nat := 4096 / w

/-- Scale that an operand's element takes: block scale times band scale, with the flags of the products. -/
def scaleBy (mode : Nat) (blk band : Nat) (x : Num) : Num × BitVec 6 :=
  let (y, f) := if mode = 2 then mulN x (valueOf 6 blk) else (x, 0)
  let (z, g) := if mode = 0 then (y, 0) else mulN y (valueOf 1 band)
  (z, f ||| g)

/-- Value of element k of row i of an operand tile: format type T, scale mode, register of block scales, band scales of
rows 0 to 63 and 64 to 127 (R278). -/
def mmaVal (t : Task) (tile : Nat) (T mode reg band0 band1 : Nat) (i k : Nat) : Num × BitVec 6 :=
  let b := tile / 2 ^ (4096 * i + width T * k) % 2 ^ width T
  let blk := if mode = 2 then (t.rv (reg + i / 64)).byte (i % 64 * 128 + k / 8) else 0
  scaleBy mode blk (if i < 64 then band0 else band1) (valueOf T b)

/-- A product of i8 operands is an exact integer: its zero has no sign (R278). -/
def wholeN (x : Num) : Num := match x with | .fin _ 0 d => .fin false 0 d | y => y

/-- Exact sum of a group's products (R80); whole: of i8 operands. -/
def groupSum (whole : Bool) (a b : Array (Num × BitVec 6)) (n : Nat) : Num × BitVec 6 :=
  let ps := (List.range n).map fun k =>
    let x := (a[k]?).getD (.fin false 0 1, 0)
    let y := (b[k]?).getD (.fin false 0 1, 0)
    let (p, f) := mulN x.1 y.1
    (if whole then wholeN p else p, f ||| x.2 ||| y.2)
  let (s, f) := sumN (ps.map fun p => p.1)
  (s, f ||| orFlags (ps.map fun p => p.2))

/-- acc(i, j) after one reduction group: two roundings to f32 with rne (R80, R81). -/
def groupStep (md : Mode) (old : Nat) (s : Num) : Nat × BitVec 6 :=
  let (r, f) := roundTo s 0 md 0
  let (t, g) := addN false (valueOf 0 old) (valueOf 0 r)
  let (u, h) := roundTo t 0 md 0
  (u, f ||| g ||| h)

/-- Micro-step g of an MMA: the accumulator and the flags (R270, R278). -/
def microStep (t : Task) (f : MX) (m : MmaRun) (ta tb : Nat) : Accum × BitVec 6 :=
  let d := m.desc.toNat
  let band := m.band.toNat
  let A := formatType (d % 8)
  let B := formatType (d / 8 % 8)
  let ma := d / 64 % 4
  let mb := d / 256 % 4
  let md : Mode := { modeOf f.pfx with rnd := 0 }
  let acc := t.racc m.acc
  let act (i : Nat) : Bool := m.rows.getLsbD i
  let cols (b : Nat) : Nat := band / 2 ^ (16 * b) % 65536
  let va := tabulate (fun i => if act i then
    tabulate (fun k => mmaVal t ta A ma f.va.toNat (cols 0) (cols 1) i (32 * m.next + k)) 32 else #[]) 128
  let vb := tabulate (fun j => tabulate (fun k => mmaVal t tb B mb f.vb.toNat (cols 2) (cols 3) j (32 * m.next + k)) 32) 128
  let res := tabulate (fun i => if act i then
    tabulate (fun j =>
      let (s, fl) := groupSum (A == 7) ((va[i]?).getD #[]) ((vb[j]?).getD #[]) 32
      let (u, g) := groupStep md (acc.elem i j) s
      (u, fl ||| g)) 128 else #[]) 128
  (acc.setRows act fun i j => ((((res[i]?).getD #[])[j]?).getD (0, 0)).1,
   mmaFlags (res.foldl (fun a r => r.foldl (fun a p => a ||| p.2) a) 0))

/-- Micro-steps of an MMA with the given format (R270). -/
def microSteps (m : MmaRun) : Nat := reduction (width (formatType (m.desc.toNat % 8))) / 32

/-! ### MMA (R278) -/

/-- Code of a read that waits: 5 while a tile is FILLING, 9 while it is SAVED (R219); a fault comes before any wait. -/
def waitOf : Except Head TSlot → Nat
  | .error (.wait c _) => c
  | .error _ => 0
  | .ok _ => 9

/-- Code of a read that waits; 9 of one that does not: a fault is raised only with a format entry there (R268, R278). -/
def codeOf : Except Head TSlot → Nat
  | .error h => h.code
  | .ok _ => 9

/-- An MMA issues: its format entry is popped, and its reads and its hold on the unit begin (R266, R268, R278). -/
def mmaBody (f : MX) (y : Hd) : Head :=
  let x := (y.flushed y.t f.ta.toNat).flushed y.t f.tb.toNat
  match x.s.readTile x.t x.t x.k f.ta.toNat (f.ac == 1), x.s.readTile x.t x.t x.k f.tb.toNat (f.bc == 1), x.k.fmtq with
  | ra, rb, [] => .wait (min 6 (min (codeOf ra) (codeOf rb))) x.s
  | ra, rb, (desc, band) :: r =>
    match ra, rb with
    | .error h, .error g => if waitOf (.error h) ≤ waitOf (.error g) then h else g
    | .error h, _ => h
    | _, .error h => h
    | .ok _, .ok _ =>
      let run : MmaRun :=
        { acc := f.acc.toNat, next := 0, rows := BitVec.ofNat 128 (maskOf (x.rows f) 128), desc := desc, band := band, stopped := false, held := true }
      let co := x.s.core x.k.coreKey
      let s1 := x.s.setCore x.k.coreKey { co with mmas := co.mmas + 1 }
      .done { s := s1.setTask x.t { x.k with fmtq := r, mma := some run }, busy := true }

def execMma (f : MX) (s : State) : Out := routed (.mma f) 1 (mmaBody f) s

/-- Data of the tile in slot n of task t. -/
def State.tileData (s : State) (t : Nat) (k : Task) (n : Nat) : Nat :=
  match s.view t k n with
  | .tile x => x.data.toNat
  | _ => 0

/-- The end of an MMA's read of slot n: a consuming read is counted, and a tile whose last share went while the MMA read it empties
(R217, R270). Reads that have issued take place first (R220). -/
def State.consumeSlot (s0 : State) (t : Nat) (k : Task) (n : Nat) (c : Bool) : State :=
  let s := s0.flushTile t n
  match s.view t k n with
  | .tile x => if c then s.consume t k n x else s.setShares k.coreKey (k.phys n) x x.shares
  | _ => s

/-- The issued MMA after one more group: flags, and no longer busy at the end. -/
def Issued.stepped (i : Issued) (fl : BitVec 6) (last : Bool) : Issued :=
  if i.busy then { i with flags := i.flags ||| fl, busy := !last } else i

/-- The accumulator set is task t's to use: it stands, though another context may wait for it, or its claim back starts (R265). -/
def State.claimSet (s : State) (t : Nat) (k : Task) : Bool × State :=
  if (get PUnit.empty (s.core k.coreKey).units 12).holder = some t ∧ !k.saved.contains 12 then (true, s) else s.claim t k 12

/-- The tile in slot n of task t is in its slot, or its restoring starts (R225). -/
def State.claimTile (s : State) (t : Nat) (k : Task) (n : Nat) : Bool × State :=
  match s.view t k n with
  | .saved => (false, s.passSlot t k n true)
  | _ => (true, s)

/-- An MMA that had stopped takes the matrix unit again, once its context issues, the unit is free, and its accumulators and its
tiles are there (R265, R269, R270, R356). -/
def State.resumeMma (s : State) (t : Nat) (k : Task) (f : MX) (m : MmaRun) : State :=
  if !k.headsRun false || s.matrixBusy t k || (s.core k.coreKey).strip then s
  else
    let (a, s1) := s.claimSet t k
    let (b, s2) := s1.claimTile t k f.ta.toNat
    let (c, s3) := s2.claimTile t k f.tb.toNat
    if a && b && c then (s3.setTask t { k with mma := some { m with held := true } }).tookMatrix t k (.mma f) else s3

/-- The running MMA finishes a micro-step; in a drain it then stops (R270, R349). A stopped MMA does nothing; one that may go on first
takes the unit again. Block scales are read as R243 lets them be seen. -/
def execMmaMicroStep (s : State) : Out :=
  let t := s.cur
  let k := s.task t
  match k.mma, k.ord.cmq.issued.find? fun i => i.busy with
  | some m, some it =>
    match it.entry.instr with
    | .mma f =>
      if m.stopped then .next s
      else if !m.held then .next (s.resumeMma t k f m)
      else
        let (kv, s0) := s.seen k false 1 (it.entry.instr.blockScales m.desc)
        let (acc, fl) := microStep kv f m (s.tileData t k f.ta.toNat) (s.tileData t k f.tb.toNat)
        let last := decide (microSteps m ≤ m.next + 1)
        let stop := !k.headsRun false
        let q := k.ord.cmq
        let q1 := { q with issued := q.issued.map fun i => i.stepped fl last }
        let k1 := { k.wacc m.acc acc with
          ord := { k.ord with cmq := q1 },
          mma := if last then none else some { m with next := m.next + 1, stopped := stop, held := !stop } }
        let s1 := s0.setTask t k1
        .next (if last then (s1.consumeSlot t k1 f.ta.toNat (f.ac == 1)).consumeSlot t k1 f.tb.toNat (f.bc == 1) else s1)
    | _ => .next s
  | _, _ => .next s

/-! ### ACCZ, ACCLD, ACCRD (R279, R280) -/

def acczBody (f : MX) (x : Hd) : Head :=
  .done { s := x.s.setTask x.t (x.k.wacc f.acc.toNat ((x.k.racc f.acc.toNat).setRows (x.rows f) fun _ _ => 0)) }

def execAccz (f : MX) (s : State) : Out := routed (.accz f) 1 (acczBody f) s

/-- Element E of a run of registers of type T from field f, or what a special gives element E (R280). -/
def runSrc (x : Hd) (T : Nat) (f : VField) (E : Nat) : Nat :=
  let n := elems T
  if isVReg f then (x.see.rv (f.toNat + E / n)).elem (width T) (E % n) else x.src T f E

def accldBody (f : MX) (x : Hd) : Head :=
  let T := f.ty.toNat
  let val (i j : Nat) : Nat := (roundTo (valueOf T (runSrc x T f.va (128 * i + j))) 0 Mode.default 0).1
  .done { s := x.s.setTask x.t (x.k.wacc f.acc.toNat ((x.k.racc f.acc.toNat).setRows (x.rows f) val)) }

def execAccld (f : MX) (s : State) : Out := routed (.accld f) 1 (accldBody f) s

/-- Results for a run of registers: register j of the run takes elements j times Elems(T) upward. -/
def Task.setRun (k : Task) (vd : VField) (T n : Nat) (tbl : Array (Option (Nat × BitVec 6))) : Task :=
  if isVReg vd then
    each (fun j k => k.wv (vd.toNat + j) ((k.rv (vd.toNat + j)).update T fun e => ((tbl[elems T * j + e]?).join).map fun r => r.1))
      (List.range n) k
  else k

def accrdBody (f : MX) (x : Hd) : Head :=
  let T := f.ty.toNat
  let md := modeOf f.pfx
  let a := x.k.racc f.acc.toNat
  let act := x.rows f
  let sc := x.src 0 f.vb
  let tbl := tabulate (fun E =>
    let i := E / 128
    if act i then
      let (v, fl) := mulN (valueOf 0 (a.elem i (E % 128))) (valueOf 0 (sc i))
      let (r, g) := roundTo v T md (x.rand md E)
      some (r, fl ||| g)
    else none) 16384
  .done { s := x.s.setTask x.t (x.k.setRun f.va T (accRun T) tbl), flags := tableFlags tbl }

def execAccrd (f : MX) (s : State) : Out := routed (.accrd f) 1 (accrdBody f) s

end Sys2Proof.Machine
end

