-- ==== Sys2Proof/Machine/Convert.lean ====
section
/-! DEFINITION. VCVT and VQNT (11_matrix_and_routing.md R281, R282; 03_numbers.md R78, R79). -/

namespace Sys2Proof.Machine

/-- Band scale of a scale register: the bf16 in bytes 4,096 and 4,097 (R281). -/
def bandOf (v : VReg) : Num := valueOf 1 (v.elem 16 2048)

/-- Block scale and band scale of element e under a PXS mode (R43, R281). -/
def cvtScale (mode : Nat) (v : VReg) (e : Nat) : Num × Num :=
  let one := ofInt 1
  match mode with
  | 0 => (valueOf 6 (v.byte (e / 8)), bandOf v)
  | 1 => (one, one)
  | _ => (one, bandOf v)

/-- One element of VCVT: exact value of S, scaled, rounded to D (R281). -/
def cvtElem (D S : Nat) (mode : Nat) (md : Mode) (v : VReg) (e bits r : Nat) : Nat × BitVec 6 :=
  let x := valueOf S bits
  let (blk, band) := cvtScale mode v e
  let (y, f) :=
    if isScaled S then
      let (p, f) := mulN x blk
      let (q, g) := mulN p band
      (q, f ||| g)
    else if isScaled D then
      let (p, f) := mulN blk band
      let (q, g) := divN x p
      (q, f ||| g)
    else (x, 0)
  let (b, h) := roundTo y D { md with conv := isInt D && !isInt S } r
  (b, f ||| h)

def cvtBody (f : V4) (x : Hd) : Head :=
  let D := f.ty.toNat
  let S := f.vc.toNat
  let N := narrowOf D S
  let md := modeOf f.pfx
  let act := x.active f.pfx f.mask N
  let v := if isVReg f.vb then x.see.rv f.vb.toNat else VReg.empty
  let mode := scaleMode f.pfx
  let tbl := tabulate (fun e => if act e then some (cvtElem D S mode md v e (runSrc x S f.va e) (x.rand md e)) else none) (elems N)
  .done { s := x.s.setTask x.t (x.k.setRun f.vd D (cvtRun D S) tbl), flags := tableFlags tbl }

def execVcvt (f : V4) (s : State) : Out := routed (.vcvt f) 1 (cvtBody f) s

/-! ### VQNT (R282, R79) -/

/-- Greatest magnitude of a list, NaN apart. -/
def amaxN : List Num → Num
  | [] => .fin false 0 1
  | v :: r => if v.isNan then amaxN r else minmaxN true false (absN v) (amaxN r)

/-- Block scale of R79: the least e3m5 value not below amax / 6, or the greatest. -/
def blockScale (amax : Num) : Nat :=
  match amax with
  | .fin _ n d => if n = 0 then 0 else if 189 * d < n then 0xFF else (roundTo (.fin false n (6 * d)) 6 { Mode.default with rnd := 3 } 0).1
  | _ => 0xFF

/-- Code of one element of a block under its scale (R79). -/
def packElem (rnd : Nat) (scale : Nat) (r : Nat) (v : Num) : Nat × BitVec 6 :=
  let (q, f) := divN v (valueOf 6 scale)
  let (b, g) := roundTo q 5 { rnd := rnd, sat := 1, nan := 0, conv := false } r
  (b, f ||| g)

/-- Results for block b: the scale, and the code and flags of each active element; none without an active element (R282). -/
def quantBlock (x : Hd) (f : V4) (act : Nat → Bool) (band : Num) (b : Nat) : Option (Nat × List (Nat × (Nat × BitVec 6))) :=
  let md := modeOf f.pfx
  let es := ((List.range 8).map fun j => 8 * b + j).filter act
  if es.isEmpty then none
  else if band.isNan || band.isZero || (match band with | .inf _ => true | _ => false) then
    some (0, es.map fun e => (e, (0, flagNV)))
  else
    let vs := es.map fun e => (e, (divN (valueOf f.ty.toNat (runSrc x f.ty.toNat f.va e)) band).1)
    let sc := blockScale (amaxN (vs.map fun p => p.2))
    some (sc, vs.map fun p => (p.1, packElem md.rnd sc (x.rand md p.1) p.2))

def qntBody (f : V4) (x : Hd) : Head :=
  let act := x.active f.pfx f.mask 5
  let band := if scaleMode f.pfx = 1 then ofInt 1 else bandOf (x.see.rv f.vb.toNat)
  let blocks := tabulate (quantBlock x f act band) 2048
  let scales : Array (Option (Nat × BitVec 6)) := blocks.map fun b => b.map fun p => (p.1, 0)
  let none' : Array (Option (Nat × BitVec 6)) := Array.replicate 16384 none
  let codes := blocks.foldl (fun tbl b =>
    match b with
    | none => tbl
    | some p => p.2.foldl (fun tbl c => tbl.setIfInBounds c.1 (some c.2)) tbl) none'
  let v := x.k.rv f.vc.toNat
  let v1 := v.update 11 fun e => ((scales[e]?).join).map fun r => r.1
  .done { s := x.s.setTask x.t ((x.k.wv f.vc.toNat v1).setElems f.vd 5 codes), flags := tableFlags codes }

def execVqnt (f : V4) (s : State) : Out := routed (.vqnt f) 1 (qntBody f) s

end Sys2Proof.Machine
end

