-- ==== Sys2Proof/Machine/Engines.lean ====
section
/-! DEFINITION. The work of the copy engines by kind (12_copy_engines.md R300 to R315, R322), and of the routing engine
(11_matrix_and_routing.md R283 to R287). -/

namespace Sys2Proof.Machine

/-! ### One element (R292) -/

/-- Add n bytes at a to a list of ranges, the last of which may end there. -/
def addRange (l : List (Nat × Nat)) (a n : Nat) : List (Nat × Nat) :=
  match l.getLast? with
  | some (b, m) => if b + m = a then l.dropLast ++ [(b, m + n)] else l ++ [(a, n)]
  | none => [(a, n)]

/-- Pairs of address and byte of an integer written to a list of addresses. -/
def cellsTo (pas : List Nat) (v : Nat) : List (Nat × Byte) := pas.zip (leBytes v pas.length)

/-- The per-row signals of a command, in flight in any order (R294). -/
def State.rowSignals (s : State) (c : Cmd) : State :=
  let l := c.signals.map fun e => ({ file := c.file, counter := e.1, delta := e.2, abort := false, packet := none } : Sig)
  { s with lfe := { s.lfe with signals := s.lfe.signals ++ l } }

/-- Element c.progress has been applied to some addresses (R301). -/
def Cmd.applied (c : Cmd) (pas : List Nat) : Cmd :=
  { c with progress := c.progress + 1, count := c.count + 1, part := [], wrote := addRange c.wrote (pas.headD 0) pas.length }

/-- The bytes of element c.progress leave for memory (R292, R301). -/
def State.elementDone (s : State) (id : Nat) (c : Cmd) (pas : List Nat) (v : Nat) : State :=
  s.setCmd id { c.applied pas with flight := c.flight ++ [{ row := c.progress / c.rowLen, cells := cellsTo pas v }] }

/-- The post at place n may be performed: those before it have been, but for other rows of a command that signals by rows (R292, R294,
Test 10; log 12). -/
def Cmd.mayPost (c : Cmd) (n : Nat) (p : Post) : Bool :=
  (c.flight.take n).all fun q => c.byRows && q.row != p.row && q.cells.all fun e => p.cells.all fun g => g.1 != e.1

/-- Every byte of row r has been performed (R294). -/
def Cmd.rowDone (c : Cmd) (r : Nat) : Bool := decide ((r + 1) * c.rowLen ≤ c.progress) && c.flight.all fun q => q.row != r

/-- The n-th write in flight of command id is performed, in whole or in the chunks that the bits of which number; a row that is whole
signals (R292, R294, R320, R329). -/
def State.performPost (s : State) (id n which : Nat) : State :=
  let c := s.cmd id
  match c.flight[n]? with
  | none => s
  | some p =>
    let f := whichItem false 8 which (p.cells.map fun e => e.1)
    let now := p.cells.filter fun e => f e.1
    let rest := p.cells.filter fun e => !f e.1
    let pas := now.map fun e => e.1
    if !c.mayPost n p || pas.any s.heldAt || s.blocked id c true pas then s
    else
      let c1 := { c with flight := if rest.isEmpty then dropAt c.flight n else setAt c.flight n { p with cells := rest } }
      let s1 := ((s.setCmd id c1).perform now).arrive (pas.headD 0)
      if c.byRows && rest.isEmpty && c1.rowDone p.row then s1.rowSignals c1 else s1

/-- Rounding, saturation and operation codes of an ACCW (R302). -/
def Cmd.op (c : Cmd) : Nat := bits (c.d 5) 11 8
def Cmd.ty (c : Cmd) : Nat := bits (c.d 5) 15 12
def Cmd.sty (c : Cmd) : Nat := bits (c.d 5) 19 16
def Cmd.rnd (c : Cmd) : Nat := bits (c.d 5) 22 20
def Cmd.sat (c : Cmd) : Nat := bits (c.d 5) 24 23

/-- The new element of an ACCW step and its flags (R303): old bits of type ty, source bits of type sty. -/
def accumulate (op ty sty rnd sat : Nat) (old x : Nat) : Nat × BitVec 6 :=
  let a := valueOf ty old
  let b := valueOf sty x
  if op = 0 then
    let (v, f) := addN (rnd == 2) a b
    let (r, g) := roundTo v ty { rnd := if isInt ty then 0 else rnd, sat := sat, nan := 0, conv := false } 0
    (r, f ||| g)
  else if op ≤ 2 then roundTo (minmaxN (op == 2) false a b) ty Mode.default 0
  else if op = 3 then (old &&& x, 0)
  else if op = 4 then (old ||| x, 0)
  else (old ^^^ x, 0)

/-- A step of command id, whose element is now counted, is performed at once; a row that is whole signals (R292, R294, R303). -/
def State.stepDone (s : State) (id : Nat) (c : Cmd) (pas : List Nat) (v : Nat) : State :=
  let s1 := ((s.setCmd id c).perform (cellsTo pas v)).arrive (pas.headD 0)
  if c.byRows && c.progress % c.rowLen == 0 then s1.rowSignals c else s1

/-- COPY and ACCW: element c.progress of a local command (R301, R303). A step reads its destination without read permission
(log 27). -/
def State.moveElement (s : State) (id : Nat) (c : Cmd) : State :=
  match s.fetchBytes id c false c.sform (c.d 3) (c.walkSrc c.progress) c.ssz with
  | (.stop r, _, c1) => s.stopAt id c1 r
  | (.ok l, x, c1) =>
    match s.reachAll true c.dform (c.d 4) (c.walkDst c.progress) c.dsz c1 with
    | (.stop r, c2) => s.stopAt id c2 r
    | (.ok pas, c2) =>
      let s1 := s.arrive (l.headD 0)
      if c.work = 0 then s1.elementDone id c2 pas x
      else if pas.any s.heldAt || s.blocked id c2 true pas then s.setCmd id c2
      else if pas.any s.bad then s.stopAt id c2 (.fails 0x40)
      else
        let (v, f) := accumulate c.op c.ty c.sty c.rnd c.sat (wordOfBytes (pas.map s.byte)) x
        s1.stepDone id { c2.applied pas with flags := c2.flags ||| f } pas v

/-- FILL: element c.progress (R311). -/
def State.fillElement (s : State) (id : Nat) (c : Cmd) : State :=
  match s.reachAll true c.dform (c.d 4) (c.walkDst c.progress) c.dsz c with
  | (.stop r, c1) => s.stopAt id c1 r
  | (.ok pas, c1) => s.elementDone id c1 pas (c.d 3)

/-- One rotated value: the product of the first two rounded, then plus or minus the exact product of the others (R306). -/
def rotated (a c b s : Num) : Nat × BitVec 6 :=
  let (p, f1) := mulN a c
  let (m, f2) := roundTo p 0 Mode.default 0
  let (q, f3) := fmaN false b s (floatValue 0 m)
  let (y, f4) := roundTo q 0 Mode.default 0
  let (z, f5) := roundTo (floatValue 0 y) 1 Mode.default 0
  (z, f1 ||| f2 ||| f3 ||| f4 ||| f5)

/-- Position delta of a ROTATE (R305). -/
def Cmd.delta (c : Cmd) : Int := strideOf (c.d 5) true

/-- ROTATE: pair c.progress (R306). -/
def State.rotateElement (s : State) (id : Nat) (c : Cmd) : State :=
  let row := c.progress / c.pairs
  let i := c.progress % c.pairs
  match s.fetchBytes id c false c.sform (c.d 3) (row * bits (c.d 8) 31 0 + 4 * i : Nat) 4 with
  | (.stop r, _, c1) => s.stopAt id c1 r
  | (.ok l, ab, c1) =>
    match s.fetchBytes id c1 true (bits (c.d 5) 5 4) (c.d 6) (8 * (c.delta.natAbs * c.pairs + i) : Nat) 8 with
    | (.stop r, _, c2) => s.stopAt id c2 r
    | (.ok m, cs, c2) =>
      match s.reachAll true c.dform (c.d 4) (row * bits (c.d 8) 63 32 + 4 * i : Nat) 4 c2 with
      | (.stop r, c3) => s.stopAt id c3 r
      | (.ok pas, c3) =>
        let a := floatValue 1 (ab % 65536)
        let b := floatValue 1 (ab / 65536)
        let co := floatValue 0 (cs % 2 ^ 32)
        let si := if c.delta < 0 then negN (floatValue 0 (cs / 2 ^ 32)) else floatValue 0 (cs / 2 ^ 32)
        let (y0, f0) := rotated a co (negN b) si
        let (y1, f1) := rotated a si b co
        ((s.arrive (l.headD 0)).arrive (m.headD 0)).elementDone id { c3 with flags := c3.flags ||| f0 ||| f1 } pas (y0 + 65536 * y1)

/-- Source engine and class, which number a stream of elements at their destination (R322). -/
def Cmd.strm (c : Cmd) : Nat := (16 * c.die + c.engine) * 16 + c.cls

/-- Send a flit to a package. -/
def State.send (s : State) (fab : Nat) (f : Flit) : State := { s with ce := { s.ce with outbox := s.ce.outbox ++ [(fab, f)] } }

/-- REMOTE COPY and ACCW: element c.progress leaves for the destination, with its address modulo 2^64: one below 0 or beyond 2^52 fails
translation there (R189, R314, R322). -/
def State.remoteElement (s : State) (id : Nat) (c : Cmd) : State :=
  match s.fetchBytes id c false c.sform (c.d 3) (c.walkSrc c.progress) c.ssz with
  | (.stop r, _, c1) => s.stopAt id c1 r
  | (.ok l, x, c1) =>
    let va := (((c.d 4 % 2 ^ 52 : Nat) + c.walkDst c.progress) % 2 ^ 64).toNat
    let n4 (v : Nat) : BitVec 4 := BitVec.ofNat 4 v
    let f : Flit :=
      if c.work = 0 then .write id c.func c.strm va (leBytes x c.ssz)
      else .accumulate id c.func c.strm va (n4 c.op) (n4 c.ty) (n4 c.sty) (n4 c.rnd) (n4 c.sat) (BitVec.ofNat 64 x)
    ((s.arrive (l.headD 0)).setCmd id { c1 with progress := c.progress + 1, part := [] }).send c.fab f

/-- RSIG leaves once every element has been acknowledged (R314). -/
def State.sendRsig (s : State) (id : Nat) (c : Cmd) : State :=
  match c.rsig with
  | [] => s.setCmd id { c with sent := true }
  | e :: _ => (s.setCmd id { c with sent := true }).send e.1 (.rsig id c.func e.2.1 (BitVec.ofNat 21 (bits (c.d 10) 20 0)))

/-- Elements that a remote command waits to see acknowledged. -/
def Cmd.toAck (c : Cmd) : Nat := c.total - c.first

/-! ### SCAN (R204, R307) -/

/-- Write output c.progress of a command: a pair of a SCAN, or an entry of an RTE job. -/
def State.outElement (s : State) (id : Nat) (c : Cmd) : State :=
  match c.out[c.progress]? with
  | none => s
  | some (w, o, n, v) =>
    match s.reachAll true (c.outRef w).1 (c.outRef w).2 (o : Nat) n c with
    | (.ok pas, c1) =>
      s.setCmd id { c1 with progress := c.progress + 1, wrote := addRange c1.wrote (pas.headD 0) n,
                            flight := c1.flight ++ [{ row := 0, cells := cellsTo pas v }] }
    | (.stop .absent, c1) =>
      -- an RTE job resumes at the first entry of the faulting output page (R287)
      let page (e : Nat × Nat × Nat × Nat) : Nat × Nat := (e.1, (c.d (3 + e.1) % 2 ^ 52 + e.2.1) / 65536)
      let same := (c.out.take c.progress).reverse.takeWhile fun e => page e == page (w, o, n, v)
      s.stopAt id (if c.work = 7 ∧ c1.flight = [] then { c1 with progress := max c.first (c.progress - same.length) } else c1) .absent
    | (.stop r, c1) => s.stopAt id c1 r

/-- Indices and bits of the selected elements (R204): greater than the threshold, NaN never. -/
def selected (ty tau : Nat) (l : List Nat) : List (Nat × Nat) :=
  let t := floatValue 0 tau
  ((List.range l.length).zip l).filter fun e =>
    let x := floatValue ty e.2
    !x.isNan && !t.isNan && cmpN x t == .gt

/-- The pair of a selected element (R204). -/
def pairOf (e : Nat × Nat) : Nat := e.1 % 2 ^ 32 + e.2 * 2 ^ 32

/-- Elements that a SCAN has selected and whose pairs have no place in the destination. -/
def Cmd.unplaced (c : Cmd) : List (Nat × Nat) :=
  ((selected (bits (c.d 5) 7 4) (c.d 5 / 2 ^ 32) c.got).map fun e => (c.first + e.1, e.2)).filter fun e => !(c.out.any fun o => o.2.2.2 == pairOf e)

/-- A pair of a SCAN may take a place: one is left, and the cap is not reached (R204). -/
def Cmd.hasPair (c : Cmd) : Bool := !c.unplaced.isEmpty && decide (c.out.length < bits (c.d 6) 63 32)

/-- One of the pairs of a SCAN takes the next place in the destination, and is written. Which one is a free value: pairs have no fixed
order, and of more than the cap some are written (R204; log 8). -/
def State.scanPlace (s : State) (id : Nat) (c : Cmd) : State :=
  let (k, s1) := s.draw
  match c.unplaced[k % c.unplaced.length]? with
  | none => s1
  | some e => s1.outElement id { c with out := c.out ++ [(1, 8 * c.out.length, 8, pairOf e)] }

/-- The SCAN reads the next element of its range, which counts if it is selected; a fault in the range is fatal, once the pairs of the
elements before it have left (R204, R307, R318). -/
def State.scanRead (s : State) (id : Nat) (c : Cmd) : State :=
  let ty := bits (c.d 5) 7 4
  let stop (c1 : Cmd) (r : Reach) : State := if c.hasPair then s.scanPlace id c1 else s.stopAt id c1 r
  match s.fetchBytes id c true c.sform (c.d 3) (c.scanAt * scanSize ty : Nat) (scanSize ty) with
  | (.stop .absent, _, c1) => stop c1 (.fails 0x28)
  | (.stop (.fails x), _, c1) => stop c1 (.fails x)
  | (.stop r, _, c1) => s.stopAt id c1 r
  | (.ok l, v, c1) =>
    (s.arrive (l.headD 0)).setCmd id { c1 with got := c.got ++ [v], part := [], count := c.count + (selected ty (c.d 5 / 2 ^ 32) [v]).length }

/-- The next step of a SCAN: a pair that has a place is written, another takes one, or an element is read. Whether a pair or an element
comes first is a free value (R204; log 8). -/
def State.scanElement (s : State) (id : Nat) (c : Cmd) : State :=
  if c.progress < c.out.length then s.outElement id c
  else if bits (c.d 6) 31 0 ≤ c.scanAt then (if c.hasPair then s.scanPlace id c else s)
  else if c.hasPair then
    let (k, s1) := s.draw
    if k % 2 = 0 then s1.scanPlace id c else s1.scanRead id c
  else s.scanRead id c

/-! ### Reading by the routing engine (R283, R285, R287) -/

def State.job (s : State) (die : Nat) : Option Nat := if die = 0 then s.ce.rte0 else s.ce.rte1

/-- Logits of a job. -/
def Cmd.logitCount (c : Cmd) : Nat := c.tokens * c.experts

/-- A logit that may be chosen: finite (R285). -/
def isCand (v : Nat) : Bool := match floatValue 0 v with | .fin .. => true | _ => false

/-- Invalid logits of a list (R285, R299). -/
def invalidIn (l : List Nat) : Nat := (l.filter fun v => !isCand v).length

/-- The job reads its next logit, as f32 bits, and counts it if it is invalid; a fault that firmware can answer stops it at the token that
it was reading (R285, R287, R299). -/
def State.logitElement (s : State) (id : Nat) (c : Cmd) : State :=
  let n := c.got.length
  let sz := scanSize c.ltype
  match s.fetchBytes id c false (bits (c.d 8) 1 0) (c.d 3) (n / c.experts * bits (c.d 8) 63 32 + n % c.experts * sz : Nat) sz with
  | (.stop .absent, _, c1) =>
    let l := c.got.take (n / c.experts * c.experts)
    s.stopAt id { c1 with got := l, count := invalidIn l } .absent
  | (.stop r, _, c1) => s.stopAt id c1 r
  | (.ok l, v, c1) =>
    let x := if c.ltype = 0 then v else v * 65536
    (s.arrive (l.headD 0)).setCmd id { c1 with got := c.got ++ [x], part := [], count := c.count + invalidIn [x] }

/-! ### One element of any command -/

/-- The next read or write of a running command. -/
def State.element (s : State) (id : Nat) : State :=
  let c := s.cmd id
  if c.state != .running then s
  else if s.remote c then
    if c.rsub = 2 then (if c.sent then s else s.sendRsig id c)
    else if c.progress < c.total then (if s.sendWaits id c then s else s.remoteElement id c)
    else if c.toAck ≤ c.acked && !c.sent then s.sendRsig id c
    else s
  else
    match c.work with
    | 0 | 1 => if c.progress < c.total then s.moveElement id c else s
    | 2 => if c.progress < c.total then s.rotateElement id c else s
    | 3 => s.scanElement id c
    | 5 => if c.progress < c.total then s.fillElement id c else s
    | 7 => if c.phase2 then s.outElement id c else if s.job c.die = some id ∧ c.got.length < c.logitCount then s.logitElement id c else s
    | _ => s

/-- The walks that translated some pages in context asc have arrived (R186, R190). -/
def State.walkedAll (s : State) (asc : Nat) (pages : List (Nat × Nat × Nat × Bool × Bool)) : State :=
  each (fun p s => s.walked asc p.1) pages s

/-- Source reads of the next element of a running command: form, reference, displacement and bytes of each. -/
def State.sources (s : State) (id : Nat) (c : Cmd) : List (Nat × Nat × Int × Nat) :=
  match c.work with
  | 0 | 1 => if c.progress < c.total then [(c.sform, c.d 3, c.walkSrc c.progress, c.ssz)] else []
  | 2 =>
    let i := c.progress % c.pairs
    if c.progress < c.total then
      [(c.sform, c.d 3, (c.progress / c.pairs * bits (c.d 8) 31 0 + 4 * i : Nat), 4),
       (bits (c.d 5) 5 4, c.d 6, (8 * (c.delta.natAbs * c.pairs + i) : Nat), 8)]
    else []
  | 3 =>
    let z := scanSize (bits (c.d 5) 7 4)
    if c.scanAt < bits (c.d 6) 31 0 then [(c.sform, c.d 3, (c.scanAt * z : Nat), z)] else []
  | 7 =>
    let n := c.got.length
    let z := scanSize c.ltype
    if !c.phase2 && s.job c.die == some id && decide (n < c.logitCount) then
      [(bits (c.d 8) 1 0, c.d 3, (n / c.experts * bits (c.d 8) 63 32 + n % c.experts * z : Nat), z)]
    else []
  | _ => []

/-- The bytes that the next element of a running command writes: form, reference, displacement and count. -/
def State.targets (s : State) (c : Cmd) : List (Nat × Nat × Int × Nat) :=
  if s.remote c then []
  else
    match c.work with
    | 0 | 1 | 5 => if c.progress < c.total then [(c.dform, c.d 4, c.walkDst c.progress, c.dsz)] else []
    | 2 =>
      if c.progress < c.total then
        [(c.dform, c.d 4, (c.progress / c.pairs * bits (c.d 8) 63 32 + 4 * (c.progress % c.pairs) : Nat), 4)] else []
    | 3 | 7 => ((c.out[c.progress]?).map fun o => ((c.outRef o.1).1, (c.outRef o.1).2, ((o.2.1 : Nat) : Int), o.2.2.1)).toList
    | _ => []

/-- Virtual address at which the walk for an access ends without a page: one that the command has not captured (R189, R316). -/
def State.missOf (s : State) (c : Cmd) (w : Bool) (form ref : Nat) : Int → Nat → Option Nat
  | _, 0 => none
  | d, n + 1 =>
    match eaddr form ref d with
    | .blk _ _ => none
    | .va a =>
      match (s.reach c w (.va a)).1 with
      | .at _ => s.missOf c w form ref (d + 1) n
      | _ => if inSpace (.va a) && (c.pages.all fun p => !(decide (p.1 ≤ a.toNat) && decide (a.toNat < p.1 + p.2.2.1))) then some a.toNat
        else none

/-- The walk that stopped the next element of a command, if one did: a pair of a SCAN that has a place is next before any read. -/
def State.missed (s : State) (id : Nat) (c : Cmd) : Option Nat :=
  let from' := if c.work = 3 ∧ c.progress < c.out.length then [] else s.sources id c
  ((from'.map fun e => (false, e)) ++ (s.targets c).map fun e => (true, e)).findSome? fun e =>
    s.missOf c e.1 e.2.1 e.2.2.1 e.2.2.2.1 e.2.2.2.2

/-- COMMAND_ELEMENT of a running command: its next read or write, and the walks of the pages that it captures for it, or the walk that has
stopped it (R186, R316, R317). -/
def State.stepCmd (s : State) (id : Nat) : State :=
  let c := s.cmd id
  let s1 := s.element id
  let d := s1.cmd id
  let s2 := s1.walkedAll c.asc (d.pages.drop c.pages.length)
  if c.state ≠ .running ∨ d.state = .running then s2
  else
    match s.missed id { c with pages := d.pages, out := if c.out.length < d.out.length then d.out else c.out } with
    | some a => s2.walked c.asc a
    | none => s2

/-- Of the n-th source read of its next element, command id reads the 8-byte chunks that the bits of which number, apart from the rest: a
read is single-copy atomic only in each chunk (R329). -/
def State.readPart (s : State) (id n which : Nat) : State :=
  let c := s.cmd id
  match if c.state = .running then (s.sources id c)[n]? else none with
  | none => s
  | some (form, ref, d, z) =>
    match s.reachAll false form ref d z c with
    | (.stop _, _) => s
    | (.ok l, c1) =>
      let f := whichItem false 8 which l
      let new := l.filter fun a => f a && (find c.part a).isNone
      let own : Bool := c.work == 3 || (c.work == 2 && n == 1)
      if s.srcWaits id c own new || new.any s.bad then s
      else
        (s.setCmd id { c1 with part := c.part ++ new.map fun a => (a, s.byte a) }).walkedAll c.asc (c1.pages.drop c.pages.length)

/-- Where a command stands. -/
def Cmd.place (c : Cmd) : Nat × Nat × Bool := (c.progress, c.got.length, c.phase2)

/-- Up to n elements of command id, while it goes on. -/
def State.runCmd (s : State) (id : Nat) : Nat → State
  | 0 => s
  | n + 1 =>
    let s1 := s.stepCmd id
    if (s1.cmd id).place = (s.cmd id).place then s1 else s1.runCmd id n

def execCommandElement (s : State) : Out := .next (s.stepCmd s.cur)

/-- The elements that are left, of a running command that f selects. -/
def runKind (f : State → Cmd → Bool) (s : State) : Out :=
  let c := s.cmd s.cur
  .next (if f s c then s.runCmd s.cur (c.total + 2) else s)

def execCopy (s : State) : Out := runKind (fun s c => c.work == 0 && !s.remote c) s
def execAccw (s : State) : Out := runKind (fun s c => c.work == 1 && !s.remote c) s
def execRotate (s : State) : Out := runKind (fun _ c => c.work == 2) s
def execScan (s : State) : Out :=
  let c := s.cmd s.cur
  .next (if c.work = 3 then s.runCmd s.cur (bits (c.d 6) 31 0 + bits (c.d 6) 63 32 + 2) else s)
def execFill (s : State) : Out := runKind (fun _ c => c.work == 5) s
def execRemoteCopy (s : State) : Out := runKind (fun s c => c.rsub == 0 && s.remote c) s
def execRemoteAccw (s : State) : Out := runKind (fun s c => c.rsub == 1 && s.remote c) s
def execRemoteSignal (s : State) : Out := .next (if (s.cmd s.cur).rsub = 2 ∧ s.remote (s.cmd s.cur) then s.stepCmd s.cur else s)

/-! ### The end after the last element (R291) -/

/-- Every element of the command has been performed. -/
def State.complete (s : State) (c : Cmd) : Bool :=
  if !c.flight.isEmpty then false
  else if s.remote c then c.sent && decide (c.toAck + c.rsig.length ≤ c.acked)
  else
    match c.work with
    | 0 | 1 | 2 | 5 => decide (c.total ≤ c.progress)
    | 3 => decide (bits (c.d 6) 31 0 ≤ c.scanAt) && !c.hasPair && decide (c.out.length ≤ c.progress)
    | 7 => c.phase2 && decide (c.out.length ≤ c.progress)
    | 4 => decide (bits (c.d 6) 31 0 ≤ c.count)
    | _ => true

/-- COMMAND_END: DONE after the last element, or ABORTED by the counter it waited for (R291). -/
def execCommandEnd (s : State) : Out :=
  let c := s.cmd s.cur
  match c.state with
  | .aborting => .next (s.endCmd s.cur 4 0x48)
  | .running => .next (if s.complete c then s.endCmd s.cur 0 0 else s)
  | _ => .next s

/-- SIGNAL: its signal entry applies (R312). -/
def execSignal (s : State) : Out :=
  let c := s.cmd s.cur
  .next (if c.state = .running ∧ c.work = 6 ∧ !s.remote c then s.endCmd s.cur 0 0 else s)

/-! ### PREFETCH (R308, R309) -/

/-- Prefetch budget of an engine, in bytes per array cycle (R310). -/
def State.budget (s : State) (c : Cmd) : Nat := get 128 s.ce.budget (16 * c.die + c.engine)

def Cmd.deadline (c : Cmd) : Nat := c.start + bits (c.d 6) 63 32
def Cmd.remaining (c : Cmd) : Nat := bits (c.d 6) 31 0 - c.count

/-- The pending fill that its engine serves: the earliest deadline, then the lowest sequence number; of two contexts with one number, the
fill that was pushed first (R309; DESIGN CHOICE, log 49). -/
def State.served (s : State) (id : Nat) (c : Cmd) : Bool :=
  s.ce.cmds.all fun x =>
    !(x.2.die == c.die && x.2.engine == c.engine && x.2.kind == 4 && x.2.state == .running &&
      (decide (x.2.deadline < c.deadline) || (x.2.deadline == c.deadline &&
        (decide (x.2.seq < c.seq) || (x.2.seq == c.seq && decide (x.1 < id))))))

/-- A pending fill can no longer meet its deadline (R309). -/
def State.tooLate (s : State) (c : Cmd) : Bool := decide ((c.deadline - s.time) * s.budget c < c.remaining)

/-- The engine has served a fill in this array cycle (R309). -/
def State.fillServed (s : State) (c : Cmd) : Bool := get 0 s.ce.pfAt (16 * c.die + c.engine) == s.time + 1

/-- A fill ends CANCELLED at a byte that cannot be reached, behind the walk that says so (R186, R308, R316). -/
def State.fillMisses (s : State) (id : Nat) (c : Cmd) (n : Nat) : State :=
  ((match s.missOf c false c.sform (c.d 3) n 1 with | some a => s.walked c.asc a | none => s)).endCmd id 2 0x28

/-- The engine serves a fill with up to BUDGET bytes, once in an array cycle, the late one being cancelled first; a page that cannot be
translated ends it CANCELLED (R308, R309, R316). -/
def execPrefetch (bytes : Nat) (s : State) : Out :=
  let id := s.cur
  let c := s.cmd id
  if c.state != .running || c.kind != 4 || c.remaining == 0 then .next s
  else if s.tooLate c then .next (s.endCmd id 2 0)
  else if bytes == 0 || !s.served id c || decide (s.budget c < bytes) || s.fillServed c then .next s
  else
    let n := min bytes c.remaining
    match s.reach c false (eaddr c.sform (c.d 3) c.count) with
    | (.waits, _) => .next s
    | (.at a, c1) =>
      match s.reach c1 false (eaddr c.sform (c.d 3) (c.count + n - 1 : Nat)) with
      | (.waits, _) => .next (s.setCmd id c1)
      | (.at b, c2) =>
        .next (if s.heldAt a || s.heldAt b then s.setCmd id c2
          else
            let s1 := ((s.setCmd id { c2 with count := c.count + n }).walkedAll c.asc (c2.pages.drop c.pages.length)).arrive a
            { s1 with ce := { s1.ce with pfAt := put 0 s1.ce.pfAt (16 * c.die + c.engine) (s.time + 1) } })
      | _ => .next (s.fillMisses id c1 (c.count + n - 1))
    | _ => .next (s.fillMisses id c c.count)

/-- A fill that can no longer meet its deadline is cancelled (R309). -/
def execPrefetchDeadlineCancel (s : State) : Out :=
  let c := s.cmd s.cur
  .next (if c.state = .running ∧ c.kind = 4 ∧ s.tooLate c then s.endCmd s.cur 2 0 else s)

/-! ### The routing engine (R283 to R287) -/

def State.setJob (s : State) (die : Nat) (j : Option Nat) : State :=
  if die = 0 then { s with ce := { s.ce with rte0 := j } } else { s with ce := { s.ce with rte1 := j } }

/-- RTE: the job is handed over, the jobs of the die in the order in which their engines accepted them (R283). -/
def execRte (s : State) : Out :=
  let id := s.cur
  let c := s.cmd id
  let before (x : Nat × Cmd) : Bool :=
    x.2.die == c.die && x.2.kind == 7 && x.2.state == .running && !x.2.phase2 && x.1 != id &&
      (decide (x.2.start < c.start) || (x.2.start == c.start && decide (x.1 < id)))
  if c.state != .running || c.kind != 7 || c.phase2 || (s.job c.die).isSome || s.ce.cmds.any before then .next s
  else .next (s.setJob c.die (some id))

def Cmd.cap (c : Cmd) : Nat := bits (c.d 9) 63 48
def Cmd.wmode (c : Cmd) : Nat := bits (c.d 8) 15 14

/-- The greatest candidate of a list of experts with logits, the first on a tie. -/
def greatest : List (Nat × Nat) → Option (Nat × Nat)
  | [] => none
  | a :: r =>
    match greatest r with
    | none => some a
    | some b => if cmpN (floatValue 0 b.2) (floatValue 0 a.2) = .gt then some b else some a

/-- The k greatest, in order (R285). -/
def chosen : Nat → List (Nat × Nat) → List (Nat × Nat)
  | 0, _ => []
  | k + 1, l =>
    match greatest l with
    | none => []
    | some a => a :: chosen k (l.filter fun b => b.1 != a.1)

/-- The value p(x) of R285: f32 bits and flags. -/
def expTerm (l m : Nat) : Nat × BitVec 6 :=
  let (df, f0) := addN false (floatValue 0 l) (negN (floatValue 0 m))
  let (x, f1) := mulN df (floatValue 0 (romBits 1012 0))
  let (a, f2) := roundTo x 0 Mode.default 0
  let (p, f3) := exp2To (floatValue 0 a) 0 Mode.default 0
  (p, f0 ||| f1 ||| f2 ||| f3)

/-- Rounded sum of the terms in order, from +0, with flags. -/
def sumTerms (m : Nat) : List (Nat × Nat) → Nat → BitVec 6 → Nat × BitVec 6
  | [], acc, f => (acc, f)
  | a :: r, acc, f =>
    let (p, f1) := expTerm a.2 m
    let (v, f2) := addN false (floatValue 0 acc) (floatValue 0 p)
    let (b, f3) := roundTo v 0 Mode.default 0
    sumTerms m r b (f ||| f1 ||| f2 ||| f3)

/-- Weight of a chosen expert: f32 bits and flags. -/
def weightOf (mode : Nat) (x : List (Nat × Nat)) (c : Nat × Nat) : Nat × BitVec 6 :=
  if mode = 2 then (c.2, 0)
  else
    match greatest x with
    | none => (0, 0)
    | some m =>
      let (sm, f1) := sumTerms m.2 x 0 0
      let (p, f2) := expTerm c.2 m.2
      let (q, f3) := divN (floatValue 0 p) (floatValue 0 sm)
      let (w, f4) := roundTo q 0 Mode.default 0
      (w, f1 ||| f2 ||| f3 ||| f4)

/-- One token's choice: experts with their weights in slot order, flags, and its invalid logits (R285). -/
structure Pick where
  slots : List (Nat × Nat)
  flags : BitVec 6
  invalid : Nat
  deriving DecidableEq, Repr

def Cmd.pick (c : Cmd) (l : List Nat) : Pick :=
  let all := ((List.range l.length).zip l).filter fun e => isCand e.2
  let ch := chosen c.topK all
  let x := if c.wmode = 0 then ch else all
  let ws := ch.map fun e => (e.1, weightOf c.wmode x e)
  { slots := ws.map fun e => (e.1, e.2.1), flags := orFlags (ws.map fun e => e.2.2), invalid := l.length - all.length }

/-- The picks of every token, of the logits that have been read (R285). -/
def Cmd.picks (c : Cmd) : List Pick :=
  (List.range c.tokens).map fun t => c.pick ((c.got.drop (t * c.experts)).take c.experts)

/-- An assignment: token, slot, expert, weight, and whether it is dropped (R285, R286). -/
structure Assign where
  tok : Nat
  slot : Nat
  expert : Nat
  w : Nat
  drop : Bool
  deriving DecidableEq, Repr

/-- Assignments in token order, with the counts kept so far. -/
def assigned (cap : Nat) : List (Nat × Nat × Nat × Nat) → Assoc Nat → List Assign
  | [], _ => []
  | (t, k, e, w) :: r, n =>
    let m := get 0 n e
    let drop := cap != 0 && decide (cap ≤ m)
    { tok := t, slot := k, expert := e, w := w, drop := drop } :: assigned cap r (if drop then n else put 0 n e (m + 1))

/-- Outputs of a job (R286): reference 1 SEL, 2 HIST, 3 OFFS, 4 LIST; displacement, width and value. -/
def Cmd.outputs (c : Cmd) (ps : List Pick) : List (Nat × Nat × Nat × Nat) :=
  let k := c.topK
  let flat := ((List.range ps.length).zip ps).flatMap fun e =>
    ((List.range e.2.slots.length).zip e.2.slots).map fun v => (e.1, v.1, v.2.1, v.2.2)
  let asg := assigned c.cap flat []
  let kept (e : Nat) := asg.filter fun a => a.expert == e && !a.drop
  let sel := (List.range ps.length).flatMap fun t => (List.range k).map fun j =>
    match asg.find? fun a => a.tok == t && a.slot == j with
    | some a => (1, 8 * (t * k + j), 8, a.w * 2 ^ 32 + a.drop.toNat * 65536 + a.expert)
    | none => (1, 8 * (t * k + j), 8, 0xFFFF)
  let hist := (List.range c.experts).map fun e => (2, 4 * e, 4, (kept e).length)
  let offs := (List.range (c.experts + 1)).map fun e => (3, 4 * e, 4, sumNat ((List.range e).map fun x => (kept x).length))
  let lst := (List.range c.experts).flatMap kept
  let list := ((List.range lst.length).zip lst).map fun v => (4, 8 * v.1, 8, v.2.tok + v.2.w * 2 ^ 32)
  sel ++ hist ++ offs ++ list

/-- The outputs of a job are due: every logit has been read. The elements of a job are the entries of its outputs, the first of which
PROGRESS names: it reads every logit whatever PROGRESS is (R285, R287, R293; DEDUCED, log 49). -/
def Cmd.phase2Of (c : Cmd) : Cmd :=
  let ps := c.picks
  { c with phase2 := true, progress := c.first, count := sumNat (ps.map Pick.invalid), flags := orFlags (ps.map Pick.flags),
           out := c.outputs ps, got := [] }

/-- RTE_PHASE_1_COMPLETE: the logits that are left are read, and then the outputs are due (R287). -/
def execRtePhase1Complete (die : Nat) (s : State) : Out :=
  match s.job die with
  | none => .next s
  | some id =>
    let s1 := if (s.cmd id).phase2 then s else s.runCmd id (s.cmd id).logitCount
    let c := s1.cmd id
    .next (if c.state = .running ∧ !c.phase2 ∧ c.logitCount ≤ c.got.length then s1.setCmd id c.phase2Of else s1)

/-! ### The fabric (R314, R315, R322) -/

/-- An element that arrives finds its bytes, in the context bound to the sender. -/
def State.bound (s : State) (asc va n : Nat) : Run × Cmd := s.reachAll true 0 va 0 n { Cmd.empty with asc := asc }

/-- Outcome of an element at its destination: performed and acknowledged, refused, or waiting. -/
inductive Landed where
  | done (s : State)
  | refused (cause : Byte) (s : State)
  | waits (s : State)

/-- The walks for an element have arrived, the last of which may have found no page (R186, R190). -/
def State.boundWalks (s : State) (asc va n : Nat) (d : Cmd) : State :=
  let s1 := s.walkedAll asc d.pages
  match s.missOf d true 0 va 0 n with
  | some a => s1.walked asc a
  | none => s1

/-- An element is performed and acknowledged, refused with a cause (0x40 for a poisoned destination of a step), or waits. What the
firmware here answers to a translation fault is a free value: the element waits for a resume, or the cause 0x28 goes back (R315,
log 8). f gives the state after it and the flags that its step set (R303). -/
def State.land (s : State) (src c fn va n : Nat) (f : State → List Nat → Option (State × BitVec 6)) : Landed :=
  let b := Config.binding src fn
  if b = 0 then .refused 0x0A s
  else
    let (r, d) := s.bound (b - 1) va n
    match r with
    | .ok pas =>
      if pas.any s.heldAt then .waits s
      else
        match f s pas with
        | some (s1, fl) => .done (((s1.boundWalks (b - 1) va n d).arrive (pas.headD 0)).send src (.ack c 1 fl))
        | none => .refused 0x40 (s.boundWalks (b - 1) va n d)
    | .stop .absent =>
      let (k, s1) := (s.boundWalks (b - 1) va n d).draw
      if k % 2 = 0 then .waits s1 else .refused 0x28 s1
    | .stop (.fails x) => .refused x (s.boundWalks (b - 1) va n d)
    | .stop _ => .waits s

/-- Addresses of the first element of a stream that waits here which memory has performed (R329). -/
def State.landedOf (s : State) (src st : Nat) : List Nat :=
  (s.ce.landed.filter fun e => e.1 == src && e.2.1 == st).flatMap fun e => e.2.2

def State.setLanded (s : State) (src st : Nat) (l : List Nat) : State :=
  let rest := s.ce.landed.filter fun e => !(e.1 == src && e.2.1 == st)
  { s with ce := { s.ce with landed := if l.isEmpty then rest else rest ++ [(src, st, l)] } }

/-- An element of package src (R303, R314); any other flit is performed at once. -/
def State.landFlit (s : State) (src : Nat) : Flit → Landed
  | .write c fn st va b =>
    s.land src c fn va b.length fun s pas =>
      some ((s.perform ((pas.zip b).filter fun e => !(s.landedOf src st).contains e.1)).setLanded src st [], 0)
  | .accumulate c fn _ va op ty sty rnd sat x =>
    s.land src c fn va (width ty.toNat / 8) fun s pas =>
      if pas.any s.bad then none
      else
        let (v, fl) := accumulate op.toNat ty.toNat sty.toNat rnd.toNat sat.toNat (wordOfBytes (pas.map s.byte)) x.toNat
        some (s.perform (cellsTo pas v), fl)
  | _ => .done s

/-- The chunks that the bits of which number, of an element of package src that waits here, are performed: the element is single-copy
atomic only in each (R329). -/
def State.landPart (s : State) (src which : Nat) : Flit → State
  | .write _ fn st va b =>
    match s.bound (Config.binding src fn - 1) va b.length with
    | (.ok pas, _) =>
      let l := s.landedOf src st
      let f := whichItem false 8 which pas
      let now := (pas.zip b).filter fun e => f e.1 && !l.contains e.1
      if Config.binding src fn = 0 ∨ now.any fun e => s.heldAt e.1 then s
      else (s.perform now).setLanded src st (l ++ now.map fun e => e.1)
    | _ => s
  | _ => s

/-- Bytes of an element in more than one chunk. -/
def isWide : Flit → Bool
  | .write _ _ _ va b => decide (va / 8 < (va + b.length - 1) / 8)
  | _ => false

/-- Stream and command of an element. -/
def flitStrm : Flit → Option (Nat × Nat)
  | .write c _ st _ _ | .accumulate c _ st _ _ _ _ _ _ _ => some (st, c)
  | _ => none

def State.setInbox (s : State) (l : List (Nat × Flit)) : State := { s with ce := { s.ce with inbox := l } }

/-- Command c of package src is refused: the cause goes back, and its elements that wait or arrive later are not performed (R315,
R318). -/
def State.refuse (s : State) (src c : Nat) (cause : Byte) : State :=
  let gone (e : Nat × Flit) : Bool := e.1 == src && (flitStrm e.2).any fun x => x.2 == c
  let s0 := each (fun e s => match flitStrm e.2 with | some x => s.setLanded src x.1 [] | none => s) (s.ce.inbox.filter gone) s
  let s1 := s0.setInbox (s.ce.inbox.filter fun e => !gone e)
  { s1 with ce := { s1.ce with refused := (src, c) :: s1.ce.refused } }.send src (.nack c cause)

/-- An element of package src arrives: it is performed behind those of its stream that wait, and one of several chunks as they come to be
performed (R322, R329). -/
def State.elementArrives (s : State) (src st c : Nat) (flit : Flit) : State :=
  let queue (s : State) : State := s.setInbox (s.ce.inbox ++ [(src, flit)])
  if s.ce.refused.contains (src, c) then s
  else if s.ce.inbox.any fun e => e.1 == src && (flitStrm e.2).any fun x => x.1 == st then queue s
  else
    match s.landFlit src flit with
    | .done s1 => if isWide flit then queue s else s1
    | .refused x s1 => s1.refuse src c x
    | .waits s1 => queue s1

/-- The n-th element that waits is tried again, whole or in part, if none of its stream is before it (R315, R322, R329). -/
def State.retryFlit (s : State) (n which : Nat) : State :=
  match s.ce.inbox[n]? with
  | none => s
  | some (src, flit) =>
    match flitStrm flit with
    | none => s
    | some (st, c) =>
      if (s.ce.inbox.take n).any fun e => e.1 == src && (flitStrm e.2).any fun x => x.1 == st then s
      else if which ≠ 0 then s.landPart src which flit
      else
        match s.landFlit src flit with
        | .done s1 => s1.setInbox (dropAt s1.ce.inbox n)
        | .refused x s1 => s1.refuse src c x
        | .waits s1 => s1

/-- An acknowledgement: n more elements with the flags that their steps set; rows that are whole signal at the source (R294, R297,
R303, R314). -/
def State.acked (s : State) (c n : Nat) (flags : BitVec 6) : State :=
  match find s.ce.cmds c with
  | none => s
  | some v =>
    let a := v.acked + n
    let rows := if v.byRows ∧ v.rowLen ≠ 0 then (min a v.toAck + v.first) / v.rowLen - (min v.acked v.toAck + v.first) / v.rowLen else 0
    each (fun _ s => s.rowSignals v) (List.range rows) (s.setCmd c { v with acked := a, flags := v.flags ||| flags })

/-- A command whose destination can report a cause: it has begun, and has not ended. -/
def Cmd.begun (c : Cmd) : Bool := match c.state with | .running | .held | .resumed => true | _ => false

/-- FABRIC_FLIT_ARRIVAL from package src. -/
def execFabricFlitArrival (src : Nat) (flit : Flit) (s : State) : Out :=
  match flit with
  | .write c _ st _ _ => .next (s.elementArrives src st c flit)
  | .accumulate c _ st _ _ _ _ _ _ _ => .next (s.elementArrives src st c flit)
  | .rsig c fn file e =>
    let w := e.toNat
    .next (if Config.binding src fn = 0 ∨ !Config.boundFile src fn file then s.send src (.nack c 0x0A)
      else (s.signal file (bits w 7 0) (BitVec.ofNat 12 (bits w 19 8)).toInt none).send src (.ack c 1 0))
  | .ack c n fl => .next (s.acked c n fl)
  | .nack c x =>
    let v := s.cmd c
    .next (if v.begun ∧ s.remote v then s.endCmd c 1 x.toNat else s)

end Sys2Proof.Machine
end

