-- ==== Sys2Proof/Machine/HostRegs.lean ====
section
/-! DEFINITION. Host register writes: queues, notifies, withdrawals, counters, kills, function-level reset, and the registers
without behaviour of their own (05_launching.md R108 to R110, R116, R124, R127; 14_interruptions.md R361, R364 to R367; R394). -/

namespace Sys2Proof.Machine

/-! ### Who may write (R108, R115, R361) -/

/-- Function fn reaches queue q: it is the physical function, or the queue is assigned to it (R108). -/
def State.reaches (s : State) (fn q : Nat) : Bool := decide (q < 2048) && (fn == 0 || (s.queue q).func == fn)

/-- Writes of function fn that a reset or EN = 0 discards (R364, R366, R367). -/
def State.muted (s : State) (fn : Nat) : Bool := fn != 0 && (!(s.func fn).en || (s.func fn).flr)

/-! ### LFE_QCFG (R109, R394) -/

/-- A ring of 2^log slots of n bytes is aligned at a (R106). -/
def ringAligned (a log n : Nat) : Bool := a % min (2 ^ log * n) 65536 == 0

/-- Fields of a write to LFE_QCFG by function fn; FUNC is the physical function's to write. -/
def Queue.configured (q : Queue) (fn : Nat) (v : W64) : Queue :=
  let w := v.toNat
  { q with asc := bits w 51 40, func := if fn = 0 then bits w 39 34 else q.func, semf := bits w 33 25, clog := bits w 24 20,
           qlog := bits w 19 15 }

/-- A write that sets EN may enable the queue (R109). -/
def State.enableOk (s : State) (q : Queue) : Bool :=
  decide (4 ≤ q.qlog) && decide (q.qlog ≤ 16) && decide (4 ≤ q.clog) && decide (q.clog ≤ 16) && ringAligned q.qbase q.qlog 128 &&
    ringAligned q.cbase q.clog 32 && get 0 s.hif.ownFile q.semf == q.func && s.ascFunc q.asc == q.func

/-- A queue reset: what the LFE has read completes WITHDRAWN, what it has not is dropped (R394). -/
def State.queueReset (s : State) (q : Nat) : State :=
  let s1 := s.note 0x04 3 (BitVec.ofNat 64 q) 0 none
  let qu := s1.queue q
  let s2 := s1.setQueue q { qu with en := false, resetting := true, notified := qu.readIdx, skips := [] }
  (s2.endAll (sortQidx (s2.packetsWith fun p => p.queue == q && !p.child && p.undispatched)) 1 false).queueResets

/-- A write to LFE_QCFG (R109). -/
def State.writeQcfg (s : State) (fn q : Nat) (v : W64) : State :=
  let qu := s.queue q
  let n := qu.configured fn v
  let en := v.getLsbD 0
  let refuse := s.setQueue q { qu with cfgerr := true }
  if !s.reaches fn q then s
  else if qu.en then
    if n != qu then refuse else if en then s else s.queueReset q
  else if en && (qu.resetting || !s.enableOk n) then refuse
  else s.setQueue q (if en then { n with en := true, notified := 0, readIdx := 0, cwrite := 0, cread := 0, skips := [] } else n)

/-- QUEUE_ENABLE: a write with EN set. -/
def execQueueEnable (fn q : Nat) (v : W64) (s : State) : Out := .next (if v.getLsbD 0 then s.writeQcfg fn q v else s)

/-- QUEUE_RESET: a write with EN clear. -/
def execQueueReset (fn q : Nat) (v : W64) (s : State) : Out := .next (if v.getLsbD 0 then s else s.writeQcfg fn q v)

/-! ### Notify, withdraw, consumer index, counters (R110, R114, R116, R124) -/

/-- A notify reaches the LFE: accepted, refused by R110, or discarded and counted in NDROP (R364). -/
def State.notify (s : State) (fn q : Nat) (v : W64) : State :=
  let qu := s.queue q
  let f := s.func fn
  if !s.reaches fn q then s
  else if s.muted fn || !qu.en || s.storm then s.setFunc fn { f with ndrop := f.ndrop + 1 }
  else
    let n := (v.toNat % 2 ^ 32 + 2 ^ 32 - qu.readIdx % 2 ^ 32) % 2 ^ 32
    s.setQueue q (if n ≤ 2 ^ qu.qlog then { qu with notified := qu.readIdx + n } else { qu with nrange := true })

/-- A write of a counter reaches its file: one that is assigned to the function (R115). -/
def State.writeSem (s : State) (fn file n : Nat) (v : W32) : State :=
  if fn = 0 ∨ get 0 s.hif.ownFile file = fn then s.count (file % 512) (n % 256) v else s

/-- A write of function fn stands behind those that its host has posted and that have not been performed (R110, R335). -/
def State.posting (s : State) (fn : Nat) (op : HostOp) (now : State) : State :=
  let f := s.func fn
  if f.posted.isEmpty then now else s.setFunc fn { f with posted := f.posted ++ [op] }

/-- QUEUE_NOTIFY. -/
def execQueueNotify (fn q : Nat) (v : W64) (s : State) : Out := .next (s.posting fn (.notify q v) (s.notify fn q v))

/-- A host posts a memory write (R110): n bytes at a device physical address, in a site or in host memory (R181). -/
def State.hostWrite (s : State) (fn a : Nat) (l : List Byte) : State :=
  let f := s.func fn
  if 63 < fn ∨ s.muted fn ∨ 2 ^ 48 < a + l.length then s else s.setFunc fn { f with posted := f.posted ++ [.mem (cellsAt a l)] }

/-- A write of LFE_WITHDRAW reaches the LFE: at once, or held while an earlier withdrawal scans; later writes of the
function pass it (R127; DESIGN CHOICE, log 49). -/
def State.withdrawal (s : State) (fn q : Nat) (v : W64) : State :=
  let qu := s.queue q
  let tag := v.toNat % 2 ^ 24
  if !s.reaches fn q || s.muted fn then s
  else if qu.busy then s.setQueue q { qu with heldW := qu.heldW ++ [tag] } else s.withdraw q tag

/-- WITHDRAWAL: in its place among the function's writes (R124). -/
def execWithdrawal (fn q : Nat) (v : W64) (s : State) : Out := .next (s.posting fn (.withdraw q v) (s.withdrawal fn q v))

/-- LFE_CREAD_WRITE: the consumer index. -/
def execLfeCreadWrite (fn q : Nat) (v : W64) (s : State) : Out :=
  .next (if s.reaches fn q then s.setQueue q { s.queue q with cread := v.toNat % 2 ^ 32 } else s)

/-- SEMAPHORE_WRITE. -/
def execSemaphoreWrite (fn file n : Nat) (v : W32) (s : State) : Out :=
  .next (s.posting fn (.sem file n v) (s.writeSem fn file n v))

/-! ### Kill (R103, R361) -/

/-- A dispatched packet is killed: its tasks at one kill point, its tickets and records with it; quiet: no interrupt (R361, R366). -/
def State.killPacket (s : State) (src id : Nat) (quiet : Bool) : State :=
  let ts := (s.tasks.filter fun e => e.2.packet == id && !e.2.fw).map fun e => e.1
  let s1 := s.killAll src ts
  let s2 := if (s1.packet id).stop then s1 else s1.endWalk id
  let p := s2.packet id
  (s2.setPacket id { p with status := mergeStatus p.status 6, stop := true, noIntr := p.noIntr || quiet }).trim

/-- A write of LFE_KILL reaches the LFE (R361). -/
def State.killWrite (s : State) (fn q : Nat) (v : W64) : State :=
  let i := v.toNat % 2 ^ 32
  let mine (p : Packet) : Bool := !p.child && p.queue == q && p.qidx % 2 ^ 32 == i
  if !s.reaches fn q || !v.getLsbD 32 || (s.func fn).flr then s
  else
    match s.packetsWith fun p => mine p && p.phase == .dispatched with
    | e :: _ => (s.killPacket 0 e.1 false).unloads
    | [] =>
      let s1 := s.readAhead q (fun n => n % 2 ^ 32 == i) fun _ => true
      s1.endAll (s1.packetsWith fun p => mine p && p.undispatched) 6 false

/-- LFE_KILL: in its place among the function's writes (R361). -/
def execLfeKill (fn q : Nat) (v : W64) (s : State) : Out := .next (s.posting fn (.kill q v) (s.killWrite fn q v))

/-! ### The mailbox's notify, and the performing of posted writes (R110, R328, R385) -/

/-- A write of HIF_MBNOTIFY is taken by the rule of R110; while the function is disabled or under reset, and in storm, it is discarded and
counted (R364, R366, R383). -/
def State.mailboxNotify (s : State) (fn : Nat) (v : W64) : State :=
  let f := s.func fn
  let n := (v.toNat % 2 ^ 32 + 2 ^ 32 - f.mbRead % 2 ^ 32) % 2 ^ 32
  if s.muted fn || s.storm then s.setFunc fn { f with ndrop := f.ndrop + 1 }
  else if f.mbEn ∧ n ≤ 2 ^ f.mbLog then s.setFunc fn { f with mbNotified := f.mbRead + n } else s

/-- The bytes of a posted memory write that `which` selects are performed, the rest stays the oldest; they wait with their pages (R185,
R206, R328, R329). -/
def State.hostBytes (s : State) (fn which : Nat) (cells : List (Nat × Byte)) (r : List HostOp) : State :=
  let f := whichItem false 1 which (cells.map fun c => c.1)
  let now := cells.filter fun c => f c.1
  let rest := cells.filter fun c => !f c.1
  if now.any fun c => s.heldAt c.1 then s
  else
    ((s.setFunc fn { s.func fn with posted := if rest.isEmpty then r else .mem rest :: r }).perform now).arriveAll
      (if rest.isEmpty then (cells.map fun c => c.1).take 1 else [])

/-- The oldest posted write of function fn is performed (R110). -/
def State.hostPerform (s : State) (fn which : Nat) : State :=
  let f := s.func fn
  match f.posted with
  | [] => s
  | op :: r =>
    let s1 := s.setFunc fn { f with posted := r }
    match op with
    | .mem cells => s.hostBytes fn which cells r
    | .notify q v => s1.notify fn q v
    | .sem file n v => s1.writeSem fn file n v
    | .withdraw q v => s1.withdrawal fn q v
    | .kill q v => s1.killWrite fn q v
    | .mailbox v => s1.mailboxNotify fn v

/-! ### Function-level reset (R366) -/

/-- Steps 2 to 5 of a function-level reset, or the storm actions, over the functions that f selects: tasks, commands, undispatched
and dispatched packets. In a storm undispatched packets stay. -/
def State.purge (s : State) (src : Nat) (f : Nat → Bool) (withdraw : Bool) : State :=
  let ts := (s.tasks.filter fun e => !e.2.fw && f (s.packet e.2.packet).func).map fun e => e.1
  let s1 := s.killAll src ts
  let s2 := s1.stopCmds fun c => f c.func
  let s3 :=
    if !withdraw then s2
    else
      let qs := (s2.lfe.queues.filter fun e => f e.2.func).map fun e => e.1
      let a := each (fun q s => s.readAhead q (fun _ => true) fun _ => true) qs s2
      let all := a.packetsWith fun p => f p.func && (p.undispatched || p.phase == .spilled)
      each (fun q s => s.endAll (sortQidx (all.filter fun e => e.2.queue == q)) 1 true) (sortNat (all.map fun e => e.2.queue)) a
  let ds := (s3.packetsWith fun p => f p.func && p.phase == .dispatched).map fun e => e.1
  each (fun id s => s.killPacket src id withdraw) ds s3

/-- FUNCTION_LEVEL_RESET: the physical function writes FLR of virtual function f. -/
def execFunctionLevelReset (fn f : Nat) (s : State) : Out :=
  let v := s.func f
  if fn ≠ 0 ∨ f = 0 ∨ 63 < f ∨ v.flr then .next s
  else
    let n := (s.tasks.filter fun e => !e.2.fw && (s.packet e.2.packet).func == f).length
    let s1 := (s.note 0x04 2 (BitVec.ofNat 64 f) 0 none).setFunc f { v with flr := true, kcnt := n }
    .next (((s1.purge 1 (fun g => g == f) true).unloads).flrs)

/-! ### REGISTER_WRITE (R6) -/

/-- Offsets of W1 and of W2 in the numbering of this step: W0 first (log 28). -/
def w1 : Nat := 2 ^ 32
def w2 : Nat := 2 ^ 33

/-- A write to LFE_QBASE, LFE_CBASE or LFE_QSTAT of queue q. -/
def State.writeQueue (s : State) (q off : Nat) (v : W64) : State :=
  let qu := s.queue q
  let w := v.toNat
  match off with
  | 0x08 => s.setQueue q { qu with qbase := w % 2 ^ 48 }
  | 0x10 => s.setQueue q { qu with cbase := w % 2 ^ 48 }
  | 0x48 => s.setQueue q { qu with cfgerr := qu.cfgerr && !v.getLsbD 2, nrange := qu.nrange && !v.getLsbD 1, cfull := qu.cfull && !v.getLsbD 0 }
  | _ => s

/-- A write to LFE_CPCFG or LFE_CPSPILL of die d; a refused one is ignored whole (R129). -/
def State.writePool (s : State) (d off : Nat) (v : W64) : State :=
  let p := s.pool d
  let w := v.toNat
  if off = 0 then
    let hwm := bits w 11 0
    let sen := v.getLsbD 16
    let slog := bits w 21 17
    if hwm < 256 ∨ 3584 < hwm ∨ (sen ∧ (slog < 4 ∨ 16 < slog)) ∨ (slog ≠ p.slog ∧ p.ring ≠ []) then s
    else s.setPool d { p with hwm := hwm, sen := sen, slog := slog }
  else if off = 8 then (if w % 2 ^ 48 ≠ p.spill ∧ p.ring ≠ [] then s else s.setPool d { p with spill := w % 2 ^ 48 })
  else s

/-- A write of the physical function to one of its own registers (R147, R148, R188, R274, R310, R364). -/
def State.writePf (s : State) (off : Nat) (v : W64) : State :=
  let w := v.toNat
  if 0x00300000 ≤ off ∧ off < 0x00300080 then s.writePool (off / 64 % 2) (off % 64) v
  else if 0x00301000 ≤ off ∧ off < 0x00301200 then
    let f := off / 8 % 64
    s.setFunc f { s.func f with weight := if w % 65536 = 0 then 1 else w % 65536 }
  else if off = 0x00302000 then (if 32 < w % 64 then s else { s with lfe := { s.lfe with share0 := w % 64 } })
  else if off = 0x00302008 then (if 32 < w % 64 then s else { s with lfe := { s.lfe with share1 := w % 64 } })
  else if 0x00400000 ≤ off ∧ off < 0x00400200 ∧ off % 64 = 8 then
    let n := off / 64 % 8
    s.setSite n { s.site n with enable := v.getLsbD 16, thresh := bits w 15 8, decay := bits w 3 0 }
  else if off = 0x00500000 then
    { s with hif := { s.hif with strip0 := v.getLsbD 16, ilog0 := if w % 16 < 8 then s.hif.ilog0 else w % 16 } }
  else if off = 0x00500008 then
    { s with hif := { s.hif with strip1 := v.getLsbD 16, ilog1 := if w % 16 < 8 then s.hif.ilog1 else w % 16 } }
  else if 0x00600000 ≤ off ∧ off < 0x00600100 then
    { s with ce := { s.ce with budget := put 128 s.ce.budget (off / 8 % 32) (w % 65536) } }
  else if 0x00700000 ≤ off ∧ off < 0x00701000 then
    let f := off / 64 % 64
    if off % 64 = 0 then (if f = 0 then s else s.setFunc f { s.func f with en := v.getLsbD 0 })
    else if off % 64 = 0x10 then s.setFunc f { s.func f with hold := bits w 31 16, cnt := bits w 15 0 }
    else s
  else s

/-- A write to the mailbox registers of function fn (R385). -/
def State.writeMailbox (s : State) (fn off : Nat) (v : W64) : State :=
  let f := s.func fn
  let w := v.toNat
  match off with
  | 0x00 => if v.getLsbD 0 ∧ (bits w 7 4 < 4 ∨ 12 < bits w 7 4) then s else s.setFunc fn { f with mbEn := v.getLsbD 0, mbLog := bits w 7 4 }
  | 0x08 => s.setFunc fn { f with mbQbase := w % 2 ^ 48 }
  | 0x10 => s.setFunc fn { f with mbRbase := w % 2 ^ 48 }
  | _ => s

/-- The vector is masked. -/
def State.setMask (s : State) (fn vec : Nat) : State :=
  let x := get Vector.empty s.hif.vectors (2048 * fn + vec)
  { s with hif := { s.hif with vectors := put Vector.empty s.hif.vectors (2048 * fn + vec) { x with masked := true } } }

/-- REGISTER_WRITE. A write to bit 0 of the last word of an MSI-X entry masks the vector (R364, R365, log 28). -/
def execRegisterWrite (fn off : Nat) (v : W64) (s : State) : Out :=
  if w2 ≤ off then
    .next (if off % 16 = 12 ∧ off < w2 + 2 ^ 15 ∧ v.getLsbD 0 then s.setMask fn (off / 16 % 2048) else s)
  else if w1 ≤ off then .next (s.writeMailbox fn (off % 2 ^ 32) v)
  else if 0x00100000 ≤ off ∧ off < 0x00140000 then
    let q := off / 128 % 2048
    .next (if s.reaches fn q then s.writeQueue q (off % 128) v else s)
  else .next (if fn = 0 then s.writePf off v else s)

/-! ### What host software reads (R6, R86, R108, R129, R188, R274, R275, R364, R379, R384, R385, R393) -/

def slotCode : RState → Nat
  | .invalid => 0
  | .loading => 1
  | .resident => 2
  | .unloading => 3

def hCode : HState → Nat
  | .none => 0
  | .revoking => 1
  | .draining => 2
  | .writingBack => 3
  | .switching => 4

def healthCode : Health → Nat
  | .clear => 0
  | .overcast => 1
  | .storm => 2

/-- HIF_HEALTH (R384). -/
def State.healthWord (s : State) : Nat := s.hif.why * 2 ^ 8 + s.hif.repl.toNat * 4 + healthCode s.hif.health

/-- LFE_SLOTSTAT of a slot (R86). -/
def RSlot.stat (r : RSlot) : Nat := r.gen % 256 * 2 ^ 48 + slotCode r.state * 2 ^ 46 + r.func * 2 ^ 40 + r.kcnt * 2 ^ 24 + r.isize / 4096

/-- A register of a queue's block (R108, R109, R128). -/
def Queue.reg (q : Queue) (off : Nat) : Nat :=
  match off with
  | 0x00 => q.asc * 2 ^ 40 + q.func * 2 ^ 34 + q.semf * 2 ^ 25 + q.clog * 2 ^ 20 + q.qlog * 2 ^ 15 + q.en.toNat
  | 0x08 => q.qbase
  | 0x10 => q.cbase
  | 0x20 => q.notified % 2 ^ 32 * 2 ^ 32 + q.readIdx % 2 ^ 32
  | 0x28 => q.cwrite
  | 0x30 => q.cread
  | 0x40 => q.busy.toNat * 2 ^ 31 + q.count % 2 ^ 24
  | 0x48 => q.cfgerr.toNat * 4 + q.nrange.toNat * 2 + q.cfull.toNat
  | _ => 0

/-- CD_FENCE of a core (R275). -/
def Core.fenceWord (c : Core) : Nat := c.fails * 2 ^ 24 + c.out.toNat * 2 ^ 16 + c.fenced.toNat

/-- MS_SITESTAT (R188). -/
def Site.stat (x : Site) : Nat :=
  x.swapCnt.toNat * 2 ^ 32 + x.holdCnt * 2 ^ 24 + x.hot.toNat * 2 ^ 11 + hCode x.hstate * 2 ^ 8 +
    (x.remap.any fun e => e.2.getLsbD 15).toNat * 2 + x.owner

/-- Registers of the physical function alone. The occupancy field of LFE_CPSTAT is modulo 2^16: a full ring of 2^16 entries reads as 0 (R129;
DESIGN CHOICE, log 49). -/
def State.readPf (s : State) (off : Nat) : Nat :=
  if 0x00300000 ≤ off ∧ off < 0x00300080 then
    let d := off / 64 % 2
    let p := s.pool d
    match off % 64 with
    | 0 => p.slog * 2 ^ 17 + p.sen.toNat * 2 ^ 16 + p.hwm
    | 8 => p.spill
    | 16 => p.ring.length * 2 ^ 48 + (s.packetsWith fun v => v.child && v.home == d && v.reserve && v.undispatched).length * 2 ^ 32 + s.poolOcc d
    | _ => 0
  else if 0x00301000 ≤ off ∧ off < 0x00301200 then (s.func (off / 8 % 64)).weight
  else if off = 0x00302000 then s.lfe.share0
  else if off = 0x00302008 then s.lfe.share1
  else if 0x00400000 ≤ off ∧ off < 0x00400200 then
    let x := s.site (off / 64 % 8)
    if off % 64 = 0 then x.stat else if off % 64 = 8 then x.enable.toNat * 2 ^ 16 + x.thresh * 2 ^ 8 + x.decay else 0
  else if off = 0x00500000 then s.hif.strip0.toNat * 2 ^ 16 + s.hif.ilog0
  else if off = 0x00500008 then s.hif.strip1.toNat * 2 ^ 16 + s.hif.ilog1
  else if 0x00501000 ≤ off ∧ off < 0x00501600 then (s.core (off / 8 % 256)).fenceWord
  else if 0x00600000 ≤ off ∧ off < 0x00600100 then get 128 s.ce.budget (off / 8 % 32)
  else if 0x00700000 ≤ off ∧ off < 0x00701000 then
    let f := s.func (off / 64 % 64)
    match off % 64 with
    | 0 => f.flr.toNat * 2 ^ 31 + f.en.toNat
    | 8 => f.ndrop.toNat * 2 ^ 32 + f.kcnt % 2 ^ 24
    | 16 => f.hold * 2 ^ 16 + f.cnt
    | _ => 0
  else if off = 0x00780000 then s.hif.baro.total.toNat * 2 ^ 32 + s.hif.baro.frozen.toNat * 2 ^ 31 + s.hif.baro.head
  else if off = 0x00780010 then s.hif.reset1.toNat * 2 + s.hif.reset0.toNat
  else if 0x00800000 ≤ off ∧ off < 0x00880000 then
    (get 0 s.hif.baro.ring (off / 32 % 16384)).toNat / 2 ^ (8 * (off % 32)) % 2 ^ 64
  else 0

/-- What a read by function fn at offset off of its W0 returns; a read changes nothing. -/
def State.readReg (s : State) (fn off : Nat) : W64 :=
  BitVec.ofNat 64
    (if 0x00010000 ≤ off ∧ off < 0x00010800 then
      let r := s.rslot (off / 8 % 256)
      if fn = 0 ∨ r.func = fn then r.stat else 0
    else if 0x00100000 ≤ off ∧ off < 0x00140000 then
      let q := off / 128 % 2048
      if s.reaches fn q then (s.queue q).reg (off % 128) else 0
    else if 0x00200000 ≤ off ∧ off < 0x00280000 then
      let i := off / 4 % 0x20000
      if fn = 0 ∨ get 0 s.hif.ownFile (i / 256) = fn then (s.sem (i / 256) (i % 256)).toNat else 0
    else if off = 0x00780008 then s.healthWord
    else if fn = 0 then s.readPf off
    else 0)

/-- What a read by function fn at offset off of its W1 returns: its mailbox; HIF_MBNOTIFY is write-only (R6, R385). -/
def State.readMailbox (s : State) (fn off : Nat) : W64 :=
  let f := s.func fn
  match off with
  | 0x00 => BitVec.ofNat 64 (f.mbLog * 2 ^ 4 + f.mbEn.toNat)
  | 0x08 => BitVec.ofNat 64 f.mbQbase
  | 0x10 => BitVec.ofNat 64 f.mbRbase
  | 0x20 => BitVec.ofNat 64 (f.mbResp % 2 ^ 32 * 2 ^ 32 + f.mbRead % 2 ^ 32)
  | _ => 0

end Sys2Proof.Machine
end

