-- ==== Sys2Proof/Machine/Pipeline.lean ====
section
/-! DEFINITION. Fetching a unit, ROUTE and ICACHE_FILL (07_control_slice.md R153, R155), the completion of routed entries
(10_vector_queues.md R242), queue stalls (R178), and the passing of units between tasks (14_interruptions.md R358). -/

namespace Sys2Proof.Machine

/-! ### Fetch (R153) -/

/-- What the slice finds at a task's pc. -/
inductive Fetched where
  /-- The line of this address is not in the instruction cache. -/
  | miss (line : Nat)
  /-- The word at this offset lies outside the image. -/
  | outside (off : Nat)
  /-- The word at this offset is poisoned (R417). -/
  | poisoned (off : Nat)
  | unit (i : Instr)

/-- The word at address a of the image is poisoned. -/
def State.fetchBad (s : State) (k : Task) (a : Nat) : Bool := (s.imageAt k a).any fun f => s.badIn f 4

/-- Line that fetch of a unit at a still needs: that of a, and for a prefix at the end of a line the next one. -/
def State.lineNeeded (s : State) (k : Task) (a w0 : Nat) : Option Nat :=
  let lines := (s.core k.coreKey).icache
  if !lines.contains (lineOf a) then some (lineOf a)
  else if a % 64 = 60 ∧ w0 % 4 = 2 ∧ (s.fetch k (a + 4)).isSome ∧ !lines.contains (lineOf (a + 4)) then some (lineOf (a + 4))
  else none

/-- Fetch and decode the unit at the pc of task k. -/
def State.fetchUnit (s : State) (k : Task) : Fetched :=
  let a := k.pc
  match s.fetch k a with
  | none => .outside 0
  | some w0 =>
    match s.lineNeeded k a w0 with
    | some l => .miss l
    | none =>
      if s.fetchBad k a then .poisoned 0
      else
        match decodeUnit (a % 8 == 4) w0 (s.fetch k (a + 4)) (s.fetch k (a + 8)) with
        | .missing off => .outside off
        | .ok i len =>
          if 4 < len ∧ s.fetchBad k (a + 4) then .poisoned 4
          else if 8 < len ∧ s.fetchBad k (a + 8) then .poisoned 8
          else .unit i

/-- The slice of the context may issue: the task runs, no fill is awaited and no YIELD is in force (R153, R154, R375). -/
def Task.mayIssue (k : Task) : Bool := k.phase == .running && k.missing.isNone && k.yieldLeft == 0

/-- Fetch fails: a fill starts, or the unit faults (R46, R153, R346). -/
def fetchFail (s : State) (k : Task) (f : Fetched) : State :=
  match f with
  | .miss l => s.now { k with missing := some l }
  | .outside off => s.slip 0x0A (k.pc + off) 0
  | .poisoned off => s.slip 0x40 (k.pc + off) 0
  | .unit _ => s

/-- ROUTE: the slice routes the unit at the pc of the current task, if it is a routed one (R155). -/
def execRoute (s : State) : Out :=
  match find s.tasks s.cur with
  | none => .next s
  | some k =>
    if !k.mayIssue then .next s
    else
      match s.fetchUnit k with
      | .unit i => match i.home with | some q => routeInstr i q s | none => .next s
      | f => .next (fetchFail s k f)

/-- The line that the task waits for is filled, once its page is not held (R153, R185, R206). Where 4,096 lines are there, the one filled
first goes: R153 names none (DESIGN CHOICE, log 49). -/
def execIcacheFill (s : State) : Out :=
  match find s.tasks s.cur with
  | none => .next s
  | some k =>
    match k.missing with
    | none => .next s
    | some l =>
      let co := s.core k.coreKey
      let a := s.imageAt k l
      .next (if a.any s.heldAt then s
        else (s.arriveAll a.toList).setCore k.coreKey { co with icache := (l :: co.icache).take 4096 } |>.now { k with missing := none })

/-! ### Completion (R36, R77, R242) -/

/-- Add one token to channel a to b; true where it would pass 63 (R36). -/
def QSet.signal (s : QSet) (a b : Nat) (on : Bool) : QSet × Bool :=
  if !on then (s, false) else if s.chan a b < 63 then (s.setChan a b (s.chan a b + 1), false) else (s, true)

/-- Both signals of an instruction of queue q. -/
def QSet.signals (s : QSet) (q : Nat) (tok : BitVec 4) : QSet × Bool :=
  let (s1, a) := s.signal q (nbrA q) (tok.getLsbD 1)
  let (s2, b) := s1.signal q (nbrB q) (tok.getLsbD 3)
  (s2, a || b)

/-- The entry's own work is over: it holds its unit no more, and its tiles are LIVE (R226, R242). -/
def Issued.finished (s : State) (t : Nat) (k : Task) (i : Issued) : Bool :=
  !i.busy && !i.holding && i.fills.all fun p =>
    let x := s.tslot k.coreKey p
    !(x.state == .filling && x.owner == t && x.filler == i.entry.pos)

/-- Name that an entry relinquishes as it completes: a TUNPARK's, unless its predicate skipped it (R40, R233, R242). -/
def Issued.unparks (i : Issued) : Option Nat :=
  match i.entry.instr with
  | .tunpark _ => if i.skipped then none else some i.entry.xa.toNat
  | _ => none

/-- The oldest issued entry of a queue completes: flags, push and token signals, and the name of a TUNPARK (R36, R77, R159, R233,
R242). -/
def execEntryComplete (t q : Nat) (hs : Bool) (s : State) : Out :=
  match find s.tasks t with
  | none => .next s
  | some k =>
    let qs := k.set hs
    let rq := qs.rq q
    match rq.issued with
    | [] => .next s
    | i :: r =>
      if !i.finished s t k then .next s
      else
        let (qs1, full) := (qs.setRq q { rq with issued := r }).signals q i.entry.instr.tok
        let rq1 := qs1.rq q
        let flt : FaultRec := { cause := 0x1B, addr := i.entry.pc, data := 0, src := q + 1, await := 0, pos := i.entry.pos }
        let qs2 := if full then qs1.setRq q { rq1 with late := rq1.late ++ [flt], halted := true } else qs1
        let qs3 := match i.push with | some v => { qs2 with rtq := qs2.rtq ++ [v] } | none => qs2
        let s1 := s.setTask t ({ k with fflags := k.fflags ||| i.flags }.withSet hs qs3)
        let s2 := match i.unparks with | some nm => s1.dropName (s.ascOf k) nm | none => s1
        .next (s2.afterTend t)

/-- The entry's holding time can end: it has one, and is no MMA in progress, which holds its unit to its end (R242, R269). -/
def Issued.mayEnd (i : Issued) : Bool := i.holding && !(i.busy && i.entry.instr.isMma)

/-- Replace the n-th holder of a list of issued entries by one that holds no more. -/
def endHold : List Issued → Nat → List Issued
  | [], _ => []
  | i :: r, n =>
    if i.mayEnd then
      match n with
      | 0 => { i with holding := false } :: r
      | m + 1 => i :: endHold r m
    else i :: endHold r n

/-- The holding time of an issued entry of a queue ends (R242). Which of several units ends first is timing: a free value
(log 8). -/
def execUnitHoldingEnd (t q : Nat) (hs : Bool) (s : State) : Out :=
  match find s.tasks t with
  | none => .next s
  | some k =>
    let qs := k.set hs
    let rq := qs.rq q
    let n := (rq.issued.filter Issued.mayEnd).length
    if n = 0 then .next s
    else
      let (pick, s1) := s.draw
      .next (s1.setTask t (k.withSet hs (qs.setRq q { rq with issued := endHold rq.issued (pick % n) })))

/-! ### The watchdog (R178 to R180) -/

/-- The stall counter has reached a bound that is not 0: the head raises queue stall (R178). -/
def execQueueStall (t q : Nat) (hs : Bool) (s : State) : Out :=
  match find s.tasks t with
  | none => .next s
  | some k =>
    let rq := (k.set hs).rq q
    match rq.entries with
    | [] => .next s
    | e :: _ =>
      if k.headsRun hs && rq.open && rq.bound != 0 && decide (rq.bound.toNat ≤ rq.stall) then
        .next (s.raise t hs q e 0x20 0 rq.await)
      else .next s

/-! ### Units that pass between tasks (R225, R358) -/

/-- The task is in the middle of an MX entry: the set does not pass before it ends, unless pre-emption has suspended the task
(R265, R270, R358). -/
def Task.inMatrix (k : Task) : Bool :=
  (k.ord.cmq.issued.any fun i => i.entry.instr.unit == 2 && (i.holding || i.busy)) &&
    (match k.phase with | .suspended _ => false | _ => true)

/-- A bank, the accumulator set or a deferral queue: the holder's contents are saved; then the claimant's saved copy is
restored, or the unit is its. -/
def saveUnit (s : State) (c u claimant : Nat) (x : PUnit) : State :=
  let co := s.core c
  let next : PUnit :=
    if (s.task claimant).saved.contains u then { holder := none, pass := .restoring claimant }
    else { holder := some claimant, pass := .idle }
  let s1 := s.setCore c { co with units := put PUnit.empty co.units u next }
  match x.holder with
  | none => s1
  | some v =>
    match find s.tasks v with
    | none => s1
    | some k =>
      if u = 12 && k.inMatrix then s
      else s1.setTask v { k with saved := if k.saved.contains u then k.saved else u :: k.saved }

/-- The slot's tile is a task's other than the claimant: once LIVE, and once reads that have issued have taken place (R220), it is
saved, and the slot becomes EMPTY, with its next generation (R216, R225). -/
def saveSlot (s0 : State) (c p claimant : Nat) : State :=
  let s := s0.flushTile (s0.tslot c p).owner (p - (s0.task (s0.tslot c p).owner).partBase)
  let co := s.core c
  let x := s.tslot c p
  let idle (co : Core) : Core := { co with units := put PUnit.empty co.units (16 + p) PUnit.empty }
  if x.state == .empty || x.owner == claimant then s.setCore c (idle co)
  else if x.state == .filling then s
  else
    let k := s.task x.owner
    let sv : SavedTile := { task := x.owner, slot := p - k.partBase, tile := { x with state := .saved } }
    s.setCore c (idle { co with slots := put TSlot.empty co.slots p x.emptied, savedTiles := co.savedTiles ++ [sv] })

/-- Units 16 to 79 are the tile slots (R358). -/
def isSlotUnit (u : Nat) : Bool := decide (16 ≤ u) && decide (u < 80)

def execUnitSaveComplete (core unit : Nat) (s : State) : Out :=
  let x := get PUnit.empty (s.core core).units unit
  match x.pass with
  | .saving c => .next (if isSlotUnit unit then saveSlot s core (unit - 16) c else saveUnit s core unit c x)
  | _ => .next s

/-- The claimant's saved tile goes back to its slot, LIVE, once the slot is EMPTY; the generation is the physical slot's (R216). -/
def restoreSlot (s : State) (c p claimant : Nat) : State :=
  let co := s.core c
  let k := s.task claimant
  let mine (y : SavedTile) : Bool := y.task == claimant && k.partBase + y.slot == p
  let idle (co : Core) : Core := { co with units := put PUnit.empty co.units (16 + p) PUnit.empty }
  match co.savedTiles.find? mine with
  | none => s.setCore c (idle co)
  | some y =>
    if (s.tslot c p).state != .empty then s
    else
      s.setCore c (idle { co with slots := put TSlot.empty co.slots p { y.tile with state := .live, gen := (s.tslot c p).gen },
                                  savedTiles := co.savedTiles.filter fun z => !mine z })

def execUnitRestoreComplete (core unit : Nat) (s : State) : Out :=
  let co := s.core core
  match (get PUnit.empty co.units unit).pass with
  | .restoring c =>
    if isSlotUnit unit then .next (restoreSlot s core (unit - 16) c)
    else
      let s1 := s.setCore core { co with units := put PUnit.empty co.units unit { holder := some c, pass := .idle } }
      match find s.tasks c with
      | none => .next s1
      | some k => .next (s1.setTask c { k with saved := k.saved.filter fun u => u != unit })
  | _ => .next s

end Sys2Proof.Machine
end

