-- ==== Sys2Proof/Machine/System.lean ====
section
/-! DEFINITION. System registers, TRAP, ERET, YIELD and BARO (14_interruptions.md R352, R353, R369 to R376), and the events by
which a task leaves and resumes its ordinary course (R347 to R357, R95). -/

namespace Sys2Proof.Machine

/-! ### System registers (R369 to R372) -/

/-- A number below 0x800 that names a register. -/
def sysNamed (n : Nat) : Bool := decide (n ≤ 0x023) && n != 0x007 && n != 0x00F || (decide (0x030 ≤ n) && decide (n ≤ 0x033))

/-- A writable register. -/
def sysWritable (n : Nat) : Bool := [0x000, 0x001, 0x008, 0x009, 0x00C].contains n || (decide (0x030 ≤ n) && decide (n ≤ 0x033))

/-- sys.mmstate (R271). -/
def mmstate (k : Task) : W64 :=
  match k.mma with
  | some m => if m.stopped then BitVec.ofNat 64 (m.next % 32 * 2 ^ 4 + m.acc % 8 * 2 + 1) else 0
  | none => 0

/-- sys.ctxid (R370). -/
def State.ctxid (s : State) (k : Task) : W64 :=
  let p := s.packet k.packet
  BitVec.ofNat 64 (p.asc % 4096 * 2 ^ 32 + p.func % 64 * 2 ^ 26 + k.die % 2 * 2 ^ 16 + k.core % 128 * 2 ^ 8 + k.ctx % 2)

/-- The fault of a queue that is taken first: one of an entry that had issued, then its head's. R36 and R348 do not order the two
(DESIGN CHOICE, log 49). -/
def RQ.firstFault (q : RQ) : Option FaultRec := match q.late with | f :: _ => some f | [] => q.fault

/-- The queue without the fault that is taken. -/
def RQ.tookFault (q : RQ) : RQ := match q.late with | _ :: r => { q with late := r } | [] => { q with fault := none }

def QSet.faulted (q : QSet) : Bool := q.ldq.firstFault.isSome || q.cmq.firstFault.isSome || q.stq.firstFault.isSome

/-- sys.tstat (R369). -/
def tstat (k : Task) : W64 := BitVec.ofNat 64 ((k.ord.faulted || k.hnd.faulted).toNat * 2 + k.inTrap.toNat)

/-- Flags of a subset of the issued entries: bit n of the pick takes entry n (R77). -/
def flagsOf : List Issued → Nat → BitVec 6
  | [], _ => 0
  | i :: r, pick => (if pick % 2 = 1 then i.flags else 0) ||| flagsOf r (pick / 2)

def QSet.inFlight (q : QSet) : List Issued := q.ldq.issued ++ q.cmq.issued ++ q.stq.issued

/-- Value of system register n, sys.fflags apart. -/
def State.sysRead (s : State) (k : Task) (n : Nat) : W64 :=
  match n with
  | 0x001 => k.rsrseed
  | 0x002 => mmstate k
  | 0x003 => s.fabno.setWidth 64
  | 0x004 => BitVec.ofNat 64 k.cycle
  | 0x005 => BitVec.ofNat 64 s.time
  | 0x006 => s.ctxid k
  | 0x008 => k.tvec
  | 0x009 => k.tpc
  | 0x00A => k.tcause.setWidth 64
  | 0x00B => k.taddr
  | 0x00C => k.tinfo
  | 0x00D => k.tdata
  | 0x00E => tstat k
  | _ => if n < 0x020 then get 0 k.p (n - 0x010) else if n < 0x024 then get 0 k.i (n - 0x020) else get 0 k.tsave (n - 0x030)

def Task.sysWrite (k : Task) (n : Nat) (v : W64) : Task :=
  match n with
  | 0x000 => { k with fflags := v.setWidth 6 }
  | 0x001 => { k with rsrseed := v }
  | 0x008 => { k with tvec := v &&& ~~~(7 : W64) }
  | 0x009 => { k with tpc := v &&& ~~~(3 : W64) }
  | 0x00C => { k with tinfo := (k.tinfo &&& ~~~(1 : W64)) ||| (v &&& 1) }
  | _ => { k with tsave := put 0 k.tsave (n - 0x030) v }

/-- SRD. A read of sys.fflags takes the flags of any subset of the entries in flight: a free value (R77, log 8). -/
def execSrd (d : Reg) (n : BitVec 12) (s : State) : Out :=
  match find s.tasks s.cur with
  | none => .fault .noTask
  | some k =>
    let m := n.toNat
    if 0x800 ≤ m then (if k.fw then .refused .firmwareRegister else .next (s.slip 0x04 k.pc 0))
    else if !sysNamed m then .next (s.slip 0x03 k.pc 0)
    else if k.hazard [d] then .next s
    else if m = 0 then
      let fl := k.ord.inFlight ++ k.hnd.inFlight
      if fl.isEmpty then .next (s.now ((k.wx d (k.fflags.setWidth 64)).adv 4))
      else
        let (pick, s1) := s.draw
        .next (s1.now ((k.wx d ((k.fflags ||| flagsOf fl pick).setWidth 64)).adv 4))
    else .next (s.now ((k.wx d (s.sysRead k m)).adv 4))

def execSwr (a : Reg) (n : BitVec 12) (s : State) : Out :=
  match find s.tasks s.cur with
  | none => .fault .noTask
  | some k =>
    let m := n.toNat
    if 0x800 ≤ m then (if k.fw then .refused .firmwareRegister else .next (s.slip 0x04 k.pc 0))
    else if !sysNamed m then .next (s.slip 0x03 k.pc 0)
    else if !sysWritable m then .next (s.slip 0x04 k.pc 0)
    else if k.hazard [a] then .next s
    else .next (s.now ((k.sysWrite m (k.rx a)).adv 4))

/-! ### TRAP, YIELD, BARO (R373, R375, R376) -/

def execTrap (imm : BitVec 12) (s : State) : Out := onSlice s [] fun k => s.slip 0x05 k.pc (imm.setWidth 64)

/-- YIELD: 16 slice cycles without issue; the count kept is the cycles left plus 1. -/
def execYield (s : State) : Out := onSlice s [] fun k => s.now ({ k with yieldLeft := 17 }.adv 4)

/-- The YIELD of the current task ends once its cycles have passed. -/
def execYieldEnd (s : State) : Out :=
  match find s.tasks s.cur with
  | none => .next s
  | some k => .next (if k.yieldLeft = 1 then s.now { k with yieldLeft := 0 } else s)

/-- Time, plus 1, from which BARO may write in the context of task k again, whichever task it wrote for (R376). -/
def State.baroNext (s : State) (k : Task) : Nat :=
  match get 0 (s.core k.coreKey).baroAt k.ctx with
  | 0 => 0
  | t + 1 => t + 257

/-- BARO has written in the context of task k: the time, plus 1, is kept. -/
def State.wroteBaro (s : State) (k : Task) : State :=
  let co := s.core k.coreKey
  s.setCore k.coreKey { co with baroAt := put 0 co.baroAt k.ctx (s.time + 1) }

/-- BARO waits for 256 array cycles after the context's last record; frozen, it writes nothing. -/
def execBaro (a : Reg) (imm : BitVec 12) (s : State) : Out :=
  onSlice s [a] fun k =>
    if s.hif.baro.frozen then s.now (k.adv 4)
    else if decide (s.time + 1 < s.baroNext k) then s
    else ((s.note 0x10 imm.toNat (k.rx a) 0 (some k)).wroteBaro k).now (k.adv 4)

/-! ### Routed faults (R347, R348, R353) -/

/-- Queue whose pending fault is taken first: LDQ, CMQ, STQ (R348). -/
def QSet.firstFault (q : QSet) : Option (Nat × FaultRec) :=
  match q.ldq.firstFault, q.cmq.firstFault, q.stq.firstFault with
  | some f, _, _ => some (0, f)
  | none, some f, _ => some (1, f)
  | none, none, some f => some (2, f)
  | none, none, none => none

/-- Take the pending fault f of queue q of task t, with a resume address. -/
def State.takeRouted (s : State) (t q : Nat) (f : FaultRec) (resume : Nat) : State :=
  let k := s.task t
  let qs := k.qset
  (s.setTask t (k.setQset (qs.setRq q (qs.rq q).tookFault))).take t f resume

/-- A fault of a queue head reaches the slice, which takes it before its next unit (R347). -/
def execRoutedFaultArrival (s : State) : Out :=
  match find s.tasks s.cur with
  | none => .next s
  | some k =>
    if !k.headsRun k.inTrap then .next s
    else
      match k.qset.firstFault with
      | none => .next s
      | some (q, f) => .next (s.takeRouted s.cur q f k.pc)

/-! ### ERET (R352, R353, R374) -/

/-- SKIP removes the head entry of queue q: its token signals apply, and it raises no fault (R352). -/
def QSet.skipHead (qs : QSet) (q : Nat) : QSet :=
  let rq := qs.rq q
  match rq.entries with
  | [] => qs
  | e :: r => ((qs.setRq q { rq with entries := r, stall := if r.isEmpty then 0 else rq.stall }).signals q e.instr.tok).1

/-- The queue issues again after a token overflow that has been taken (R36), and after a stall its counter restarts (R180). -/
def RQ.returned (rq : RQ) (stalled : Bool) : RQ :=
  { rq with halted := rq.halted && rq.late.any (fun f => f.cause == 0x1B), stall := if stalled then 0 else rq.stall }

def QSet.returned (qs : QSet) (src : Nat) (cause : Byte) : QSet :=
  let st (q : Nat) : Bool := src == q + 1 && cause == 0x20
  { qs with ldq := qs.ldq.returned (st 0), cmq := qs.cmq.returned (st 1), stq := qs.stq.returned (st 2) }

/-- The context after ERET: the handler set is gone, SKIP is applied and cleared, IN is 0 (R352). -/
def Task.returned (k : Task) : Task :=
  let src := k.tinfo.toNat / 2 ^ 28 % 16
  let skip := k.tinfo.getLsbD 0 && decide (1 ≤ src) && decide (src ≤ 3) && k.tcause != 0x1B
  let ord := if skip then k.ord.skipHead (src - 1) else k.ord
  { k.goOn with
    ord := ord.returned src k.tcause, hnd := QSet.empty 8 8 8, inTrap := false, tinfo := k.tinfo &&& ~~~(1 : W64),
    markers := k.markers.map fun m => if m.hs then { m with queues := [], hs := false } else m }

def execEret (s : State) : Out :=
  onSlice s [] fun k =>
    if !k.inTrap then s.slip 0x03 k.pc 0
    else if !k.hnd.allDone then s
    else
      let names := k.hnd.nrq ++ k.hnd.names.map NameOut.name
      let s1 := each (fun nm s => State.dropName s (s.ascOf k) nm) names (s.now k.returned)
      let target := s.imageBase k + k.tpc.toNat
      match k.returned.ord.firstFault with
      | some (q, f) => (s1.now { s1.task s.cur with pc := target }).takeRouted s.cur q f target
      | none => s1.jump target

/-! ### Drains that end (R349, R350, R355, R357) -/

/-- The drain is done and the trap is entered (R350). -/
def execTrapEntry (s : State) : Out :=
  match find s.tasks s.cur with
  | none => .next s
  | some k =>
    match k.phase with
    | .drainTrap f r => .next (if k.drained then s.enterTrap s.cur f r else s)
    | _ => .next s

/-- The drain for the firmware is done: the context is switched out (R355). -/
def execFirmwareSwitchOut (s : State) : Out :=
  match find s.tasks s.cur with
  | none => .next s
  | some k =>
    match k.phase with
    | .drainFw f => .next (if k.drained then s.now { k.parked with phase := .switchedOut f } else s)
    | _ => .next s

/-- Firmware answers "resume": the faulting XLT executes again (R355). -/
def execFirmwareFaultResume (s : State) : Out :=
  match find s.tasks s.cur with
  | none => .next s
  | some k =>
    match k.phase with
    | .switchedOut _ => .next (s.now { (if k.inTrap then k else k.goOn) with phase := .running, walk := none })
    | _ => .next s

/-- Firmware answers "fatal" (R355). -/
def execFirmwareFaultFatal (s : State) : Out :=
  match find s.tasks s.cur with
  | none => .next s
  | some k =>
    match k.phase with
    | .switchedOut f => .next (s.fatal s.cur f)
    | _ => .next s

/-- The task cycle bound (R95): fatal, whatever is pending (R346, R348). -/
def execTaskCycleBound (s : State) : Out :=
  match find s.tasks s.cur with
  | none => .next s
  | some k =>
    let b := (s.packet k.packet).bound
    if b ≠ 0 ∧ b * 256 ≤ k.cycle then
      .next (s.fatal s.cur { cause := 0x21, addr := k.pc, data := 0, src := 0, await := 0, pos := 0 })
    else .next s

/-! ### Partitions and the switch of pre-emption (R215, R357) -/

/-- Bases of the aligned ranges of n slots (R215). -/
def rangesOf (n : Nat) : List Nat := (List.range (64 / n)).map fun i => i * n

/-- The range of n slots at b meets one of a list of partitions. -/
def meets (b n : Nat) (parts : List (Nat × Nat)) : Bool := parts.any fun p => decide (b < p.1 + p.2) && decide (p.1 < b + n)

/-- The partition of a task: base and size. -/
def State.partOf (s : State) (t : Option Nat) : List (Nat × Nat) :=
  match t with
  | some v => [((s.task v).partBase, (s.task v).partSize)]
  | none => []

/-- Partitions that a user context holds, its suspended task's among them. -/
def State.parts (s : State) (x : CtxSlot) : List (Nat × Nat) := s.partOf x.run ++ s.partOf x.susp

/-- Slots that a task of a user context takes: its partition, that it waits for, or, while it drains for a newcomer, the newcomer's
where that is greater (R142, R357). -/
def State.slotsTaken (s : State) (t : Nat) : Nat :=
  let k := s.task t
  let wanted (k : Task) : Nat := partSlots (s.packet k.packet).part
  match k.phase with
  | .drainPre n _ => max k.partSize (if (find s.tasks n).isSome then wanted (s.task n) else 0)
  | _ => if k.partSize = 0 then wanted k else k.partSize

/-- Size of the partition of a user context's task, 0 without one. -/
def State.partLen (s : State) (x : CtxSlot) : Nat := match x.run with | none => 0 | some t => s.slotsTaken t

/-- Every slot of a range is EMPTY. -/
def State.rangeEmpty (s : State) (c b n : Nat) : Bool := (List.range n).all fun i => (s.tslot c (b + i)).state == .empty

/-- Lowest aligned range of n EMPTY slots outside some partitions (R142, R215). -/
def State.freeRange (s : State) (c n : Nat) (parts : List (Nat × Nat)) : Option Nat :=
  (rangesOf n).find? fun b => !meets b n parts && s.rangeEmpty c b n

/-- LIVE tiles of task v in a range. -/
def State.liveIn (s : State) (c b n v : Nat) : Nat :=
  ((List.range n).filter fun i =>
    let x := s.tslot c (b + i)
    x.state == .live && x.owner == v).length

/-- Base with the least count, the first on a tie. -/
def leastBy (f : Nat → Nat) : List Nat → Option Nat
  | [] => none
  | a :: r =>
    match leastBy f r with
    | none => some a
    | some b => if f a ≤ f b then some a else some b

/-- Range for a newcomer: free slots first, else the fewest LIVE tiles of the victim (R357). -/
def State.newRange (s : State) (c n v : Nat) (parts : List (Nat × Nat)) : Option Nat :=
  match s.freeRange c n parts with
  | some b => some b
  | none => leastBy (fun b => s.liveIn c b n v) ((rangesOf n).filter fun b => !meets b n parts)

/-- The partition of newcomer n is placed in context ctx of core c; v is its victim, or itself. Where the slots of the other context's
suspended task leave no range, they are not spared: their tiles pass as R225 says (DESIGN CHOICE, log 49). -/
def State.placeNew (s : State) (c ctx n v : Nat) : State :=
  let co := s.core c
  let k := s.task n
  let size := partSlots (s.packet k.packet).part
  let other := if ctx = 0 then co.ctxB else co.ctxA
  let base := match s.newRange c size v (s.parts other) with | some b => some b | none => s.newRange c size v (s.partOf other.run)
  match base with
  | none => s
  | some b => s.setTask n { k with partBase := b, partSize := size }

/-- The victim's drain is done and the newcomer takes its context (R357); or, where the victim ended first, the newcomer that
holds the context has its partition placed. -/
def execPreEmptionSwitch (s : State) : Out :=
  match find s.tasks s.cur with
  | none => .next s
  | some k =>
    let c := k.coreKey
    let co := s.core c
    match k.phase with
    | .drainPre n done =>
      if (find s.tasks n).isNone then
        .next (s.now { (if k.inTrap then k else k.goOn) with phase := if done then .ended else .running })
      else if !k.drained then .next s
      else
        let slot : CtxSlot := { run := some n, susp := some s.cur }
        let co1 := if k.ctx = 0 then { co with ctxA := slot } else { co with ctxB := slot }
        .next (((s.now { k.parked with phase := .suspended done }).setCore c co1).placeNew c k.ctx n s.cur)
    | .arriving =>
      let slot := if k.ctx = 0 then co.ctxA else co.ctxB
      .next (if k.partSize = 0 ∧ slot.run = some s.cur then s.placeNew c k.ctx s.cur s.cur else s)
    | _ => .next s

end Sys2Proof.Machine
end

