-- ==== Sys2Proof/Machine/Health.lean ====
section
/-! DEFINITION. Health (15_retirement_and_health.md R383, R384), memory sites (08_memory_sites.md R184 to R187, R196, R197, R206),
memory errors (R417, R381), test strips (11_matrix_and_routing.md R272, R273) and fabric ports (R381, R383). -/

namespace Sys2Proof.Machine

/-! ### Health (R383) -/

/-- A change of health, with its record; kind is that of the record that caused it (R384). -/
def State.health (s : State) (h : Health) (kind : Nat) : State :=
  let s1 := { s with hif := { s.hif with health := h, repl := true, why := if s.hif.health = h then s.hif.why else kind } }
  s1.note 0x0C (healthCode h) (BitVec.ofNat 64 s1.healthWord) 0 none

/-- An overcast event. -/
def State.overcast (s : State) (kind : Nat) : State := if s.storm then s else s.health .overcast kind

/-- The package enters storm: the record, FROZEN, and the storm actions at one point. -/
def State.enterStorm (s : State) (kind : Nat) : State :=
  if s.storm then s
  else
    let s1 := s.health .storm kind
    let s2 := { s1 with hif := { s1.hif with baro := { s1.hif.baro with frozen := true } } }
    ((s2.purge 0 (fun _ => true) false).interrupt 0 0).unloads

/-- BAROGRAPH_FREEZE and BAROGRAPH_UNFREEZE by the physical function (R382). -/
def execBarographFreeze (fn : Nat) (s : State) : Out :=
  .next (if fn = 0 then { s with hif := { s.hif with baro := { s.hif.baro with frozen := true } } } else s)

def execBarographUnfreeze (fn : Nat) (s : State) : Out :=
  .next (if fn = 0 then { s with hif := { s.hif with baro := { s.hif.baro with frozen := false } } } else s)

/-! ### Hand-over (R196, R197) -/

/-- A physical address of an access lies in site i. -/
def Access.inSite (i : Nat) : Access → Bool
  | .load _ a _ _ _ _ _ => siteOf a == some i
  | .write cells _ _ _ => cells.any fun c => siteOf c.1 == some i
  | .read want _ _ => want.any fun c => siteOf c.2 == some i
  | .tile .. | .fence .. => false

/-- Accesses issued to site i and commands that captured a base in it have retired (R196). -/
def State.siteQuiet (s : State) (i : Nat) : Bool :=
  (s.tasks.all fun e => !((e.2.slice ++ e.2.ldqOut ++ e.2.stqOut).any (Access.inSite i))) &&
    (s.ce.late.all fun e => e.2.all fun c => siteOf c.1 != some i) &&
    s.ce.cmds.all fun c => c.2.state == .ended || !c.2.pages.any fun p => siteOf p.2.1 == some i

def execHandoverDraining (site : Nat) (s : State) : Out :=
  let x := s.site site
  .next (if x.hstate = .revoking ∧ s.siteQuiet site then s.setSite site { x with hstate := .draining } else s)

/-- DRAINING and WRITING BACK wait through a thermal hold (R197). -/
def execHandoverWritingBack (site : Nat) (s : State) : Out :=
  let x := s.site site
  .next (if x.hstate = .draining ∧ !x.hot then s.setSite site { x with hstate := .writingBack } else s)

def execHandoverSwitching (site : Nat) (s : State) : Out :=
  let x := s.site site
  .next (if x.hstate = .writingBack ∧ !x.hot then s.setSite site { x with hstate := .switching } else s)

/-- The port switches: the other die owns the site, and the named counter takes its delta. -/
def execHandoverComplete (site : Nat) (s : State) : Out :=
  let x := s.site site
  if x.hstate != .switching then .next s
  else
    let s1 := s.setSite site { x with hstate := .none, hand := none, owner := 1 - x.owner }
    match x.hand with
    | none => .next s1
    | some h => .next (s1.signal h.file h.counter h.delta none)

/-! ### Swaps, hotness, thermal holds (R185 to R187, R206) -/

def Site.heat (x : Site) (g slot : Nat) : Nat := (get 0 x.shadow (786432 * slot + g)).toNat
def Site.isPinned (x : Site) (g slot : Nat) : Bool := x.pins.contains (786432 * slot + g)

/-- Slot of the fast-resident page of a group. -/
def Site.fastSlot (x : Site) (g : Nat) : Nat := ([0, 1, 2, 3, 4].find? fun i => x.frame g i == 0).getD 0

/-- Capacity slot that the swap engine brings into the fast frame: that of the page of the group pinned first, else the hottest that
passes the margin, the lowest on a tie (R185, R187). "Exceeds by at least THRESH" is read as a difference of THRESH or more, so that with
THRESH = 0 equal counters pass (DESIGN CHOICE, log 49). -/
def Site.swapSlot (x : Site) (g : Nat) : Option Nat :=
  let f := x.fastSlot g
  let caps := [0, 1, 2, 3, 4].filter fun i => i != f
  if x.isPinned g f then none
  else
    match x.pins.find? fun p => p % 786432 == g with
    | some p => some (p / 786432)
    | none => leastBy (fun i => 255 - x.heat g i) (caps.filter fun i => decide (x.heat g f + x.thresh ≤ x.heat g i))

/-- SWAP: at most one of a group per decay period; not while the stack is in self-refresh (R206). -/
def execSwap (site group : Nat) (s : State) : Out :=
  let x := s.site site
  if !x.enable || x.hot || x.swapping.isSome || x.swapped.contains group || decide (786432 ≤ group) then .next s
  else
    match x.swapSlot group with
    | none => .next s
    | some i => .next (s.setSite site { x with swapping := some (group, i) })

/-- MAP of a group after slot i has taken the fast frame from slot f. -/
def Site.exchanged (x : Site) (g i f : Nat) : W16 :=
  let e := get identMap x.remap g
  let fr := x.frame g i
  let clear : W16 := e &&& ~~~(BitVec.ofNat 16 (7 * 2 ^ (3 * i) + 7 * 2 ^ (3 * f)))
  clear ||| BitVec.ofNat 16 (fr * 2 ^ (3 * f))

/-- SWAP_COMPLETE: MAP is rewritten; a fast page that was pinned meanwhile stays where it is (R187). -/
def execSwapComplete (site : Nat) (s : State) : Out :=
  let x := s.site site
  match x.swapping with
  | none => .next s
  | some (g, i) =>
    if x.hot then .next s
    else if x.isPinned g (x.fastSlot g) then .next (s.setSite site { x with swapping := none })
    else
      .next (s.setSite site { x with
        remap := put identMap x.remap g (x.exchanged g i (x.fastSlot g)), swapping := none, swapped := g :: x.swapped,
        swapCnt := x.swapCnt + 1 })

/-- The decay period in course at a site has run for its 2^(16 + DECAY) array cycles (R186, R188). The first begins at time 0, and a DECAY
written in a period counts for it (DESIGN CHOICE, log 49). -/
def State.decayDue (s : State) (x : Site) : Bool := decide (x.decayAt + 2 ^ (16 + x.decay) ≤ s.time)

/-- DECAY_PERIOD: once every decay period every shadow byte of the site is halved, and the next period begins (R185, R186). -/
def execDecayPeriod (site : Nat) (s : State) : Out :=
  let x := s.site site
  .next (if s.decayDue x then
    s.setSite site { x with shadow := mapDrop 0 (fun _ b => b >>> 1) x.shadow, swapped := [], decayAt := x.decayAt + 2 ^ (16 + x.decay) }
  else s)

def execSelfRefreshEntry (site : Nat) (s : State) : Out :=
  let x := s.site site
  .next (if x.hot then s else s.setSite site { x with hot := true, holdCnt := min 255 (x.holdCnt + 1), holdAt := s.time, timedOut := false })

/-- The hold in force at a site has lasted more than 2 ms (R206). -/
def State.heldLong (s : State) (x : Site) : Bool := decide (x.holdAt + 1879700 < s.time)

def execThermalHoldTimeout (site : Nat) (s : State) : Out :=
  let x := s.site site
  .next (if x.hot ∧ s.heldLong x ∧ !x.timedOut then (s.setSite site { x with timedOut := true }).overcast 0x05 else s)

/-- The stack leaves self-refresh; a long hold is recorded at its end (R381). -/
def execSelfRefreshExit (site : Nat) (s : State) : Out :=
  let x := s.site site
  if !x.hot then .next s
  else
    let s1 := s.setSite site { x with hot := false }
    if !s.heldLong x then .next s1
    else
      let s2 := s1.note 0x05 site (BitVec.ofNat 64 (s.time - x.holdAt)) 0 none
      .next (if x.timedOut then s2 else s2.overcast 0x05)

/-! ### Memory errors (R381, R383, R417) -/

/-- A byte stands at the address that an uncorrectable error can name: of a frame, of a unit that an arena has, or of host memory, which no
rule leaves out (R12, R181, R199, R383; DESIGN CHOICE, log 49). -/
def State.stands (s : State) (a : Nat) : Bool :=
  mapped a && (!inArena a ||
    (siteOf a).any fun i => (get AUnit.none (s.site i).arena ((a - arenaBase) / 4096 % 2 ^ 37)).exist)

/-- Poison the bytes of a list of addresses that hold one. -/
def State.poisonAll (s : State) : List Nat → State
  | [] => s
  | a :: r => (if s.stands a then { s with poison := put false s.poison a true } else s).poisonAll r

/-- Corrected errors of the site of an address since its last record. -/
def State.correctedAt (s : State) (pa : Nat) : W64 := BitVec.ofNat 64 (match siteOf pa with | some i => (s.site i).corrected | none => 0)

/-- A record of a memory error has been written: it holds the corrected errors counted so far (R381). -/
def State.counted (s : State) (pa : Nat) : State :=
  match siteOf pa with
  | none => s
  | some i => if s.hif.baro.frozen then s else s.setSite i { s.site i with corrected := 0 }

/-- UNCORRECTABLE_MEMORY_ERROR: every byte of the code poisoned and a record; in a remap or shadow table, storm (R183, R383). Where no byte
stands there is no error (R12). -/
def execUncorrectableMemoryError (pa len : Nat) (s : State) : Out :=
  let s1 := ((s.poisonAll (addrs pa len)).note 0x06 1 (BitVec.ofNat 64 pa) (s.correctedAt pa) none).counted pa
  .next (if !s.stands pa then s else if (addrs pa len).any reserved then s1.enterStorm 0x06 else s1)

/-- CORRECTED_MEMORY_ERROR: at most one record per site and 2^20 array cycles; without a record it is counted (R381, R382). -/
def execCorrectedMemoryError (site pa : Nat) (s : State) : Out :=
  let x := s.site site
  let n := x.corrected + 1
  if !s.stands pa || siteOf pa != some site then .next s
  else if s.hif.baro.frozen || x.correctedAt.any fun t => decide (s.time < t + 2 ^ 20) then .next (s.setSite site { x with corrected := n })
  else .next ((s.note 0x06 0 (BitVec.ofNat 64 pa) (BitVec.ofNat 64 n) none).setSite site { x with corrected := 0, correctedAt := some s.time })

/-! ### Test strips (R272, R273) -/

/-- TEST_STRIP: due, and no MX entry runs on the core. -/
def execTestStrip (core : Nat) (s : State) : Out :=
  let c := s.core core
  let en := if core < 96 then s.hif.strip0 else s.hif.strip1
  let lg := if core < 96 then s.hif.ilog0 else s.hif.ilog1
  let busy := s.tasks.any fun e => e.2.coreKey == core && e.2.inMatrix
  .next (if en ∧ 2 ^ lg ≤ c.mmas ∧ !c.strip ∧ !busy then s.setCore core { c with strip := true } else s)

/-- Number of bits set of a mask. -/
def popcount (m : W16) : Nat := ((List.range 16).filter fun i => m.getLsbD i).length

/-- The core is withdrawn: its tasks are killed (R273). -/
def State.withdrawCore (s : State) (core : Nat) : State :=
  let c := s.core core
  let s1 := s.setCore core { c with out := true }
  let ts := (s1.tasks.filter fun e => !e.2.fw && e.2.coreKey == core).map fun e => e.1
  ((s1.killAll 3 ts).overcast 0x08).unloads

/-- A task name that carries only a core, for the record of a strip (R380, log 29). -/
def coreMark (s : State) (core : Nat) : Task := { Task.empty with die := core / 96, core := core % 96, packet := s.lfe.nextPacket }

/-- TEST_STRIP_COMPLETE: the sub-arrays that failed are fenced, recorded and reported; above 8 the core is withdrawn. -/
def execTestStripComplete (core : Nat) (failed : W16) (s : State) : Out :=
  let c := s.core core
  let new := failed &&& ~~~c.fenced
  if !c.strip then .next s
  else if new = 0 then .next (s.setCore core { c with strip := false, mmas := 0, lastPass := s.time })
  else
    let c1 := { c with strip := false, mmas := 0, fenced := c.fenced ||| new, fails := min 255 (c.fails + 1) }
    let one (i : Nat) (s : State) : State :=
      s.note 0x08 i (BitVec.ofNat 64 c.lastPass) (BitVec.ofNat 64 c1.fenceWord) (some (coreMark s core))
    let s1 := (each one ((List.range 16).filter fun i => new.getLsbD i) (s.setCore core c1)).overcast 0x08
    .next (if 8 < popcount c1.fenced then s1.withdrawCore core else s1)

/-! ### Fabric ports (R322, R381, R383) -/

def execFabricLinkRetrain (port : Nat) (s : State) : Out :=
  let n := get 0 s.ce.retrains port + 1
  .next (if 96 ≤ port then s else { s with ce := { s.ce with retrains := put 0 s.ce.retrains port n } }.note 0x07 port (BitVec.ofNat 64 n) 0 none)

def execFabricPortLost (port : Nat) (s : State) : Out :=
  .next (if 96 ≤ port ∨ s.ce.lost.contains port then s else ({ s with ce := { s.ce with lost := port :: s.ce.lost } }).overcast 0x07)

end Sys2Proof.Machine
end

