-- ==== Sys2Proof/Machine/Sha256.lean ====
section
/-! DEFINITION. SHA-256 of a byte string, which 15_retirement_and_health.md R391 names and FIPS 180-4 defines (PRESUMED, log 15). -/

namespace Sys2Proof.Machine

/-! ### Constants -/

/-- The greatest r' of at most b more bits below r whose k-th power does not exceed n. -/
def rootBits (k n : Nat) : Nat → Nat → Nat
  | 0, r => r
  | b + 1, r => rootBits k n b (if (r + 2 ^ b) ^ k ≤ n then r + 2 ^ b else r)

/-- The first 32 bits of the fractional part of the k-th root of p, a number below 2^9. -/
def rootFraction (k p : Nat) : W32 := BitVec.ofNat 32 (rootBits k (p * 2 ^ (32 * k)) 41 0)

/-- The first 64 primes. -/
def shaPrimes : List Nat := (List.range 312).filter fun n => decide (2 ≤ n) && (List.range n).all fun d => decide (d < 2) || n % d != 0

/-- Round constants: from the cube roots of the primes. -/
def shaK : List W32 := shaPrimes.map (rootFraction 3)

/-- Initial chaining value: from the square roots of the first eight. -/
def shaStart : List W32 := (shaPrimes.take 8).map (rootFraction 2)

/-! ### One block -/

def shaSmall0 (x : W32) : W32 := x.rotateRight 7 ^^^ x.rotateRight 18 ^^^ (x >>> 3)
def shaSmall1 (x : W32) : W32 := x.rotateRight 17 ^^^ x.rotateRight 19 ^^^ (x >>> 10)
def shaBig0 (x : W32) : W32 := x.rotateRight 2 ^^^ x.rotateRight 13 ^^^ x.rotateRight 22
def shaBig1 (x : W32) : W32 := x.rotateRight 6 ^^^ x.rotateRight 11 ^^^ x.rotateRight 25

/-- n more words of the message schedule, the newest first. -/
def shaSchedule : Nat → List W32 → List W32
  | 0, l => l
  | n + 1, l =>
    let at' (i : Nat) : W32 := (l[i]?).getD 0
    shaSchedule n ((shaSmall1 (at' 1) + at' 6 + shaSmall0 (at' 14) + at' 15) :: l)

/-- One round on the eight working words, with the sum of its constant and its schedule word. -/
def shaRound (v : List W32) (kw : W32) : List W32 :=
  match v with
  | [a, b, c, d, e, f, g, h] =>
    let t1 := h + shaBig1 e + ((e &&& f) ^^^ (~~~e &&& g)) + kw
    let t2 := shaBig0 a + ((a &&& b) ^^^ (a &&& c) ^^^ (b &&& c))
    [t1 + t2, a, b, c, d + t1, e, f, g]
  | v => v

/-- Value of bytes, the most significant first. -/
def beValue (l : List Byte) : Nat := l.foldl (fun v b => 256 * v + b.toNat) 0

/-- The chaining value after a block of 64 bytes. -/
def shaBlock (h : List W32) (l : List Byte) : List W32 :=
  let w := (List.range 16).map fun i => BitVec.ofNat 32 (beValue ((l.drop (4 * i)).take 4))
  let sums := List.zipWith (· + ·) shaK (shaSchedule 48 w.reverse).reverse
  List.zipWith (· + ·) h (sums.foldl shaRound h)

/-! ### The whole string -/

/-- The string with its padding: a bit 1, zeros, and its length in bits. -/
def shaPadded (l : List Byte) : List Byte :=
  l ++ (0x80 :: List.replicate ((119 - l.length % 64) % 64) 0) ++ (bytesOf 8 (8 * l.length)).reverse

/-- The chaining value after n blocks. -/
def shaBlocks : Nat → List Byte → List W32 → List W32
  | 0, _, h => h
  | n + 1, l, h => shaBlocks n (l.drop 64) (shaBlock h (l.take 64))

/-- The digest: 32 bytes, in the order in which they are written. -/
def sha256 (l : List Byte) : List Byte :=
  let m := shaPadded l
  (shaBlocks (m.length / 64) m shaStart).flatMap fun w => (bytesOf 4 w.toNat).reverse

end Sys2Proof.Machine
end

