-- ==== Sys2Proof/Machine/Mailbox.lean ====
section
/-! DEFINITION. The mailbox and the firmware behind it (15_retirement_and_health.md R385 to R392): slots, revocation, quotas, rights,
assignment, pins, firmware images and attestation (04_describing_work.md R84, R88; 08_memory_sites.md R187, R193, R195, R199). -/

namespace Sys2Proof.Machine

/-! ### Requests (R385, R387) -/

/-- MAILBOX_NOTIFY: in its place among the function's writes (R110, R385). -/
def execMailboxNotify (fn : Nat) (v : W64) (s : State) : Out := .next (s.posting fn (.mailbox v) (s.mailboxNotify fn v))

/-- Slot of the request ring that function fn's oldest request stands in. -/
def Func.requestAddr (f : Func) : Nat := f.mbQbase + 64 * (f.mbRead % 2 ^ f.mbLog)

/-- The oldest request of a function: its 64 bytes. It is not read while its page is held, nor before the responses owed for earlier ones
have been written (R185, R206, R385). Poisoned bytes are taken as they are: R417 names no outcome for this reader (DESIGN CHOICE,
log 49). -/
def State.request (s : State) (fn : Nat) : Option Nat :=
  let f := s.func fn
  if f.mbEn && decide (f.mbRead < f.mbNotified) && !s.heldAt f.requestAddr && !s.replying fn then some (s.word f.requestAddr 64) else none

def reqCode (w : Nat) : Nat := bits w 15 1
def reqTag (w : Nat) : Nat := bits w 63 48

/-- Bytes b to b + n - 1 of a request. -/
def reqField (w b n : Nat) : Nat := w / 2 ^ (8 * b) % 2 ^ (8 * n)

/-- Every operand byte outside the given fields (first byte, length) is zero (R387). -/
def restZero (w : Nat) (fields : List (Nat × Nat)) : Bool :=
  (List.range 56).all fun i => reqField w (8 + i) 1 == 0 || fields.any fun f => decide (f.1 ≤ 8 + i) && decide (8 + i < f.1 + f.2)

/-- Outcome of a request: an answer at once, or one owed later; and the state. Or the firmware waits for a translation, and takes the
request up again (R197). -/
inductive Served where
  | answer (status : Nat) (s : State)
  | later (s : State)
  | wait

/-- Serve the oldest request of a function if its code is the one given; an unknown code gets STATUS 2 from any of these steps, and
one only the physical function may make gets STATUS 1 from another (R386). -/
def State.serveRequest (s : State) (fn code : Nat) (pf : Bool) (f : Nat → Owed → State → Served) : Out :=
  match s.request fn with
  | none => .next s
  | some w =>
    let c := reqCode w
    let o : Owed := { fn := fn, tag := reqTag w, code := c }
    let v := s.func fn
    let s1 := (s.setFunc fn { v with mbRead := v.mbRead + 1 }).arrive v.requestAddr
    if c = 0 ∨ 12 < c then .next (s1.respond o 2)
    else if c ≠ code then .next s
    else if pf ∧ fn ≠ 0 then .next (s1.respond o 1)
    else
      match f w o s1 with
      | .answer st s2 => .next (s2.respond o st)
      | .later s2 => .next s2
      | .wait => .next s

/-- ASC operand at byte b: bits [15:12] zero. -/
def ascBad (w b : Nat) : Bool := reqField w b 2 / 4096 != 0

/-! ### Slots (R84 to R88, R388) -/

/-- Physical addresses of the parts of a virtual range; a part may not be mapped as asked, or its walk may have to wait. -/
inductive Range where
  | ok (l : List Nat)
  | waits
  | bad
  deriving DecidableEq, Repr

def Range.cons (a : Nat) : Range → Range
  | .ok l => .ok (a :: l)
  | r => r

/-- Physical addresses of n parts, step bytes apart, of a virtual range that is mapped with the permissions of ok (R387). -/
def State.rangeOf (s : State) (asc : Nat) (ok : Leaf → Bool) (step : Nat) : Nat → Nat → Range
  | _, 0 => .ok []
  | va, n + 1 =>
    match s.walk asc va with
    | .leaf l => if ok l then (s.rangeOf asc ok step (va + step) n).cons (l.base + va % l.size) else .bad
    | .waits => .waits
    | _ => .bad

/-- The walks that `rangeOf` makes have arrived, up to the page that stops them (R186, R190). -/
def State.rangeWalked (s : State) (asc : Nat) (ok : Leaf → Bool) : Nat → Nat → State
  | _, 0 => s
  | va, n + 1 =>
    let s1 := s.walked asc va
    match s.walk asc va with
    | .leaf l => if ok l then s1.rangeWalked asc ok (va + 65536) n else s1
    | _ => s1

/-- Frames of the 64 KiB pages of a region, readable, and writable where wr. -/
def State.frames (s : State) (asc : Nat) (wr : Bool) (va n : Nat) : Range := s.rangeOf asc (fun l => l.r && (l.w || !wr)) 65536 va n

/-- Their walks. -/
def State.framesWalked (s : State) (asc : Nat) (wr : Bool) (va n : Nat) : State :=
  s.rangeWalked asc (fun l => l.r && (l.w || !wr)) va n

/-- Pages that n bytes take. -/
def pagesOf (n : Nat) : Nat := (n + 65535) / 65536

/-- A table of level n, given n + 1, holds a leaf (R189). -/
def State.anyLeaf (s : State) : Nat → Nat → Bool
  | 0, _ => false
  | n + 1, t =>
    (List.range (if n = 0 then 32 else 512)).any fun i =>
      let e := s.word (t + 8 * i) 8
      e % 2 == 1 && (e / 4 % 2 == 1 || (n != 0 && s.anyLeaf n (4096 * (e / 4096 % 2 ^ 36))))

/-- A context of the function maps something in the window of slot n (R388). -/
def State.windowTaken (s : State) (fn n : Nat) : Bool :=
  s.roots.any fun r => s.ascFunc r.1 == fn && r.2.any fun t => (List.range 8).any fun i =>
    let e := s.word (t + 8 * (windowBase n / 2 ^ 39 % 8192 + i)) 8
    e % 2 == 1 && s.anyLeaf 3 (4096 * (e / 4096 % 2 ^ 36))

/-- Limits of a load request (R387). -/
def loadBad (w : Nat) : Bool :=
  let f := reqField w
  !restZero w [(8, 4), (16, 48)] || f 9 1 > 1 || ascBad w 10 || f 16 8 % 65536 != 0 || f 32 8 % 65536 != 0 || f 48 8 % 65536 != 0 ||
    decide (f 24 8 < 2048) || decide (2 ^ 32 < f 24 8) || f 24 8 % 4096 != 0 || decide (2 ^ 33 < f 40 8) || f 40 8 % 128 != 0 ||
    decide (2 ^ 42 - 2 ^ 34 < f 56 8)

/-- LOAD_SLOT (R84, R387, R388). -/
def execLoadSlot (fn : Nat) (s : State) : Out :=
  s.serveRequest fn 1 false fun w o s =>
    let f := reqField w
    let n := f 8 1
    let asc := f 10 2
    let r := s.rslot n
    let wr := f 9 1 == 1
    if loadBad w then .answer 2 s
    else if get 0 s.hif.ownSlot n ≠ fn ∨ s.ascFunc asc ≠ fn then .answer 1 s
    else if r.state ≠ .invalid then .answer 3 s
    else
      match s.frames asc false (f 16 8) (pagesOf (f 24 8)), s.frames asc false (f 32 8) (pagesOf (f 40 8)),
        s.frames asc wr (f 48 8) (pagesOf (f 56 8)) with
      | .ok im, .ok tm, .ok we =>
        .later ((((s.framesWalked asc false (f 16 8) (pagesOf (f 24 8))).framesWalked asc false (f 32 8) (pagesOf (f 40 8))).framesWalked asc wr
          (f 48 8) (pagesOf (f 56 8))).setRslot n
          { state := .loading, gen := (r.gen + 1) % 256, func := fn, kcnt := 0, isize := f 24 8, image := im, tmpl := tm,
            tmplLen := f 40 8, weights := we, writable := wr, mapOk := !s.windowTaken fn n, kernels := [], owed := [o] })
      | .bad, _, _ => .answer 4 (s.framesWalked asc false (f 16 8) (pagesOf (f 24 8)))
      | .ok _, .bad, _ => .answer 4 ((s.framesWalked asc false (f 16 8) (pagesOf (f 24 8))).framesWalked asc false (f 32 8) (pagesOf (f 40 8)))
      | .ok _, .ok _, .bad => .answer 4 ((((s.framesWalked asc false (f 16 8) (pagesOf (f 24 8))).framesWalked asc false (f 32 8)
          (pagesOf (f 40 8)))).framesWalked asc wr (f 48 8) (pagesOf (f 56 8)))
      | _, _, _ => .wait

/-- SLOT_LOAD_COMPLETE: RESIDENT with a valid kernel table, which the slot keeps, else INVALID (R84, R88); the read of the table waits
with its page (R185, R186, R206). A poisoned byte of the table makes it invalid: R88 and R417 state no fate for it (DESIGN CHOICE,
log 49). -/
def execSlotLoadComplete (n : Nat) (s : State) : Out :=
  let r := s.rslot n
  let ks := (List.range 64).map fun k => s.tableEntry n k
  let a := r.image.headD 0
  if r.state != .loading || s.heldAt a then .next s
  else if r.mapOk && !s.badIn a 2048 && ks.all fun w => w == 0 || !kernelBad w r.isize then
    let k := (ks.filter fun w => w != 0).length
    let r1 : RSlot := { r with state := .resident, kcnt := k, kernels := ks.map (BitVec.ofNat 256), owed := [] }
    .next (each (fun o s => s.respond o 0) r.owed ((s.arrive a).setRslot n r1))
  else .next ((s.arrive a).closeSlot n 4)

/-- UNLOAD_SLOT (R84). -/
def execUnloadSlot (fn : Nat) (s : State) : Out :=
  s.serveRequest fn 2 false fun w o s =>
    let n := reqField w 8 1
    let r := s.rslot n
    if !restZero w [(8, 1)] then .answer 2 s
    else if get 0 s.hif.ownSlot n ≠ fn then .answer 1 s
    else
      match r.state with
      | .invalid => .answer 0 s
      | .loading => .answer 3 s
      | .resident => .later (s.setRslot n { r with state := .unloading, owed := [o] }).unloads
      | .unloading => .later (s.setRslot n { r with owed := r.owed ++ [o] })

/-! ### Revocation and pins (R187, R193) -/

/-- Limits of a range request (R387). -/
def rangeBad (w : Nat) : Bool :=
  let f := reqField w
  !restZero w [(8, 2), (16, 16)] || ascBad w 8 || f 16 8 % 65536 != 0 || f 24 8 % 65536 != 0 || f 24 8 == 0

/-- A page of context asc overlaps n bytes at va. -/
def covers (asc va n : Nat) (hasc hva hsize : Nat) : Bool := hasc == asc && decide (hva < va + n) && decide (va < hva + hsize)

/-- Handles that a task has, or has had while an access through them may be on its way: registers, captured copies, windows, and those that
have left their registers (R193). -/
def Task.handles (k : Task) : List Handle :=
  let ofQ (q : RQ) : List Handle := (q.entries ++ q.issued.map fun i => i.entry).map fun e => e.h
  (k.h.map fun e => e.2) ++ ([k.ord, k.hnd].flatMap fun q => ofQ q.ldq ++ ofQ q.cmq ++ ofQ q.stq) ++
    (k.win.filterMap fun e => e.2.map fun w => w.h) ++ k.gone

/-- What a revocation waits for of accesses: those of each task through the handles that p selects, and the writes that tasks which are no
more have left (R193, R206). -/
def State.coveredBy (s : State) (p : Handle → Bool) : List (Option Nat × Nat × Nat) :=
  (s.tasks.flatMap fun t => (t.2.handles.filter p).map fun h => (some t.1, h.base, h.size)) ++
    s.ce.late.flatMap fun e => e.2.map fun c => (none, c.1, 1)

/-- Such an access has still to be performed. -/
def State.outstanding (s : State) (r : Option Nat × Nat × Nat) : Bool :=
  s.lateIn r.2.1 r.2.2 || ((r.1.bind fun t => find s.tasks t).any fun (k : Task) => k.touching r.2.1 r.2.2)

/-- REVOKE_RANGE: handles and TLB entries of the range go at once; the response waits for what had captured their bases. -/
def execRevokeRange (fn : Nat) (s : State) : Out :=
  s.serveRequest fn 3 false fun w o s =>
    let asc := reqField w 8 2
    let va := reqField w 16 8
    let n := reqField w 24 8
    if rangeBad w then .answer 2 s
    else if s.ascFunc asc ≠ fn then .answer 1 s
    else
      let p (h : Handle) : Bool := !h.block && covers asc va n h.asc h.va h.size
      let cmds := (s.ce.cmds.filter fun c => c.2.state != .ended && c.2.asc == asc &&
        c.2.pages.any fun g => decide (g.1 < va + n) && decide (va < g.1 + g.2.2.1)).map fun c => c.1
      let v : Revocation := { owed := some o, cmds := cmds, writes := s.coveredBy p }
      let s1 := (s.revoke p).dropTlb fun _ e => covers asc va n e.asc e.va e.size
      .later { s1 with hif := { s1.hif with revs := ins s1.hif.revs s1.hif.nextRev v, nextRev := s1.hif.nextRev + 1 } }

/-- REVOCATION_COMPLETE: no such access and no such command is left. -/
def execRevocationComplete (k : Nat) (s : State) : Out :=
  match find s.hif.revs k with
  | none => .next s
  | some v =>
    let open' (c : Nat) : Bool := (find s.ce.cmds c).any fun x => x.state != .ended
    if v.cmds.any open' || v.writes.any s.outstanding then .next s
    else
      let s1 := { s with hif := { s.hif with revs := del s.hif.revs k } }
      .next (match v.owed with | some o => s1.respond o 0 | none => s1)

/-- Clear the pins of a list of site addresses, and PINC where fewer than two of the group are left (R187). -/
def State.unpin (s : State) : List Nat → State
  | [] => s
  | a :: r =>
    match siteOf a with
    | none => s.unpin r
    | some i =>
      let x := s.site i
      let p := a % 2 ^ 38 / 65536
      let g := p % 786432
      let x1 := { x with pins := x.pins.filter fun q => q != p }
      let e := get identMap x1.remap g
      (s.setSite i (if x1.pinnedIn g < 2 then { x1 with remap := put identMap x1.remap g (e &&& 0x7FFF) } else x1)).unpin r

def execClearPins (fn : Nat) (s : State) : Out :=
  s.serveRequest fn 7 false fun w _ s =>
    let asc := reqField w 8 2
    if rangeBad w then .answer 2 s
    else if s.ascFunc asc ≠ fn then .answer 1 s
    else
      let walked := s.rangeWalked asc (fun _ => true) (reqField w 16 8) (reqField w 24 8 / 65536)
      match s.rangeOf asc (fun _ => true) 65536 (reqField w 16 8) (reqField w 24 8 / 65536) with
      | .ok l => .answer 0 (walked.unpin l)
      | .waits => .wait
      | .bad => .answer 4 walked

/-! ### Quotas, rights and assignment (R195, R199, R386) -/

/-- Units of the fast tier of a site in one channel: 48 GiB in units of 4 KiB, over 32 channels (R15, R199). -/
def fastUnits : Nat := 48 * 2 ^ 30 / 4096 / 32

/-- Units that firmware withholds for a site's arena, as many in each channel, at least one and at most what the fast tier has (R15,
R199). -/
def newArena (n : Nat) : Assoc AUnit :=
  (List.range 32).flatMap fun c => (List.range (n % fastUnits + 1)).map fun i => (unitKey c i, { AUnit.none with exist := true, free := true })

/-- SET_ARENA_QUOTA. The first grant at a site makes its arena: how many units it has is the firmware's choice, a free value (log 17). -/
def execSetArenaQuota (fn : Nat) (s : State) : Out :=
  s.serveRequest fn 4 true fun w _ s =>
    let i := reqField w 10 1
    if !restZero w [(8, 3), (12, 4)] ∨ ascBad w 8 ∨ 7 < i then .answer 2 s
    else
      let (k, s1) := if (s.site i).arena.isEmpty then s.draw else (0, s)
      let x := s1.site i
      let x1 := { x with quota := put 0 x.quota (reqField w 8 2) (reqField w 12 4) }
      .answer 0 (s1.setSite i (if x.arena.isEmpty then { x1 with arena := newArena k } else x1))

def execSiteRight (fn : Nat) (s : State) : Out :=
  s.serveRequest fn 5 true fun w _ s =>
    let i := reqField w 10 1
    let asc := reqField w 8 2
    if !restZero w [(8, 4)] ∨ ascBad w 8 ∨ 7 < i ∨ 1 < reqField w 11 1 then .answer 2 s
    else
      let x := s.site i
      let l := x.rights.filter fun a => a != asc
      .answer 0 (s.setSite i { x with rights := if reqField w 11 1 = 1 then asc :: l else l })

/-- ASSIGN_RESOURCE. An enabled queue and a slot in use stay where they are (log 30). -/
def execAssignResource (fn : Nat) (s : State) : Out :=
  s.serveRequest fn 6 true fun w _ s =>
    let n := reqField w 10 2
    let f := reqField w 12 1
    let kind := reqField w 8 1
    if !restZero w [(8, 1), (10, 3)] ∨ 3 < kind ∨ 63 < f ∨ (match kind with | 0 => 2048 | 1 => 512 | 2 => 256 | _ => 4096) ≤ n then .answer 2 s
    else
      match kind with
      | 0 => if (s.queue n).en || (s.queue n).resetting then .answer 3 s else .answer 0 (s.setQueue n { s.queue n with func := f })
      | 1 => .answer 0 { s with hif := { s.hif with ownFile := put 0 s.hif.ownFile n f } }
      | 2 => if (s.rslot n).state ≠ .invalid then .answer 3 s else .answer 0 { s.setRslot n { s.rslot n with func := f } with
          hif := { (s.setRslot n { s.rslot n with func := f }).hif with ownSlot := put 0 s.hif.ownSlot n f } }
      | _ => .answer 0 { s with hif := { s.hif with ownAsc := put 0 s.hif.ownAsc n f } }

/-! ### Firmware images (R389, R390) -/

def fwCode : FwState → Nat
  | .idle => 0
  | .staged => 1
  | .switching => 2

/-- The hand-over of firmware enters a state, with its record (R381). -/
def State.fwTo (s : State) (x : FwState) : State :=
  let s1 := { s with hif := { s.hif with fwState := x } }
  s1.note 0x09 (fwCode x) ((s1.hif.staged.map FwImage.version).getD 0) s1.hif.active.version none

/-- The reads of an image, in accesses of 64 bytes, arrive (R186). -/
def State.arriveImage (s : State) (a n : Nat) : State := s.arriveAll ((List.range (n / 64)).map fun i => a + 64 * i)

/-- A page of n bytes at a is held at the base die. -/
def State.heldIn (s : State) (a n : Nat) : Bool := (List.range (n / 65536 + 2)).any fun i => s.heldAt (min (a + 65536 * i) (a + n - 1))

/-- STAGE_FIRMWARE_IMAGE; ok: the signature checks; version: the image's. The image is read once its pages are not held (R185, R206); poisoned
bytes of it are taken as they are: R417 names no outcome for this reader (DESIGN CHOICE, log 49). -/
def execStageFirmwareImage (fn : Nat) (ok : Bool) (version : W64) (s : State) : Out :=
  s.serveRequest fn 8 true fun w _ s =>
    let a := reqField w 16 8
    let n := reqField w 24 8
    if !restZero w [(16, 16)] ∨ a % 4096 ≠ 0 ∨ n % 4096 ≠ 0 ∨ n < 4096 ∨ 2 ^ 28 < n ∨ 2 ^ 48 < a + n ∨ !(mapped a && mapped (a + n - 1)) then .answer 2 s
    else if s.hif.fwState ≠ .idle then .answer 3 s
    else if s.heldIn a n then .wait
    else if !ok then .answer 4 (s.arriveImage a n)
    else
      let im : FwImage := { addr := a, len := n, version := version, hash := BitVec.ofNat 256 (wordOfBytes (sha256 (s.bytes a n))) }
      .answer 0 ({ s.arriveImage a n with hif := { s.hif with staged := some im } }.fwTo .staged)

/-- Context F of a core is unloaded; firmware loads it again (log 46). -/
def State.dropF (s : State) (core : Nat) : State := { s with tasks := del s.tasks core }

/-- A hand-over begins: no core has switched, those included that have not yet switched back after a roll-back (R390). -/
def State.fwStart (s : State) (o : Owed) : State := { s with hif := { s.hif with fwOwed := some o, fwSince := s.time } }.fwTo .switching

/-- START_FIRMWARE_HAND_OVER: each core's F switches at its next idle point. With nothing staged it fails (log 30). -/
def execStartFirmwareHandOver (fn : Nat) (s : State) : Out :=
  s.serveRequest fn 9 true fun w o s =>
    if !restZero w [] then .answer 2 s
    else
      match s.hif.fwState with
      | .idle => .answer 4 s
      | .switching => .answer 3 s
      | .staged => .later (s.fwStart o)

def execDiscardStagedImage (fn : Nat) (s : State) : Out :=
  s.serveRequest fn 10 true fun w _ s =>
    if !restZero w [] then .answer 2 s
    else
      match s.hif.fwState with
      | .idle => .answer 4 s
      | .switching => .answer 3 s
      | .staged => .answer 0 ({ s with hif := { s.hif with staged := none } }.fwTo .idle)

/-- The response to the hand-over request is written. -/
def State.fwAnswer (s : State) (status : Nat) : State :=
  match s.hif.fwOwed with
  | none => s
  | some o => { s with hif := { s.hif with fwOwed := none } }.respond o status

/-- The hand-over is rolled back: no image is staged, health overcast, STATUS 4; cores that have switched run its image until their next
idle points (R390). -/
def State.fwBack (s : State) : State :=
  if s.hif.fwState != .switching then s
  else
    let back (c : Core) : Core := if c.fwSwitched then { c with fwSwitched := false, fwOld := s.hif.staged } else c
    (({ s with hif := { s.hif with staged := none }, cores := mapDrop Core.empty (fun _ c => back c) s.cores }.fwTo .idle).overcast 0x09).fwAnswer 4

/-- The last core has switched: the commit record is written, then the staged image is the active one (R390). -/
def State.fwCommit (s : State) : State :=
  if (List.range 192).all fun c => (s.core c).fwSwitched then
    let s1 := s.fwTo .idle
    { s1 with hif := { s1.hif with active := s1.hif.staged.getD s1.hif.active, staged := none },
              cores := mapDrop Core.empty (fun _ c => { c with fwSwitched := false }) s1.cores }.fwAnswer 0
  else s

/-- A translation fault of an engine or of a walker of die d is being answered (R102, R317). -/
def State.answering (s : State) (d : Nat) : Bool :=
  (s.ce.cmds.any fun e => e.2.state == .held && e.2.die == d) ||
    s.lfe.packets.any fun e => e.2.home == d && e.2.walker.any fun w => w.held

/-- A firmware idle point of a core: no fault of its tasks is being answered, nor one of an engine or a walker of its die, no request has
been taken and not answered, and no routed entry of context F is outstanding (R389). Which core answers a die's faults or serves a request
is not stated: one in progress keeps every core of the die, or every core (log 46). -/
def State.fwIdle (s : State) (core : Nat) : Bool :=
  (s.tasks.all fun e => e.2.coreKey != core || (match e.2.phase with | .switchedOut _ => false | _ => true)) &&
    !s.answering (core / 96) && (s.hif.slots.all fun e => e.2.owed.isEmpty) && (s.hif.revs.all fun e => e.2.owed.isNone) &&
    s.hif.replies.isEmpty &&
    (find s.tasks core).all fun k => k.ord.allDone && k.hnd.allDone && performed k.stqOut

/-- More than 2^24 array cycles have passed since the hand-over began (R390). -/
def State.fwLate (s : State) : Bool := decide (s.hif.fwSince + 2 ^ 24 < s.time)

/-- FIRMWARE_IDLE_POINT_SWITCH: to the staged image, or back after a hand-over that was rolled back; a core that comes later than 2^24
array cycles has failed to switch (R389, R390). -/
def execFirmwareIdlePointSwitch (core : Nat) (s : State) : Out :=
  let c := s.core core
  if 192 ≤ core || !s.fwIdle core then .next s
  else if s.hif.fwState = .switching then
    .next (if c.fwSwitched then s else if s.fwLate then s.fwBack
      else ((s.dropF core).setCore core { c with fwSwitched := true, fwOld := none }).fwCommit)
  else .next (if c.fwOld.isSome then (s.dropF core).setCore core { c with fwOld := none } else s)

/-- A core has not switched within 2^24 array cycles (R390). -/
def execFirmwareSwitchTimeout (core : Nat) (s : State) : Out :=
  .next (if s.hif.fwState = .switching ∧ s.fwLate ∧ !(s.core core).fwSwitched then s.fwBack else s)

/-- Firmware loads context F of a core: its registers as a task's at its start, and a pc in the image that the core runs (R151; log
46). -/
def State.loadF (s : State) (core pc : Nat) : State :=
  let im := s.fwImage core
  if 192 ≤ core ∨ (find s.tasks core).isSome ∨ pc % 4 ≠ 0 ∨ pc < im.addr ∨ im.addr + im.len ≤ pc then s
  else
    s.setTask core { Task.empty with
      fw := true, die := core / 96, core := core % 96, ctx := 2, phase := .running, pc := pc, ord := QSet.empty 8 8 8 }

/-! ### Attestation (R391, R392) -/

/-- Big-endian bytes of a 32-bit value (PRESUMED from RFC 8554, log 15). -/
def be32 (v : Nat) : List Byte := (leBytes v 4).reverse

/-- Bytes 0 to 135 of the report. -/
def State.report (s : State) (nonce : Nat) : List Byte :=
  let h := s.hif
  leBytes 1 4 ++ leBytes (fwCode h.fwState) 4 ++ leBytes h.active.version.toNat 8 ++ leBytes h.active.hash.toNat 32 ++
    leBytes ((h.staged.map FwImage.version).getD 0).toNat 8 ++ leBytes ((h.staged.map FwImage.hash).getD 0).toNat 32 ++ leBytes nonce 32 ++
    leBytes s.time 8 ++ leBytes s.fabno.toNat 8

/-- Type codes of LMOTS_SHA256_N32_W4 and LMS_SHA256_M32_H20 (PRESUMED from RFC 8554, log 15). -/
def lmotsType : Nat := 3
def lmsType : Nat := 8

/-- The report with its signature: leaf index, LMOTS part, LMS type, path (R392). -/
def State.signedReport (s : State) (nonce : Nat) : List Byte :=
  let m := s.report nonce
  let sig (i : Nat) : Byte := Config.signature m s.hif.leaf i
  m ++ be32 s.hif.leaf ++ be32 lmotsType ++ (List.range 2176).map sig ++ be32 lmsType ++ (List.range 640).map fun i => sig (2176 + i)

/-- The public key: its two types, then 48 bytes (R392). -/
def publicKey : List Byte := be32 lmsType ++ be32 lmotsType ++ (List.range 48).map Config.publicKey

/-- n bytes are written at a virtual address, where they are writable; the write waits with its pages (R185, R206, R387). -/
def State.deliver (s : State) (asc va : Nat) (l : List Byte) (f : State → State) : Served :=
  let walked := s.rangeWalked asc (fun x => x.w) (va - va % 65536) ((va % 65536 + l.length + 65535) / 65536)
  match s.rangeOf asc (fun x => x.w) 1 va l.length with
  | .bad => .answer 4 walked
  | .waits => .wait
  | .ok pas => if pas.any s.heldAt then .wait else .answer 0 (f ((walked.perform (pas.zip l)).arrive (pas.headD 0)))

/-- ATTESTATION_REPORT: the next unused leaf signs it; no leaf is left after 2^20 reports. -/
def execAttestationReport (fn : Nat) (s : State) : Out :=
  s.serveRequest fn 11 false fun w _ s =>
    let asc := reqField w 40 2
    let va := reqField w 48 8
    if !restZero w [(8, 34), (48, 8)] ∨ ascBad w 40 ∨ va % 4 ≠ 0 then .answer 2 s
    else if s.ascFunc asc ≠ fn then .answer 1 s
    else if 2 ^ 20 ≤ s.hif.leaf then .answer 4 s
    else
      s.deliver asc va (s.signedReport (reqField w 8 32)) fun s1 => { s1 with hif := { s1.hif with leaf := s1.hif.leaf + 1 } }

def execReadIdentityPublicKey (fn : Nat) (s : State) : Out :=
  s.serveRequest fn 12 false fun w _ s =>
    let asc := reqField w 40 2
    let va := reqField w 48 8
    if !restZero w [(40, 2), (48, 8)] ∨ ascBad w 40 ∨ va % 4 ≠ 0 then .answer 2 s
    else if s.ascFunc asc ≠ fn then .answer 1 s
    else s.deliver asc va publicKey id

end Sys2Proof.Machine
end

