-- ==== Sys2Proof/Machine/ScalarMemory.lean ====
section
/-! DEFINITION. Scalar loads and stores, the return of load data, and the performing of writes (07_control_slice.md R154,
R164, R165; 13_ordering.md R328 to R333, R342, R345). -/

namespace Sys2Proof.Machine

/-- Class of a scalar access (R42, R164). -/
def smClass (f : SM) : Nat :=
  match f.pfx with
  | some c => c.toNat
  | none => f.cls.toNat

def smLen (f : SM) : Nat := if f.pfx.isSome then 12 else 8

/-- Offset of a scalar access: signed and exact (R164). -/
def smOff (k : Task) (f : SM) : Int := (k.rx f.xo).toInt + f.imm.toInt

/-- The three checks at issue, in their order: a cause (R164). -/
def smFault (h : Handle) (off : Int) (size : Nat) (perm : Bool) : Option Byte :=
  if !h.v then some 0x08
  else if off < 0 ∨ (h.size : Int) < off + size then some 0x09
  else if !perm then some 0x0A
  else none

def isLoad : Access → Bool
  | .load .. | .read .. => true
  | _ => false

def isWrite : Access → Bool
  | .write .. => true
  | _ => false

/-- A scalar access of n bytes, after its checks: go gives the state from the physical address. A user context cannot write the pages
of a slot that are mapped read-only (R58, R85). -/
def smAccess (f : SM) (n : Nat) (load : Bool) (s : State) (go : Task → Nat → State) : Out :=
  match find s.tasks s.cur with
  | none => .fault .noTask
  | some k =>
    if k.hazard [f.xo, f.x] then .next s
    else if load && decide (8 ≤ (k.slice.filter isLoad).length) then .next s
    else if !load && decide (16 ≤ (k.slice.filter isWrite).length) then .next s
    else
      let h := k.rh f.h
      let off := smOff k f
      match smFault h off n (if load then h.r else h.w) with
      | some c => .next (s.slip c k.pc (BitVec.ofInt 64 off))
      | none =>
        if isDevReg h.base then .refused .registerWindow
        else
          let a := ((h.base : Int) + off).toNat
          if !load && !k.fw && s.readOnly a n then .next (s.slip 0x0A k.pc (BitVec.ofInt 64 off))
          else .next ((go k a).touch k.coreKey h a)

/-- A load issues: its data return later (R154, R164). -/
def loadOf (f : SM) (n : Nat) (signed : Bool) (s : State) : Out :=
  smAccess f n true s fun k a =>
    s.now ({ k with slice := k.slice ++ [Access.load f.x a n signed (smClass f) k.pc []] }.adv (smLen f))

/-- A store is posted into the store buffer (R154, R164). -/
def storeOf (f : SM) (n : Nat) (s : State) : Out :=
  smAccess f n false s fun k a =>
    let cells := cellsAt a (bytesOf n (k.rx f.x).toNat)
    s.now ({ k with slice := k.slice ++ [Access.write cells (smClass f) k.wid (if a % n = 0 then 0 else 1)], wid := k.wid + 1 }.adv (smLen f))

def execLdb (f : SM) (s : State) : Out := loadOf f 1 false s
def execLdbs (f : SM) (s : State) : Out := loadOf f 1 true s
def execLdh (f : SM) (s : State) : Out := loadOf f 2 false s
def execLdhs (f : SM) (s : State) : Out := loadOf f 2 true s
def execLdw (f : SM) (s : State) : Out := loadOf f 4 false s
def execLdws (f : SM) (s : State) : Out := loadOf f 4 true s
def execLdd (f : SM) (s : State) : Out := loadOf f 8 false s
def execStb (f : SM) (s : State) : Out := storeOf f 1 s
def execSth (f : SM) (s : State) : Out := storeOf f 2 s
def execStw (f : SM) (s : State) : Out := storeOf f 4 s
def execStd (f : SM) (s : State) : Out := storeOf f 8 s

/-! ### Order in a stream (R330, R333, R345) -/

/-- Addresses of an access. -/
def Access.bytes : Access → List Nat
  | .load _ a n _ _ _ _ => addrs a n
  | .write cells _ _ _ => cells.map fun c => c.1
  | .read want _ _ => want.map fun c => c.2
  | .tile .. | .fence .. => []

/-- The item is an access to memory. -/
def Access.isMem : Access → Bool
  | .tile .. | .fence .. => false
  | _ => true

def overlap (a b : Access) : Bool := a.bytes.any b.bytes.contains

/-- Class order from a to a later b (R330). -/
def classOrdered (a b : Access) : Bool := (a.cls == b.cls || a.cls == 15 || b.cls == 15) && !(isWrite a && isLoad b)

/-- a must be performed before a later b of its stream, apart from fence points: class order, or a common byte, where only
a load behind a write may go first, by forwarding (R330, R333, R342). -/
def before (a b : Access) : Bool :=
  a.isMem && b.isMem && (classOrdered a b || (overlap a b && !(isWrite a && isLoad b)))

/-- A fence point among the later items of a list orders a before b (R345). -/
def fenced (a b : Access) (later : List Access) : Bool :=
  a.isMem && b.isMem && later.any fun f => match f with | .fence _ m => m.getLsbD a.cls && m.getLsbD b.cls | _ => false

/-- Item b may be performed, given the items ahead of it in its stream. -/
def mayPerform (b : Access) : List Access → Bool
  | [] => true
  | a :: r => !(before a b || fenced a b r) && mayPerform b r

/-- The byte that the latest write among the items ahead gives address x (R342). -/
def forwarded (ahead : List Access) (x : Nat) : Option Byte :=
  let fwd (v : Option Byte) (a : Access) : Option Byte :=
    match a with
    | .write cells _ _ _ => cells.foldl (fun v c => if c.1 = x then some c.2 else v) v
    | _ => v
  ahead.foldl fwd none

/-- Byte at address x that a load sees: forwarded from the latest write ahead of it in the stream, else from memory (R165,
R342); with its poison. A store to an unmapped address is discarded, so it forwards nothing (R182). -/
def seenByte (s : State) (ahead : List Access) (x : Nat) : Byte × Bool :=
  match forwarded ahead x with
  | some v => if mapped x then (v, false) else (0, true)
  | none => (s.byte x, s.bad x)

/-- Extension of a loaded value of n bytes. -/
def extend (n : Nat) (signed : Bool) (v : Nat) : W64 :=
  if signed && decide (2 ^ (8 * n - 1) ≤ v) then BitVec.ofInt 64 ((v : Int) - 2 ^ (8 * n)) else BitVec.ofNat 64 v

/-- The byte at x as a load gets it: read earlier (R329), or now. -/
def loadByte (s : State) (ahead : List Access) (seen : List (Nat × Byte × Bool)) (x : Nat) : Byte × Bool :=
  match seen.find? fun b => b.1 == x with
  | some b => b.2
  | none => seenByte s ahead x

/-- The data of a load return: what it has not read yet is read, and its register is written, or a poisoned byte raises 0x40
(R164, R182). -/
def execLoadDataReturn (t n : Nat) (s : State) : Out :=
  match find s.tasks t with
  | none => .next s
  | some k =>
    let ahead := k.slice.take n
    match k.slice[n]? with
    | some (.load d a size sg cls pc seen) =>
      if !mayPerform (.load d a size sg cls pc seen) ahead || s.held a size then .next s
      else
        let bs := (addrs a size).map (loadByte s ahead seen)
        let k1 := { k with slice := dropFences (dropAt k.slice n) }
        if bs.any fun b => b.2 then
          .next ((s.setTask t k1).take t { cause := 0x40, addr := pc, data := 0, src := 0, await := 0, pos := 0 } pc)
        else .next (s.setTask t (k1.wx d (extend size sg (wordOfBytes (bs.map fun b => b.1)))))
    | _ => .next s

end Sys2Proof.Machine
end

