-- ==== Sys2Proof/Machine/Performing.lean ====
section
/-! DEFINITION. The performing of accesses that have left their heads: writes of the slice stream and of the STQ stream, parts of an
access that is not single-copy atomic, the reads of the LDQ stream, and the writes of the engines (13_ordering.md R328 to R333;
10_vector_queues.md R249, R250). -/

namespace Sys2Proof.Machine

/-- Replace item n of a stream by what is left of it: nothing, or the item r. -/
def leaveItem (l : List Access) (n : Nat) (r : Option Access) : List Access :=
  match r with
  | none => dropFences (dropAt l n)
  | some a => setAt l n a

/-- Part of a write is performed: the item left, and the cells that go to memory. -/
def splitWrite (whole : Bool) (unit which : Nat) (cells : List (Nat × Byte)) (cls wid pos : Nat) : Option Access × List (Nat × Byte) :=
  let f := whichItem whole unit which (cells.map fun c => c.1)
  let rest := cells.filter fun c => !f c.1
  (if rest.isEmpty then none else some (.write rest cls wid pos), cells.filter fun c => f c.1)

/-- An item of the slice stream: a write is performed, or a load that is not single-copy atomic reads some of its bytes (R329,
R342). -/
def performSlice (s : State) (t : Nat) (k : Task) (n which : Nat) : State :=
  let ahead := k.slice.take n
  match k.slice[n]? with
  | some (.write cells cls wid pos) =>
    let w := splitWrite (pos == 0) 1 which cells cls wid pos
    if !mayPerform (.write cells cls wid pos) ahead || w.2.any fun c => s.heldAt c.1 then s
    else (s.setTask t { k with slice := leaveItem k.slice n w.1 }).perform w.2
  | some (.load d a size sg cls pc seen) =>
    let whole := a % size == 0 && !((addrs a size).any fun x => (forwarded ahead x).isSome)
    let f := whichItem false 1 which (addrs a size)
    let new := (addrs a size).filter fun x => f x && !(seen.any fun b => b.1 == x)
    if whole || !mayPerform (.load d a size sg cls pc seen) ahead || new.any s.heldAt then s
    else s.setTask t { k with slice := setAt k.slice n (.load d a size sg cls pc (seen ++ new.map fun x => (x, seenByte s ahead x))) }
  | _ => s

/-- An item of the STQ stream: a write is performed. -/
def performStq (s : State) (t : Nat) (k : Task) (n which : Nat) : State :=
  match k.stqOut[n]? with
  | some (.write cells cls wid pos) =>
    let w := splitWrite false 8 which cells cls wid pos
    if !mayPerform (.write cells cls wid pos) (k.stqOut.take n) || w.2.any fun c => s.heldAt c.1 then s
    else (s.setTask t { k with stqOut := leaveItem k.stqOut n w.1 }).perform w.2
  | _ => s

/-- An item of the LDQ stream: bytes are read for its entry, or a tile is (R220, R250). -/
def performLdq (s : State) (t : Nat) (k : Task) (n which : Nat) : State :=
  match k.ldqOut[n]? with
  | some (.read want cls pos) =>
    let f := whichItem false 8 which (want.map fun c => c.2)
    let rest := want.filter fun c => !f c.2
    let now := want.filter fun c => f c.2
    if !mayPerform (.read want cls pos) (k.ldqOut.take n) || now.any fun c => s.heldAt c.2 then s
    else
      let s1 := s.setTask t { k with ldqOut := leaveItem k.ldqOut n (if rest.isEmpty then none else some (.read rest cls pos)) }
      (s1.gotBytes t pos (now.map fun c => (c.1, s.byte c.2, s.bad c.2))).landEntry t pos
  | some (.tile ..) => s.readTileNow t n
  | _ => s

/-- The n-th item of a stream of task t (0 slice, 1 LDQ, 2 STQ), of the writes of command t (3), of the reads of its next element (4), or
of the launch front end (5 the next record of queue t, 6 the next part of the table of packet t, 7 its completion record), is performed, in
whole (which = 0) or in the part that the bits of which number, where it is not single-copy atomic (R328, R329); it waits with the pages it
touches (R185, R206). -/
def execAccessPerformed (t n : Nat) (p : AccessPart) (s : State) : Out :=
  if p.stream = 3 then .next (s.performPost t n p.which)
  else if p.stream = 4 then .next (s.readPart t n p.which)
  else if p.stream = 5 then .next (s.recordPart t p.which)
  else if p.stream = 6 then .next (s.tablePart t p.which)
  else if p.stream = 7 then .next (s.bodyPart t p.which)
  else
    match find s.tasks t with
    | none => .next s
    | some k =>
      .next (if p.stream = 0 then performSlice s t k n p.which else if p.stream = 1 then performLdq s t k n p.which else performStq s t k n p.which)

end Sys2Proof.Machine
end

