-- ==== Sys2Proof/Machine/Placing.lean ====
section
/-! DEFINITION. Placing tickets on cores: requests, steals, gangs and pre-emption (06_placing.md R136 to R146), the registers of a
task (04_describing_work.md R98, R99, R105; 07_control_slice.md R152) and its retirement (15_retirement_and_health.md R377). -/

namespace Sys2Proof.Machine

/-! ### Iterations of a ticket (R99, R105) -/

/-- Spatial levels with their numbers, the fastest-varying first. -/
def Packet.fastFirst (p : Packet) : List (Nat × Level) :=
  let sp := ([0, 1, 2, 3].map fun n => (n, p.level n)).filter fun e => e.2.spatial
  (List.range sp.length).filterMap fun j => sp.find? fun e => e.2.rank == sp.length - 1 - j

/-- Iterations of ticket q, by level number, the fastest first. -/
def itersOf : List (Nat × Level) → Nat → List (Nat × Nat)
  | [], _ => []
  | (n, l) :: r, q => (n, q % l.extent) :: itersOf r (q / l.extent)

/-- Ticket of a list of iterations in the same order. -/
def ticketOf : List (Nat × Level) → List (Nat × Nat) → Nat
  | (_, l) :: r, (_, i) :: s => i + l.extent * ticketOf r s
  | _, _ => 0

/-- A level divided by the members of a gang that lie along it. -/
def Packet.ganged (p : Packet) (e : Nat × Level) : Nat × Level :=
  let d := if p.shape = 0 then (if e.1 = p.gx then 4 else 1) else if e.1 = p.gx ∨ e.1 = p.gy then 2 else 1
  (e.1, { e.2 with extent := e.2.extent / d })

/-- Ticket of member m of gang g, the gangs in the order of their leaders (R105, R137). -/
def Packet.gangTicket (p : Packet) (g m : Nat) : Nat :=
  let f := p.fastFirst
  let its := itersOf (f.map p.ganged) g
  let at' (e : Nat × Nat) : Nat × Nat :=
    if p.shape = 0 then (if e.1 = p.gx then (e.1, 4 * e.2 + m) else e)
    else if e.1 = p.gx then (e.1, 2 * e.2 + m % 2)
    else if e.1 = p.gy then (e.1, 2 * e.2 + m / 2)
    else e
  ticketOf f (its.map at')

/-- Ticket index of a task; a gang's task keeps 4 x gang + member. -/
def Packet.ticketIndex (p : Packet) (k : Task) : Nat := if p.cluster then p.gangTicket (k.ticket / 4) k.member else k.ticket

/-- Index registers of ticket q in loop mode (R99). -/
def Packet.indexRegs (p : Packet) (q : Nat) : Assoc W64 :=
  let its := itersOf p.fastFirst q
  each (fun n l =>
    let v := p.level n
    let w : Nat :=
      if v.mark = 0 then 0
      else if v.mark = 1 then v.extent + v.step * 65536
      else ((its.filter fun e => e.1 == n).map fun e => e.2 * v.step).headD 0
    put 0 l n (BitVec.ofNat 64 w)) [0, 1, 2, 3] []

/-- Relocation registers of a task (R98); p15 is already there in table mode. -/
def State.relocRegs (_ : State) (p : Packet) (k : Task) (q : Nat) : Assoc W64 :=
  let base := windowBase p.slot
  let p12 := if p.child then 2 ^ 44 + p.qidx % 2 ^ 32 else p.queue * 2 ^ 32 + p.qidx % 2 ^ 32
  let p13 := k.member * 2 ^ 33 + k.die * 2 ^ 32 + q
  let vals := (List.range 10).map p.reloc ++ [base + 2 ^ 34, base + 2 ^ 32, p12, p13, p.tickets]
  let l := each (fun i l => put 0 l i (BitVec.ofNat 64 ((vals[i]?).getD 0))) (List.range 15) []
  put 0 l 15 (if p.table then get 0 k.p 15 else 0)

/-! ### Cores that fit (R142 to R144) -/

def CtxSlot.isFree (x : CtxSlot) : Bool := x.run.isNone && x.susp.isNone

/-- Free user contexts of a core; a withdrawn core has none to give (R273). -/
def Core.freeCtxs (c : Core) : Nat := if c.out then 0 else c.ctxA.isFree.toNat + c.ctxB.isFree.toNat

/-- Context, A first, and partition base for n slots on core c (R142, R143). -/
def State.seat (s : State) (c n : Nat) : Option (Nat × Nat) :=
  let co := s.core c
  let fit (other : CtxSlot) : Option Nat := if 64 < n + s.partLen other then none else s.freeRange c n (s.parts other)
  if co.out || s.underReset (c / 96) then none
  else if co.ctxA.isFree then (fit co.ctxB).map fun b => (0, b)
  else if co.ctxB.isFree then (fit co.ctxA).map fun b => (1, b)
  else none

/-- Slots that the tasks of a packet hold. -/
def Packet.slots (p : Packet) : Nat := partSlots p.part

/-- Reservations of a die, the oldest first: a cluster and the gang packet it is for, while that has gangs to place (R144). -/
def State.reservations (s : State) (d : Nat) : List (Nat × Nat) :=
  (if d = 0 then s.lfe.reserved0 else s.lfe.reserved1).filter fun r => (s.packet r.2).hasEntry

def State.setReservations (s : State) (d : Nat) (l : List (Nat × Nat)) : State :=
  if d = 0 then { s with lfe := { s.lfe with reserved0 := l } } else { s with lfe := { s.lfe with reserved1 := l } }

/-- A reservation keeps its cluster from packet id: one for a gang of higher priority, or of the same and older than its own (R144). -/
def State.keeps (s : State) (l : List (Nat × Nat)) (cl id prio : Nat) : Bool :=
  let mine := l.filter fun r => r.1 == cl
  (mine.any fun r => r.2 != id && decide (prio < (s.packet r.2).prio)) ||
    (mine.takeWhile fun r => r.2 != id).any fun r => prio == (s.packet r.2).prio

/-- Core c is reserved against packet p (R144). -/
def State.barred (s : State) (c : Nat) (id : Nat) (p : Packet) : Bool := s.keeps (s.reservations (c / 96)) (c % 96 / 4) id p.prio

/-- Cores of cluster l of die d. -/
def clusterCores (d l : Nat) : List Nat := [0, 1, 2, 3].map fun m => 96 * d + 4 * l + m

/-- Lowest cluster of die d that holds a gang of packet p (R144). -/
def State.gangSeat (s : State) (d id : Nat) (p : Packet) : Option Nat :=
  (List.range 24).find? fun l => (clusterCores d l).all fun c => (s.seat c p.slots).isSome && !s.barred c id p

/-- The cluster with the most free user contexts, the lowest on a tie, of those without a withdrawn core (R144, R273). -/
def State.mostCluster (s : State) (d : Nat) : Option Nat :=
  let n (l : Nat) : Nat := sumNat ((clusterCores d l).map fun c => (s.core c).freeCtxs)
  leastBy (fun l => 8 - n l) ((List.range 24).filter fun l => (clusterCores d l).all fun c => !(s.core c).out)

/-- Packet id reserves the cluster with the most free user contexts, or gives its reservation the one that has them now (R144). -/
def State.reserve (s : State) (d id : Nat) : State :=
  match s.mostCluster d with
  | none => s
  | some cl =>
    let l := s.reservations d
    s.setReservations d (if l.any fun r => r.2 == id then l.map fun r => if r.2 = id then (cl, id) else r else l ++ [(cl, id)])

/-- Core c can take an entry of the packet, or may ask for its gang. -/
def State.takes (s : State) (c : Nat) (e : Nat × Packet) : Bool :=
  if e.2.cluster then
    decide (0 < (s.core c).freeCtxs) &&
      ((s.gangSeat (c / 96) e.1 e.2).isSome ||
        ((s.mostCluster (c / 96)).isSome && !(s.reservations (c / 96)).any fun r => r.2 == e.1))
  else (s.seat c e.2.slots).isSome && !s.barred c e.1 e.2

/-- Launches that core c can take an entry of. -/
def State.asks (s : State) (c : Nat) : List (Nat × Packet) := (s.packetsWith Packet.hasEntry).filter (s.takes c)

/-- Cores of die d in the order of preference of R143. -/
def State.preferred (s : State) (d : Nat) : List Nat :=
  let l := (List.range 96).map fun c => 96 * d + c
  (l.filter fun c => (s.core c).freeCtxs == 2) ++ l.filter fun c => (s.core c).freeCtxs == 1

/-- Packet for whose next record core c waits at its walker (R141). -/
def State.askedBy (s : State) (c : Nat) : Option Nat :=
  (s.lfe.packets.find? fun e => e.2.phase == .dispatched && !e.2.stop &&
    e.2.walker.any fun w => w.goes && decide (w.next < e.2.rcount) && w.asks.any fun a => a.2 == c).map fun e => e.1

/-- The core whose request is served next: one that waits at a walker asks for nothing else. -/
def State.asker (s : State) (d : Nat) : Option Nat := (s.preferred d).find? fun c => (s.askedBy c).isNone && !(s.asks c).isEmpty

/-! ### Taking an entry (R138, R139) -/

/-- Die d takes the next ticket or gang: from its own counter, else by a steal (R139). -/
def Packet.takeEntry (p : Packet) (d : Nat) : Option (Nat × Packet) :=
  let (lo, hi, olo, ohi) := if d = 0 then (p.lo0, p.hi0, p.lo1, p.hi1) else (p.lo1, p.hi1, p.lo0, p.hi0)
  let upd (lo hi ohi : Nat) : Packet :=
    if d = 0 then { p with lo0 := lo, hi0 := hi, hi1 := ohi } else { p with lo1 := lo, hi1 := hi, hi0 := ohi }
  if lo < hi then some (lo, upd (lo + 1) hi ohi)
  else if olo < ohi then
    let n := max 1 ((ohi - olo) / 2)
    some (ohi - n, upd (ohi - n + 1) ohi (ohi - n))
  else none

/-- Entry of a packet for die d: its ticket, or a record (R101, R141). -/
def Packet.pull (p : Packet) (d : Nat) : Option (Nat × Nat × Packet) :=
  match p.walker with
  | none => (p.takeEntry d).map fun e => (e.1, 0, e.2)
  | some w =>
    match w.record with
    | none => none
    | some r =>
      let e := recExpert r.toNat
      some (w.next, r.toNat, { p with walker := some { w with
        next := w.next + 1, record := none, served := e :: w.served, handed := e :: w.handed } })

/-- Add a task of packet id. In table mode its record gives the index registers, p15 and the counter it signals (R101, R102). -/
def State.addTask (s : State) (id c ctx ticket member base size rec : Nat) : State :=
  let p := s.packet id
  let tab := p.table
  let iv := if tab then each (fun (e : Nat × Nat) l => put (0 : W64) l e.1 (BitVec.ofNat 64 e.2))
    [(0, recExpert rec), (1, bits rec 63 32), (2, recRows rec), (3, ticket)] [] else []
  let k : Task := { Task.empty with
    die := c / 96, core := c % 96, ctx := ctx, packet := id, ticket := ticket, member := member, partBase := base, partSize := size,
    i := iv, p := if tab then put 0 [] 15 (BitVec.ofNat 64 (bits rec 115 64)) else [],
    esem := if tab ∧ bits rec 124 124 = 1 then some (bits rec 123 116) else none }
  let s1 := s.setTask s.nextTask k
  { s1.setPacket id { p with tasks := p.tasks + 1, firstPulled := true } with nextTask := s1.nextTask + 1 }

/-- The last task added holds context ctx of core c. -/
def State.sit (s : State) (c ctx : Nat) : State :=
  let co := s.core c
  let x : CtxSlot := { run := some (s.nextTask - 1), susp := none }
  s.setCore c (if ctx = 0 then { co with ctxA := x } else { co with ctxB := x })

/-- A context of cluster cl is taken: the reservations of that cluster are computed again, the oldest first (R144). -/
def State.rereserve (s : State) (d cl : Nat) : State :=
  each (fun r s => s.reserve d r.2) ((s.reservations d).filter fun r => r.1 == cl) s

/-- Core c takes an entry of a packet (R138, R142). -/
def State.takeOne (s : State) (id c : Nat) : State :=
  let p := s.packet id
  match s.seat c p.slots, p.pull (c / 96) with
  | some (ctx, base), some (q, rec, p1) =>
    let s1 := (((s.setPacket id p1).addTask id c ctx q 0 base p.slots rec).sit c ctx).rereserve (c / 96) (c % 96 / 4)
    (if p.table then s1.tableEnd id else s1).trim
  | _, _ => s

/-- A gang of a packet is placed on cluster l of die d (R144). -/
def State.takeGang (s : State) (id d l : Nat) : State :=
  let p := s.packet id
  match p.takeEntry d with
  | none => s
  | some (g, p1) =>
    let one (m : Nat) (s : State) : State :=
      let c := 96 * d + 4 * l + m
      match s.seat c p.slots with
      | none => s
      | some (ctx, base) => (s.addTask id c ctx (4 * g + m) m base p.slots 0).sit c ctx
    let s1 := each one [0, 1, 2, 3] (s.setPacket id p1)
    let s2 := s1.setReservations d ((s1.reservations d).filter fun r => r.2 != id)
    (s2.rereserve d l).trim

/-! ### Pre-emption (R146, R357) -/

/-- A running task of the die that a packet may pre-empt (R146, R357). -/
def State.victimOk (s : State) (d : Nat) (p : Packet) (k : Task) : Bool :=
  let co := s.core k.coreKey
  let (own, other) := if k.ctx = 0 then (co.ctxA, co.ctxB) else (co.ctxB, co.ctxA)
  !k.fw && k.die == d && (k.phase == .running || k.phase == .ended) && own.susp.isNone && !co.out && decide ((s.packet k.packet).prio < 3) &&
    decide (p.slots + s.partLen other ≤ 64)

/-- The victim: lowest priority, and among those the one that started last. -/
def State.worst (s : State) : List (Nat × Task) → Option (Nat × Task)
  | [] => none
  | e :: r =>
    match s.worst r with
    | none => some e
    | some v =>
      let a := (s.packet e.2.packet).prio
      let b := (s.packet v.2.packet).prio
      if a < b ∨ (a = b ∧ v.2.started < e.2.started) then some e else some v

/-- The launch of level 3 that pre-empts on die d, and its victim, where no core of the die has a context that meets R142, whether or
not it is reserved (R146). -/
def State.preempts (s : State) (d : Nat) : Option (Nat × State × Nat) :=
  match s.select 0 d (s.packetsWith Packet.hasEntry) with
  | none => none
  | some (id, s1) =>
    let p := s.packet id
    if p.prio < 3 || p.cluster || (List.range 96).any (fun c => (s.seat (96 * d + c) p.slots).isSome) || s.underReset d then none
    else (s.worst (s.tasks.filter fun e => s.victimOk d p e.2)).map fun v => (id, s1, v.1)

/-- Packet id takes the context of task v, which drains for the newcomer. -/
def State.preempt (s : State) (id v : Nat) : State :=
  let k := s.task v
  let p := s.packet id
  match p.pull k.die with
  | none => s
  | some (q, rec, p1) =>
    let s1 := (s.setPacket id p1).addTask id k.coreKey k.ctx q 0 0 0 rec
    let s2 := s1.setTask v { k with phase := .drainPre (s1.nextTask - 1) (k.phase == .ended) }
    (if p.table then s2.tableEnd id else s2).trim

/-! ### TICKET_REQUEST and WALKER_RECORD_HANDOUT -/

/-- The own counter of die d for a packet is empty. -/
def Packet.ownEmpty (p : Packet) (d : Nat) : Bool := if d = 0 then p.hi0 ≤ p.lo0 else p.hi1 ≤ p.lo1

/-- A request of core c reaches the walker of packet id, and claims a record (R141). -/
def State.claimRecord (s : State) (id c : Nat) : State :=
  let p := s.packet id
  (s.setPacket id { p with walker := p.walker.map fun w => { w with asks := w.asks ++ [(s.time, c)] } }).trim

/-- What becomes of the next request of a die: the core that asks, the launch that R145 selects for it, and the state with ptr and deficits
moved; v: the task that a launch of level 3 pre-empts (R146). -/
structure NextRequest where
  core : Nat
  id : Nat
  state : State
  victim : Option Nat

/-- The next request of die d. -/
def State.nextServed (s : State) (d : Nat) : Option NextRequest :=
  match s.preempts d with
  | some (id, s1, v) => if (s.askedBy (s.task v).coreKey).isSome then none else some ⟨(s.task v).coreKey, id, s1, some v⟩
  | none => (s.asker d).bind fun c => (s.select 0 d (s.asks c)).map fun e => ⟨c, e.1, e.2, none⟩

/-- The request is served: its launch gives a ticket or a gang, by a steal too, a cluster is reserved for it, or its request goes to the
walker (R138 to R146). -/
def State.give (r : NextRequest) : State :=
  let s := r.state
  let p := s.packet r.id
  if p.walker.isSome then s.claimRecord r.id r.core
  else
    match r.victim with
    | some v => s.preempt r.id v
    | none =>
      if p.cluster then
        match s.gangSeat (r.core / 96) r.id p with
        | some l => s.takeGang r.id (r.core / 96) l
        | none => s.reserve (r.core / 96) r.id
      else s.takeOne r.id r.core

/-- Of the requests that die d makes now, one takes an entry of launch id as its own: a ticket of its counter, or the walker's next record.
The second argument bounds the requests looked at. -/
def State.pullsOwn (d id : Nat) : Nat → State → Bool
  | 0, _ => false
  | n + 1, s =>
    match s.nextServed d with
    | none => false
    | some r =>
      let p := s.packet id
      let seat : Bool := r.victim.isSome || !p.cluster || (s.gangSeat d id p).isSome
      (r.id == id && (p.walker.isSome || !p.ownEmpty d && seat)) || State.pullsOwn d id n (State.give r)

/-- As many requests as a die can serve before its contexts are taken, with a pre-emption of each. -/
def requestsOf : Nat := 400

/-- The other die takes an entry of its own counter for launch id at once, and so does before a steal by die d (R139; log 31). -/
def State.otherFirst (s : State) (d id : Nat) : Bool :=
  let p := s.packet id
  p.ownEmpty d && !p.ownEmpty (1 - d) && State.pullsOwn (1 - d) id requestsOf s

/-- The request that the walker serves next: the one that reached it first, the home die's in one array cycle, in the order in which they
came (R141). -/
def nextAsk (home : Nat) : List (Nat × Nat) → Option (Nat × Nat)
  | [] => none
  | e :: r =>
    match nextAsk home r with
    | none => some e
    | some f => if f.1 < e.1 ∨ (f.1 = e.1 ∧ f.2 / 96 = home ∧ e.2 / 96 ≠ home) then some f else some e

/-- A task of core c that packet p may pre-empt (R146). -/
def State.victimAt (s : State) (c : Nat) (p : Packet) : Option Nat :=
  if p.prio < 3 || p.cluster || (s.seat c p.slots).isSome then none
  else (s.worst (s.tasks.filter fun e => e.2.coreKey == c && s.victimOk (c / 96) p e.2)).map fun e => e.1

/-- Core c can take an entry of the packet, into a free context or by pre-emption. -/
def State.sits (s : State) (c id : Nat) (p : Packet) : Bool := ((s.seat c p.slots).isSome && !s.barred c id p) || (s.victimAt c p).isSome

/-- The walker of packet id serves the request of core c, if the record is read and the request is the next: requests that no context
stands for any more are gone, and one that has come in this array cycle waits while the home die makes one (R141). -/
def State.handTo (s : State) (id c : Nat) : State :=
  let p := s.packet id
  match p.walker with
  | none => s
  | some w =>
    let l := w.asks.filter fun a => s.sits a.2 id p
    let s1 (l : List (Nat × Nat)) : State := s.setPacket id { p with walker := some { w with asks := l } }
    match nextAsk p.home l, w.record with
    | some a, some _ =>
      if a.2 ≠ c ∨ (a.1 = s.time ∧ c / 96 ≠ p.home ∧ State.pullsOwn p.home id requestsOf (s1 l)) then s1 l
      else
        let s2 := s1 (l.erase a)
        match s2.victimAt c p with
        | some v => s2.preempt id v
        | none => s2.takeOne id c
    | _, _ => s1 l

/-- Serve the request of core c, where the launch selected satisfies f. A request for a record goes to the walker, and an entry for a
pre-empting task is pulled as any other (R139, R141, R146). -/
def State.serve (s : State) (c : Nat) (f : Nat → Packet → Bool) : State :=
  if 192 ≤ c then s
  else
    match s.askedBy c with
    | some id => if f id (s.packet id) then s.handTo id c else s
    | none =>
      match s.nextServed (c / 96) with
      | none => s
      | some r =>
        let p := s.packet r.id
        if r.core ≠ c ∨ !f r.id p then s
        else if p.walker.isSome then (State.give r).handTo r.id c
        else if s.otherFirst (c / 96) r.id then s
        else State.give r

/-- TICKET_REQUEST of a core: the launch selected is in loop mode (R138 to R146). -/
def execTicketRequest (core : Nat) (s : State) : Out := .next (s.serve core fun _ p => !p.table)

/-- WALKER_RECORD_HANDOUT: the launch selected is packet p, in table mode (R102, R141). -/
def execWalkerRecordHandout (p core : Nat) (s : State) : Out := .next (s.serve core fun id v => id == p && v.table)

/-! ### Arrival and start (R98, R99, R138, R152) -/

/-- Members of a task's gang that have all reached a phase. -/
def State.together (s : State) (t : Nat) (ph : Phase) : Bool := (s.gang t).all fun m => (s.task m).phase == ph

/-- TICKET_ARRIVAL: the relocation and index registers are written; a gang's together (R98, R99, R144). -/
def execTicketArrival (s : State) : Out :=
  match find s.tasks s.cur with
  | none => .next s
  | some k =>
    if k.phase != .arriving || k.partSize == 0 || !s.together s.cur .arriving then .next s
    else
      let p := s.packet k.packet
      let one (t : Nat) (s : State) : State :=
        let k := s.task t
        let q := p.ticketIndex k
        s.setTask t { k with p := s.relocRegs p k q, i := if p.table then k.i else p.indexRegs q, phase := .starting }
      .next (each one (s.gang s.cur) s)

/-- The context of a task at its first instruction (R152). -/
def State.startTask (s : State) (t : Nat) : State :=
  let k := s.task t
  let p := s.packet k.packet
  let w := s.kernelEntry p.slot p.kernel
  let s1 := s.setTask t { k with
    phase := .running, pc := windowBase p.slot + kEntry w, ord := QSet.empty (kDepth w 0) (kDepth w 1) (kDepth w 2),
    started := s.lfe.order }
  { s1 with lfe := { s1.lfe with order := s1.lfe.order + 1 } }

/-- TASK_START: a gang's members start together (R144, R152). -/
def execTaskStart (s : State) : Out :=
  match find s.tasks s.cur with
  | none => .next s
  | some k => .next (if k.phase == .starting && s.together s.cur .starting then each (fun t s => s.startTask t) (s.gang s.cur) s else s)

/-! ### Retirement (R172, R223, R377) -/

/-- TEND has issued and nothing of the task but its shares is left, in its context or suspended (R377); no MMA reads a tile in which it has
a share (R270). -/
def State.mayRetire (s : State) (t : Nat) (k : Task) : Bool :=
  k.hasEnded && k.ord.allDone && !k.ord.faulted && performed k.stqOut &&
    performed k.slice && (s.ce.cmds.all fun c => c.2.task != t || c.2.state == .ended) &&
    s.cores.all fun c => c.2.slots.all fun x => shareOf x.2.shares t == 0 || !s.mmaOn c.1 x.1

/-- Tiles of task t that a share of another context keeps (R223 step 2). -/
def State.kept (s : State) (t : Nat) (k : Task) : Bool :=
  let co := s.core k.coreKey
  (co.slots.any fun x => x.2.state != .empty && x.2.owner == t) || co.savedTiles.any fun x => x.task == t

/-- A residue in strict-count mode: the task ends in a fatal fault (R104, R223). -/
def State.strictEnd (s : State) (k : Task) : State :=
  let s1 := s.note 0x01 0x13 (s.offset k k.pc) 0 (some k)
  s1.setPacket k.packet ((s1.packet k.packet).faulted 0x13 (whoOf k) s1.time)

/-- The task leaves: names, units, partition and context; the counter of its record is signalled, or forced to abort where its
end is fatal (R101, R103, R377). -/
def State.leave (s : State) (t : Nat) (fatal : Bool) : State :=
  let k := s.task t
  let asc := (s.packet k.packet).asc
  let names := k.ord.nrq ++ k.hnd.nrq ++ (k.ord.names ++ k.hnd.names).map NameOut.name
  let s1 := (each (fun nm s => State.dropName s asc nm) names s).leaveCore t k
  let p := s1.packet k.packet
  let s2 := { s1.setPacket k.packet { p with tasks := p.tasks - 1, retired := p.retired + 1, resid := addResid p.resid k.residue } with
    tasks := del s1.tasks t }
  match k.esem with
  | none => s2.unloads
  | some n => (if fatal then s2.abort p.file n else s2.signal p.file n (-1) (some k)).unloads

/-- TASK_RETIRE: the task's shares settle; it retires once no peer holds a share in a tile of its partition. A gang's member that ends in a
fault ends with its gang (R362). -/
def execTaskRetire (s : State) : Out :=
  let t := s.cur
  match find s.tasks t with
  | none => .next s
  | some k =>
    if !s.mayRetire t k then .next s
    else
      let (n, s1) := s.settle t
      let k1 := { s1.task t with residue := k.residue + n }
      let s2 := s1.setTask t k1
      if s2.kept t k1 then .next s2
      else if k1.residue ≠ 0 ∧ s2.strictOf (s2.packet k.packet) then
        .next (if (s2.packet k.packet).cluster then (s2.strictEnd k1).setTask t k1.doomed else (s2.strictEnd k1).leave t true)
      else .next (s2.leave t false)

end Sys2Proof.Machine
end

