-- ==== Sys2Proof/Machine/Scalar.lean ====
section
/-! DEFINITION. The scalar integer and address instructions (07_control_slice.md R161 to R163) and NOP (R27). -/

namespace Sys2Proof.Machine

/-! ### Results that are not one BitVec operation (R161) -/

def divS (a b : W64) : W64 :=
  if b = 0 then BitVec.allOnes 64 else BitVec.ofInt 64 (Int.tdiv a.toInt b.toInt)

def divU (a b : W64) : W64 := if b = 0 then BitVec.allOnes 64 else BitVec.ofNat 64 (a.toNat / b.toNat)

def remS (a b : W64) : W64 := if b = 0 then a else BitVec.ofInt 64 (Int.tmod a.toInt b.toInt)

def remU (a b : W64) : W64 := if b = 0 then a else BitVec.ofNat 64 (a.toNat % b.toNat)

def ofBool (b : Bool) : W64 := if b then 1 else 0

/-- Shift amount: the low six bits. -/
def amount (b : W64) : Nat := b.toNat % 64

/-- Leading zero bits of the low n bits. -/
def lead (a : Nat) : Nat → Nat
  | 0 => 0
  | n + 1 => if a / 2 ^ n % 2 = 1 then 0 else lead a n + 1

/-- Trailing zero bits, at most n. -/
def trail : Nat → Nat → Nat
  | _, 0 => 0
  | a, n + 1 => if a % 2 = 1 then 0 else trail (a / 2) n + 1

/-- One bits among the low n. -/
def ones : Nat → Nat → Nat
  | _, 0 => 0
  | a, n + 1 => a % 2 + ones (a / 2) n

def idx2Of (a b : W64) : W64 := BitVec.ofNat 64 (bits a.toNat 63 32 * bits b.toNat 31 0 + bits a.toNat 31 0)

def idx3Of (a b : W64) : W64 :=
  BitVec.ofNat 64 (bits a.toNat 63 42 * bits b.toNat 63 32 + bits a.toNat 41 21 * bits b.toNat 31 0 + bits a.toNat 20 0)

def bclampOf (a b : W64) : W64 := if b.toInt < 0 then 0 else BitVec.ofInt 64 (min (max a.toInt 0) b.toInt)

def alignOf (a b : W64) : W64 :=
  let m : W64 := BitVec.ofNat 64 (2 ^ amount b - 1)
  (a + m) &&& ~~~m

/-- The mould of R161. -/
def s3 (s : State) (d a b : Reg) (f : W64 → W64 → W64) : Out := compute s 4 d [a, b] fun k => f (k.rx a) (k.rx b)

def execAdd (d a b : Reg) (s : State) : Out := s3 s d a b fun x y => x + y
def execSub (d a b : Reg) (s : State) : Out := s3 s d a b fun x y => x - y
def execMul (d a b : Reg) (s : State) : Out := s3 s d a b fun x y => x * y
def execMulh (d a b : Reg) (s : State) : Out := s3 s d a b fun x y => BitVec.ofInt 64 (x.toInt * y.toInt / 2 ^ 64)
def execMulhu (d a b : Reg) (s : State) : Out := s3 s d a b fun x y => BitVec.ofNat 64 (x.toNat * y.toNat / 2 ^ 64)
def execDiv (d a b : Reg) (s : State) : Out := s3 s d a b divS
def execDivu (d a b : Reg) (s : State) : Out := s3 s d a b divU
def execRem (d a b : Reg) (s : State) : Out := s3 s d a b remS
def execRemu (d a b : Reg) (s : State) : Out := s3 s d a b remU
def execAnd (d a b : Reg) (s : State) : Out := s3 s d a b fun x y => x &&& y
def execOr (d a b : Reg) (s : State) : Out := s3 s d a b fun x y => x ||| y
def execXor (d a b : Reg) (s : State) : Out := s3 s d a b fun x y => x ^^^ y
def execShl (d a b : Reg) (s : State) : Out := s3 s d a b fun x y => x <<< amount y
def execShr (d a b : Reg) (s : State) : Out := s3 s d a b fun x y => x >>> amount y
def execSar (d a b : Reg) (s : State) : Out := s3 s d a b fun x y => x.sshiftRight (amount y)
def execMin (d a b : Reg) (s : State) : Out := s3 s d a b fun x y => if x.toInt ≤ y.toInt then x else y
def execMax (d a b : Reg) (s : State) : Out := s3 s d a b fun x y => if x.toInt ≤ y.toInt then y else x
def execMinu (d a b : Reg) (s : State) : Out := s3 s d a b fun x y => if x.toNat ≤ y.toNat then x else y
def execMaxu (d a b : Reg) (s : State) : Out := s3 s d a b fun x y => if x.toNat ≤ y.toNat then y else x
def execSlt (d a b : Reg) (s : State) : Out := s3 s d a b fun x y => ofBool (decide (x.toInt < y.toInt))
def execSltu (d a b : Reg) (s : State) : Out := s3 s d a b fun x y => ofBool (decide (x.toNat < y.toNat))
def execSeq (d a b : Reg) (s : State) : Out := s3 s d a b fun x y => ofBool (decide (x = y))
def execClz (d a : Reg) (s : State) : Out := compute s 4 d [a] fun k => BitVec.ofNat 64 (lead (k.rx a).toNat 64)
def execCtz (d a : Reg) (s : State) : Out := compute s 4 d [a] fun k => BitVec.ofNat 64 (trail (k.rx a).toNat 64)
def execPopc (d a : Reg) (s : State) : Out := compute s 4 d [a] fun k => BitVec.ofNat 64 (ones (k.rx a).toNat 64)

/-- SEL reads its destination too. -/
def execSel (d a b : Reg) (s : State) : Out := compute s 4 d [a, b] fun k => if k.rx d ≠ 0 then k.rx a else k.rx b

def execIdx2 (d a b : Reg) (s : State) : Out := s3 s d a b idx2Of
def execIdx3 (d a b : Reg) (s : State) : Out := s3 s d a b idx3Of
def execBclamp (d a b : Reg) (s : State) : Out := s3 s d a b bclampOf
def execAlignup (d a b : Reg) (s : State) : Out := s3 s d a b alignOf

/-! ### Immediate forms (R162, R163) -/

/-- Sign extension of a 12-bit immediate. -/
def sext12 (i : BitVec 12) : W64 := i.signExtend 64

def si (s : State) (d a : Reg) (f : W64 → W64) : Out := compute s 4 d [a] fun k => f (k.rx a)

def execAddi (d a : Reg) (imm : BitVec 12) (s : State) : Out := si s d a fun x => x + sext12 imm
def execAndi (d a : Reg) (imm : BitVec 12) (s : State) : Out := si s d a fun x => x &&& sext12 imm
def execOri (d a : Reg) (imm : BitVec 12) (s : State) : Out := si s d a fun x => x ||| sext12 imm
def execXori (d a : Reg) (imm : BitVec 12) (s : State) : Out := si s d a fun x => x ^^^ sext12 imm

/-- A shift by an immediate: above 63 it is an illegal operand (R162). -/
def shiftImm (s : State) (d a : Reg) (imm : BitVec 12) (f : W64 → Nat → W64) : Out :=
  computeIf s (decide (63 < imm.toNat)) d [a] fun k => f (k.rx a) imm.toNat

def execShli (d a : Reg) (imm : BitVec 12) (s : State) : Out := shiftImm s d a imm fun x n => x <<< n
def execShri (d a : Reg) (imm : BitVec 12) (s : State) : Out := shiftImm s d a imm fun x n => x >>> n
def execSari (d a : Reg) (imm : BitVec 12) (s : State) : Out := shiftImm s d a imm fun x n => x.sshiftRight n

def execLiShort (d : Reg) (imm : BitVec 12) (s : State) : Out := compute s 4 d [] fun _ => sext12 imm

def execLi (d : Reg) (imm : W32) (s : State) : Out := compute s 8 d [] fun _ => imm.signExtend 64

def execLih (d : Reg) (imm : W32) (s : State) : Out :=
  compute s 8 d [] fun k => BitVec.ofNat 64 (imm.toNat * 2 ^ 32 + (k.rx d).toNat % 2 ^ 32)

/-- NOP (R27): fetch goes on. -/
def execNop (s : State) : Out := onSlice s [] fun k => s.now (k.adv 4)

end Sys2Proof.Machine
end

