-- ==== Sys2Proof/Machine/QueueOps.lean ====
section
/-! DEFINITION. Queue instructions of the slice: pushes into the CTQ, pops of the return queues, QDEPTH and BND
(07_control_slice.md R158 to R160, R173 to R177), and FMTP (11_matrix_and_routing.md R266 to R268, R277). -/

namespace Sys2Proof.Machine

/-- Push an entry into CTQ section sec: it waits while the section is full, and faults if no entry of the queue is left
that could pop (R158, R160, R173). -/
def pushCtq (s : State) (k : Task) (sec n : Nat) (e : CtqEntry) : State :=
  let qs := k.qset
  if (qs.ctq sec).length < ctqCap k.inTrap then s.now ((k.setQset (qs.setCtq sec (qs.ctq sec ++ [e]))).adv n)
  else if (qs.rq sec).entries.isEmpty then s.slip 0x1C k.pc 0
  else s

def execCqp (sel a : Reg) (s : State) : Out :=
  onDecode s [a] (operand (decide (2 < sel.toNat))) fun k => pushCtq s k sel.toNat 4 { kind := .scalar, val := k.rx a }

def execCqpb (sel a : Reg) (s : State) : Out :=
  onDecode s [a] (operand (decide (2 < sel.toNat))) fun k =>
    pushCtq s k sel.toNat 4 { kind := .pred, val := if k.rx a ≠ 0 then 1 else 0 }

/-- Counts of a mask descriptor: n, rc, cc by kind, or none if one is above its limit (R174). -/
def maskCounts (kind : BitVec 2) (a b : Nat) : Option (Nat × Nat × Nat) :=
  match kind.toNat with
  | 0 => if a ≤ 16384 then some (a, 0, 0) else none
  | 1 => if a ≤ 32 then some (0, a, 0) else none
  | 2 => if a ≤ 512 then some (0, 0, a) else none
  | _ => if a ≤ 32 ∧ b ≤ 512 then some (0, a, b) else none

/-- The 64-bit payload of a mask descriptor (R174). -/
def maskPayload (kind : BitVec 2) (r0 : BitVec 5) (c0 : BitVec 10) (c : Nat × Nat × Nat) : W64 :=
  BitVec.ofNat 64 (kind.toNat * 2 ^ 62 + r0.toNat * 2 ^ 57 + c0.toNat * 2 ^ 47 + c.2.1 * 2 ^ 41 + c.2.2 * 2 ^ 30 + c.1)

def execCqpm (sel a b : Reg) (kind : BitVec 2) (r0 : BitVec 5) (c0 : BitVec 10) (s : State) : Out :=
  onDecode s [a, b] (operand (decide (2 < sel.toNat) || decide (511 < c0.toNat))) fun k =>
    match maskCounts kind (k.rx a).toNat (k.rx b).toNat with
    | none => s.slip 0x03 k.pc 0
    | some c => pushCtq s k sel.toNat 8 { kind := .maskDesc, val := maskPayload kind r0 c0 c }

/-- No entry of a queue is left that has not completed (R160). -/
def RQ.done (rq : RQ) : Bool := rq.entries.isEmpty && rq.issued.isEmpty

def execRqpop (d : Reg) (s : State) : Out :=
  onSlice s [d] fun k =>
    let qs := k.qset
    match qs.rtq with
    | v :: r => s.now (((k.setQset { qs with rtq := r }).wx d v).adv 4)
    | [] => if qs.cmq.done then s.slip 0x1C k.pc 0 else s

/-- NPOP: the bytes named are performed before the name is in the NRQ (R202). An NSTV or TPARK past its holding time (R242) whose name is
still to be pushed counts as not completed for the test of R160, so that NPOP waits for the name (DESIGN CHOICE, log 49). -/
def execNpop (d : Reg) (s : State) : Out :=
  onSlice s [d] fun k =>
    let qs := k.qset
    match qs.nrq with
    | v :: r => s.now (((k.setQset { qs with nrq := r }).wx d (BitVec.ofNat 64 v)).adv 4)
    | [] => if qs.stq.done && qs.names.isEmpty then s.slip 0x1C k.pc 0 else s

/-- Value of selector sel (R176). -/
def depthOf (qs : QSet) (sel : Nat) : Nat :=
  match sel with
  | 0 => qs.ldq.entries.length
  | 1 => qs.cmq.entries.length
  | 2 => qs.stq.entries.length
  | 3 => qs.ctqLd.length
  | 4 => qs.ctqCm.length
  | 5 => qs.ctqSt.length
  | 6 => qs.rtq.length
  | 7 => qs.nrq.length
  | 8 => qs.chan 0 1
  | 9 => qs.chan 1 0
  | 10 => qs.chan 0 2
  | 11 => qs.chan 2 0
  | 12 => qs.chan 1 2
  | _ => qs.chan 2 1

def execQdepth (d sel : Reg) (s : State) : Out :=
  computeIf s (decide (13 < sel.toNat)) d [] fun k => BitVec.ofNat 64 (depthOf k.qset sel.toNat)

def QSet.withBound (qs : QSet) (q : Nat) (b : W32) : QSet := qs.setRq q { qs.rq q with bound := b }

/-- BND acts on the set of the context, the handler's in a handler (R177, R351). -/
def execBnd (sel : Reg) (imm : W32) (s : State) : Out :=
  onDecode s [] (operand (decide (3 < sel.toNat))) fun k =>
    let qs := k.qset
    let qs1 := if sel = 3 then ((qs.withBound 0 imm).withBound 1 imm).withBound 2 imm else qs.withBound sel.toNat imm
    s.now ((k.setQset qs1).adv 8)

/-! ### FMTP -/

/-- Width in bits of a format code (R263, R267). -/
def formatWidth (c : Nat) : Nat := match c with | 0 => 16 | 1 => 16 | 5 => 4 | _ => 8

/-- A format descriptor is an illegal operand (R267). -/
def formatBad (desc : BitVec 10) : Bool :=
  let at' := desc.toNat % 8
  let bt := desc.toNat / 8 % 8
  let asc := desc.toNat / 64 % 4
  let bsc := desc.toNat / 256
  asc == 3 || bsc == 3 || decide (5 < at') || decide (5 < bt) || formatWidth at' != formatWidth bt ||
    ((at' == 4) != (bt == 4)) || (at' == 4 && (asc != 0 || bsc != 0)) || (asc == 2 && at' != 5) || (bsc == 2 && bt != 5)

def Entry.isMma (e : Entry) : Bool :=
  match e.instr with
  | .mma _ => true
  | _ => false

def execFmtp (a : Reg) (desc : BitVec 10) (s : State) : Out :=
  onDecode s [a] (operand (formatBad desc)) fun k =>
    if k.fmtq.length < 16 then s.now ({ k with fmtq := k.fmtq ++ [(desc, k.rx a)] }.adv 8)
    else if !k.ord.cmq.entries.any Entry.isMma then s.slip 0x19 k.pc 0
    else s

end Sys2Proof.Machine
end

