-- ==== Sys2Proof/Machine/Resets.lean ====
section
/-! DEFINITION. Package cold reset and die warm reset (15_retirement_and_health.md R393, R394). -/

namespace Sys2Proof.Machine

/-- PACKAGE_COLD_RESET: the reset state; the fabric number and the leaf count last (R369, R392). -/
def execPackageColdReset (fn : Nat) (s : State) : Out :=
  .next (if fn = 0 then
    { State.reset with fabno := s.fabno, tick := s.tick, hif := { State.reset.hif with leaf := s.hif.leaf } } else s)

/-- Every counter of die d in the abort state: those NORMAL take -2^31 (R116). -/
def abortedSems (d : Nat) (l : Assoc W32) : Assoc W32 :=
  let mine (k : Nat) : Bool := k / 65536 == d
  let lo := if d = 0 then [] else l.filter fun e => !mine e.1
  let hi := if d = 0 then l.filter fun e => !mine e.1 else []
  let v (k : Nat) : W32 := if (get 0 l k).toInt < 0 then get 0 l k else BitVec.ofInt 32 (-2 ^ 31)
  lo ++ ((List.range 65536).map fun i => (65536 * d + i, v (65536 * d + i))) ++ hi

/-- The files of die d are forced into abort, and what waits on them sees it (R118, R291, R394). -/
def State.abortDie (s : State) (d : Nat) : State :=
  let s1 := { s with lfe := { s.lfe with sems := abortedSems d s.lfe.sems } }
  let f (c : Cmd) : Cmd := if c.state == .waiting && fileDie c.file == d && !c.wait.isEmpty then { c with state := .aborting } else c
  let s2 := { s1 with ce := { s1.ce with cmds := mapVals (fun _ c => f c) s1.ce.cmds } }
  let ids := (s2.packetsWith fun p => p.phase == .waiting && fileDie p.file == d).map fun e => e.1
  each (fun id s => s.evalWait id) ids s2

/-- A hand-over of die d that has not reached SWITCHING is abandoned (R196). -/
def State.abandon (s : State) (d i : Nat) : State :=
  let x := s.site i
  if x.owner ≠ d ∨ x.hstate = .none ∨ x.hstate = .switching then s
  else
    let s1 := s.setSite i { x with hstate := .none, hand := none }
    match x.hand with
    | none => s1
    | some h => s1.abort h.file h.counter

/-- The bit of HIF_RESET of die d, and the time at which its reset began. -/
def State.setReset (s : State) (d : Nat) (b : Bool) : State :=
  if d = 0 then { s with hif := { s.hif with reset0 := b, resetAt0 := s.time } }
  else { s with hif := { s.hif with reset1 := b, resetAt1 := s.time } }

/-- The reset of die d has taken more than 2^22 array cycles (R394). -/
def State.resetLate (s : State) (d : Nat) : Bool := decide ((if d = 0 then s.hif.resetAt0 else s.hif.resetAt1) + 2 ^ 22 < s.time)

/-- Context F of every core of die d is unloaded (log 46). -/
def State.dropDieF (s : State) (d : Nat) : State := { s with tasks := s.tasks.filter fun e => !(e.2.fw && e.2.die == d) }

/-- DIE_WARM_RESET of die d by the physical function: tasks, commands, counters, hand-overs, TLBs and caches of the die (R394). -/
def execDieWarmReset (fn die : Nat) (s : State) : Out :=
  if fn ≠ 0 ∨ 1 < die ∨ s.underReset die then .next s
  else
    let s1 := (s.note 0x04 1 (BitVec.ofNat 64 die) 0 none).setReset die true
    let ts := (s1.tasks.filter fun e => !e.2.fw && e.2.die == die).map fun e => e.1
    let s2 := (s1.killAll 4 ts).stopCmds fun c => c.die == die
    let s3 := each (fun i s => s.abandon die i) [0, 1, 2, 3, 4, 5, 6, 7] s2
    let s4 := (s3.abortDie die).dropTlb fun c _ => c / 96 == die
    let s5 := { s4 with cores := mapDrop Core.empty (fun c x => if c / 96 = die then { x with icache := [], fwSwitched := false, fwOld := none } else x) s4.cores }
    .next (((s5.dropDieF die).fwBack).unloads)

/-- A reset completes in at most 2^22 array cycles (R394). -/
def execDieWarmResetComplete (die : Nat) (s : State) : Out :=
  .next (if s.underReset die ∧ !s.resetLate die then s.setReset die false else s)

/-- A reset that does not complete in 2^22 array cycles moves the package to storm (R383). -/
def execDieWarmResetTimeout (die : Nat) (s : State) : Out := .next (if s.underReset die ∧ s.resetLate die then s.enterStorm 0x04 else s)

end Sys2Proof.Machine
end

