-- ==== Sys2Proof/Machine/Dispatch.lean ====
section
/-! DEFINITION. One arm for each constructor of Instr: the meaning of the instruction or step. -/

namespace Sys2Proof.Machine

def exec (i : Instr) (s : State) : Host.Outcome State Fault Refusal :=
  match i with
  | .add d a b => Sys2Proof.Machine.execAdd d a b s
  | .sub d a b => Sys2Proof.Machine.execSub d a b s
  | .mul d a b => Sys2Proof.Machine.execMul d a b s
  | .mulh d a b => Sys2Proof.Machine.execMulh d a b s
  | .mulhu d a b => Sys2Proof.Machine.execMulhu d a b s
  | .div d a b => Sys2Proof.Machine.execDiv d a b s
  | .divu d a b => Sys2Proof.Machine.execDivu d a b s
  | .rem d a b => Sys2Proof.Machine.execRem d a b s
  | .remu d a b => Sys2Proof.Machine.execRemu d a b s
  | .and d a b => Sys2Proof.Machine.execAnd d a b s
  | .or d a b => Sys2Proof.Machine.execOr d a b s
  | .xor d a b => Sys2Proof.Machine.execXor d a b s
  | .shl d a b => Sys2Proof.Machine.execShl d a b s
  | .shr d a b => Sys2Proof.Machine.execShr d a b s
  | .sar d a b => Sys2Proof.Machine.execSar d a b s
  | .min d a b => Sys2Proof.Machine.execMin d a b s
  | .max d a b => Sys2Proof.Machine.execMax d a b s
  | .minu d a b => Sys2Proof.Machine.execMinu d a b s
  | .maxu d a b => Sys2Proof.Machine.execMaxu d a b s
  | .slt d a b => Sys2Proof.Machine.execSlt d a b s
  | .sltu d a b => Sys2Proof.Machine.execSltu d a b s
  | .seq d a b => Sys2Proof.Machine.execSeq d a b s
  | .clz d a => Sys2Proof.Machine.execClz d a s
  | .ctz d a => Sys2Proof.Machine.execCtz d a s
  | .popc d a => Sys2Proof.Machine.execPopc d a s
  | .sel d a b => Sys2Proof.Machine.execSel d a b s
  | .idx2 d a b => Sys2Proof.Machine.execIdx2 d a b s
  | .idx3 d a b => Sys2Proof.Machine.execIdx3 d a b s
  | .bclamp d a b => Sys2Proof.Machine.execBclamp d a b s
  | .alignup d a b => Sys2Proof.Machine.execAlignup d a b s
  | .addi d a imm => Sys2Proof.Machine.execAddi d a imm s
  | .andi d a imm => Sys2Proof.Machine.execAndi d a imm s
  | .ori d a imm => Sys2Proof.Machine.execOri d a imm s
  | .xori d a imm => Sys2Proof.Machine.execXori d a imm s
  | .shli d a imm => Sys2Proof.Machine.execShli d a imm s
  | .shri d a imm => Sys2Proof.Machine.execShri d a imm s
  | .sari d a imm => Sys2Proof.Machine.execSari d a imm s
  | .liShort d imm => Sys2Proof.Machine.execLiShort d imm s
  | .br disp => Sys2Proof.Machine.execBr disp s
  | .beq a b disp => Sys2Proof.Machine.execBeq a b disp s
  | .bne a b disp => Sys2Proof.Machine.execBne a b disp s
  | .blt a b disp => Sys2Proof.Machine.execBlt a b disp s
  | .bge a b disp => Sys2Proof.Machine.execBge a b disp s
  | .bltu a b disp => Sys2Proof.Machine.execBltu a b disp s
  | .bgeu a b disp => Sys2Proof.Machine.execBgeu a b disp s
  | .brt bd => Sys2Proof.Machine.execBrt bd s
  | .brtNz bd a => Sys2Proof.Machine.execBrtNz bd a s
  | .brtZ bd a => Sys2Proof.Machine.execBrtZ bd a s
  | .call disp => Sys2Proof.Machine.execCall disp s
  | .loop n b disp => Sys2Proof.Machine.execLoop n b disp s
  | .endl n disp => Sys2Proof.Machine.execEndl n disp s
  | .cqp sel a => Sys2Proof.Machine.execCqp sel a s
  | .cqpb sel a => Sys2Proof.Machine.execCqpb sel a s
  | .rqpop d => Sys2Proof.Machine.execRqpop d s
  | .npop d => Sys2Proof.Machine.execNpop d s
  | .qdepth d sel => Sys2Proof.Machine.execQdepth d sel s
  | .xlt hd a b => Sys2Proof.Machine.execXlt hd a b s
  | .xltn hd a => Sys2Proof.Machine.execXltn hd a s
  | .hrel hd => Sys2Proof.Machine.execHrel hd s
  | .hchk d ha b => Sys2Proof.Machine.execHchk d ha b s
  | .nrel a => Sys2Proof.Machine.execNrel a s
  | .shand a b => Sys2Proof.Machine.execShand a b s
  | .tsettle d a b => Sys2Proof.Machine.execTsettle d a b s
  | .tstat d a => Sys2Proof.Machine.execTstat d a s
  | .tstatP d => Sys2Proof.Machine.execTstatP d s
  | .cbw d a => Sys2Proof.Machine.execCbw d a s
  | .cego d e => Sys2Proof.Machine.execCego d e s
  | .cegoT d a e => Sys2Proof.Machine.execCegoT d a e s
  | .cepop d e => Sys2Proof.Machine.execCepop d e s
  | .semw d a n => Sys2Proof.Machine.execSemw d a n s
  | .sems d a n => Sys2Proof.Machine.execSems d a n s
  | .semrd d n => Sys2Proof.Machine.execSemrd d n s
  | .trap imm => Sys2Proof.Machine.execTrap imm s
  | .srd d n => Sys2Proof.Machine.execSrd d n s
  | .swr a n => Sys2Proof.Machine.execSwr a n s
  | .baro a imm => Sys2Proof.Machine.execBaro a imm s
  | .li d imm => Sys2Proof.Machine.execLi d imm s
  | .lih d imm => Sys2Proof.Machine.execLih d imm s
  | .ldb f => Sys2Proof.Machine.execLdb f s
  | .ldbs f => Sys2Proof.Machine.execLdbs f s
  | .ldh f => Sys2Proof.Machine.execLdh f s
  | .ldhs f => Sys2Proof.Machine.execLdhs f s
  | .ldw f => Sys2Proof.Machine.execLdw f s
  | .ldws f => Sys2Proof.Machine.execLdws f s
  | .ldd f => Sys2Proof.Machine.execLdd f s
  | .stb f => Sys2Proof.Machine.execStb f s
  | .sth f => Sys2Proof.Machine.execSth f s
  | .stw f => Sys2Proof.Machine.execStw f s
  | .std f => Sys2Proof.Machine.execStd f s
  | .pbr bd imm => Sys2Proof.Machine.execPbr bd imm s
  | .cqpm sel a b kind r0 c0 => Sys2Proof.Machine.execCqpm sel a b kind r0 c0 s
  | .bnd sel imm => Sys2Proof.Machine.execBnd sel imm s
  | .fmtp a desc => Sys2Proof.Machine.execFmtp a desc s
  | .fenceC scope mask => Sys2Proof.Machine.execFenceC scope mask s
  | .fenceM queues engines => Sys2Proof.Machine.execFenceM queues engines s
  | .vadd f => Sys2Proof.Machine.execVadd f s
  | .vsub f => Sys2Proof.Machine.execVsub f s
  | .vmul f => Sys2Proof.Machine.execVmul f s
  | .vfma f => Sys2Proof.Machine.execVfma f s
  | .vfnma f => Sys2Proof.Machine.execVfnma f s
  | .vmin f => Sys2Proof.Machine.execVmin f s
  | .vmax f => Sys2Proof.Machine.execVmax f s
  | .vabs f => Sys2Proof.Machine.execVabs f s
  | .vneg f => Sys2Proof.Machine.execVneg f s
  | .vclamp f => Sys2Proof.Machine.execVclamp f s
  | .vmov f => Sys2Proof.Machine.execVmov f s
  | .vsel f => Sys2Proof.Machine.execVsel f s
  | .vexp2 f => Sys2Proof.Machine.execVexp2 f s
  | .vlog2 f => Sys2Proof.Machine.execVlog2 f s
  | .vrcp f => Sys2Proof.Machine.execVrcp f s
  | .vrsq f => Sys2Proof.Machine.execVrsq f s
  | .vcmp cond f => Sys2Proof.Machine.execVcmp cond f s
  | .viadd f => Sys2Proof.Machine.execViadd f s
  | .visub f => Sys2Proof.Machine.execVisub f s
  | .vimul f => Sys2Proof.Machine.execVimul f s
  | .vimad f => Sys2Proof.Machine.execVimad f s
  | .vand f => Sys2Proof.Machine.execVand f s
  | .vor f => Sys2Proof.Machine.execVor f s
  | .vxor f => Sys2Proof.Machine.execVxor f s
  | .vnot f => Sys2Proof.Machine.execVnot f s
  | .vshl f => Sys2Proof.Machine.execVshl f s
  | .vshr f => Sys2Proof.Machine.execVshr f s
  | .vsar f => Sys2Proof.Machine.execVsar f s
  | .vimin f => Sys2Proof.Machine.execVimin f s
  | .vimax f => Sys2Proof.Machine.execVimax f s
  | .vrmax f => Sys2Proof.Machine.execVrmax f s
  | .vrmin f => Sys2Proof.Machine.execVrmin f s
  | .vrsum f => Sys2Proof.Machine.execVrsum f s
  | .vcsum f => Sys2Proof.Machine.execVcsum f s
  | .vrscan f => Sys2Proof.Machine.execVrscan f s
  | .vshuf f => Sys2Proof.Machine.execVshuf f s
  | .vrot f => Sys2Proof.Machine.execVrot f s
  | .vtrn f => Sys2Proof.Machine.execVtrn f s
  | .vmsk f => Sys2Proof.Machine.execVmsk f s
  | .vmaskq f => Sys2Proof.Machine.execVmaskq f s
  | .vdefer f => Sys2Proof.Machine.execVdefer f s
  | .vdrain f => Sys2Proof.Machine.execVdrain f s
  | .vret f => Sys2Proof.Machine.execVret f s
  | .vcvt f => Sys2Proof.Machine.execVcvt f s
  | .vqnt f => Sys2Proof.Machine.execVqnt f s
  | .vld f => Sys2Proof.Machine.execVld f s
  | .vlds f => Sys2Proof.Machine.execVlds f s
  | .vgath f => Sys2Proof.Machine.execVgath f s
  | .vst f => Sys2Proof.Machine.execVst f s
  | .vsts f => Sys2Proof.Machine.execVsts f s
  | .vscat f => Sys2Proof.Machine.execVscat f s
  | .nstv f => Sys2Proof.Machine.execNstv f s
  | .tfetch f => Sys2Proof.Machine.execTfetch f s
  | .twin f => Sys2Proof.Machine.execTwin f s
  | .tadv f => Sys2Proof.Machine.execTadv f s
  | .tshare f => Sys2Proof.Machine.execTshare f s
  | .tunpark f => Sys2Proof.Machine.execTunpark f s
  | .vldt f => Sys2Proof.Machine.execVldt f s
  | .vldx f => Sys2Proof.Machine.execVldx f s
  | .tpark f => Sys2Proof.Machine.execTpark f s
  | .twr f => Sys2Proof.Machine.execTwr f s
  | .twb f => Sys2Proof.Machine.execTwb f s
  | .mma f => Sys2Proof.Machine.execMma f s
  | .accz f => Sys2Proof.Machine.execAccz f s
  | .accld f => Sys2Proof.Machine.execAccld f s
  | .accrd f => Sys2Proof.Machine.execAccrd f s
  | .entryComplete t q hs => Sys2Proof.Machine.execEntryComplete t q hs s
  | .tileFillComplete core slot => Sys2Proof.Machine.execTileFillComplete core slot s
  | .loadDataReturn t k => Sys2Proof.Machine.execLoadDataReturn t k s
  | .accessPerformed t k part => Sys2Proof.Machine.execAccessPerformed t k part s
  | .namePush t hs => Sys2Proof.Machine.execNamePush t hs s
  | .nameBlockFree site chan index => Sys2Proof.Machine.execNameBlockFree site chan index s
  | .queueStall t q hs => Sys2Proof.Machine.execQueueStall t q hs s
  | .unitSaveComplete core unit => Sys2Proof.Machine.execUnitSaveComplete core unit s
  | .unitRestoreComplete core unit => Sys2Proof.Machine.execUnitRestoreComplete core unit s
  | .registerWrite fn off v => Sys2Proof.Machine.execRegisterWrite fn off v s
  | .queueEnable fn q v => Sys2Proof.Machine.execQueueEnable fn q v s
  | .queueReset fn q v => Sys2Proof.Machine.execQueueReset fn q v s
  | .queueNotify fn q v => Sys2Proof.Machine.execQueueNotify fn q v s
  | .withdrawal fn q v => Sys2Proof.Machine.execWithdrawal fn q v s
  | .semaphoreWrite fn file n v => Sys2Proof.Machine.execSemaphoreWrite fn file n v s
  | .lfeKill fn q v => Sys2Proof.Machine.execLfeKill fn q v s
  | .functionLevelReset fn f => Sys2Proof.Machine.execFunctionLevelReset fn f s
  | .packageColdReset fn => Sys2Proof.Machine.execPackageColdReset fn s
  | .dieWarmReset fn die => Sys2Proof.Machine.execDieWarmReset fn die s
  | .dieWarmResetComplete die => Sys2Proof.Machine.execDieWarmResetComplete die s
  | .dieWarmResetTimeout die => Sys2Proof.Machine.execDieWarmResetTimeout die s
  | .barographFreeze fn => Sys2Proof.Machine.execBarographFreeze fn s
  | .barographUnfreeze fn => Sys2Proof.Machine.execBarographUnfreeze fn s
  | .mailboxNotify fn v => Sys2Proof.Machine.execMailboxNotify fn v s
  | .loadSlot fn => Sys2Proof.Machine.execLoadSlot fn s
  | .slotLoadComplete n => Sys2Proof.Machine.execSlotLoadComplete n s
  | .unloadSlot fn => Sys2Proof.Machine.execUnloadSlot fn s
  | .revokeRange fn => Sys2Proof.Machine.execRevokeRange fn s
  | .revocationComplete k => Sys2Proof.Machine.execRevocationComplete k s
  | .setArenaQuota fn => Sys2Proof.Machine.execSetArenaQuota fn s
  | .siteRight fn => Sys2Proof.Machine.execSiteRight fn s
  | .assignResource fn => Sys2Proof.Machine.execAssignResource fn s
  | .clearPins fn => Sys2Proof.Machine.execClearPins fn s
  | .stageFirmwareImage fn ok version => Sys2Proof.Machine.execStageFirmwareImage fn ok version s
  | .startFirmwareHandOver fn => Sys2Proof.Machine.execStartFirmwareHandOver fn s
  | .discardStagedImage fn => Sys2Proof.Machine.execDiscardStagedImage fn s
  | .firmwareIdlePointSwitch core => Sys2Proof.Machine.execFirmwareIdlePointSwitch core s
  | .firmwareSwitchTimeout core => Sys2Proof.Machine.execFirmwareSwitchTimeout core s
  | .attestationReport fn => Sys2Proof.Machine.execAttestationReport fn s
  | .readIdentityPublicKey fn => Sys2Proof.Machine.execReadIdentityPublicKey fn s
  | .recordRead q => Sys2Proof.Machine.execRecordRead q s
  | .childPoolRefill die => Sys2Proof.Machine.execChildPoolRefill die s
  | .ticketRequest core => Sys2Proof.Machine.execTicketRequest core s
  | .walkerRecordHandout p core => Sys2Proof.Machine.execWalkerRecordHandout p core s
  | .interruptHoldOffExpiry fn vec => Sys2Proof.Machine.execInterruptHoldOffExpiry fn vec s
  | .semaphoreSignal k => Sys2Proof.Machine.execSemaphoreSignal k s
  | .prefetch bytes => Sys2Proof.Machine.execPrefetch bytes s
  | .rtePhase1Complete die => Sys2Proof.Machine.execRtePhase1Complete die s
  | .fabricLinkRetrain port => Sys2Proof.Machine.execFabricLinkRetrain port s
  | .handoverDraining site => Sys2Proof.Machine.execHandoverDraining site s
  | .handoverWritingBack site => Sys2Proof.Machine.execHandoverWritingBack site s
  | .handoverSwitching site => Sys2Proof.Machine.execHandoverSwitching site s
  | .handoverComplete site => Sys2Proof.Machine.execHandoverComplete site s
  | .swap site group => Sys2Proof.Machine.execSwap site group s
  | .swapComplete site => Sys2Proof.Machine.execSwapComplete site s
  | .decayPeriod site => Sys2Proof.Machine.execDecayPeriod site s
  | .selfRefreshEntry site => Sys2Proof.Machine.execSelfRefreshEntry site s
  | .selfRefreshExit site => Sys2Proof.Machine.execSelfRefreshExit site s
  | .thermalHoldTimeout site => Sys2Proof.Machine.execThermalHoldTimeout site s
  | .uncorrectableMemoryError pa len => Sys2Proof.Machine.execUncorrectableMemoryError pa len s
  | .correctedMemoryError site pa => Sys2Proof.Machine.execCorrectedMemoryError site pa s
  | .testStrip core => Sys2Proof.Machine.execTestStrip core s
  | .testStripComplete core failed => Sys2Proof.Machine.execTestStripComplete core failed s
  | .illegalEncoding why delta => Sys2Proof.Machine.execIllegalEncoding why delta s
  | .lfeCreadWrite fn q v => Sys2Proof.Machine.execLfeCreadWrite fn q v s
  | .vectorUnmask fn vec => Sys2Proof.Machine.execVectorUnmask fn vec s
  | .walkerTranslationFaultAnswer p resume => Sys2Proof.Machine.execWalkerTranslationFaultAnswer p resume s
  | .fabricFlitArrival src flit => Sys2Proof.Machine.execFabricFlitArrival src flit s
  | .fabricPortLost port => Sys2Proof.Machine.execFabricPortLost port s
  | .unitHoldingEnd t q hs => Sys2Proof.Machine.execUnitHoldingEnd t q hs s
  | .ret => Sys2Proof.Machine.execRet s
  | .tend => Sys2Proof.Machine.execTend s
  | .cbclr => Sys2Proof.Machine.execCbclr s
  | .join => Sys2Proof.Machine.execJoin s
  | .launch => Sys2Proof.Machine.execLaunch s
  | .eret => Sys2Proof.Machine.execEret s
  | .yield => Sys2Proof.Machine.execYield s
  | .nop => Sys2Proof.Machine.execNop s
  | .route => Sys2Proof.Machine.execRoute s
  | .mmaMicroStep => Sys2Proof.Machine.execMmaMicroStep s
  | .icacheFill => Sys2Proof.Machine.execIcacheFill s
  | .translationWalkComplete => Sys2Proof.Machine.execTranslationWalkComplete s
  | .taskCycleBound => Sys2Proof.Machine.execTaskCycleBound s
  | .yieldEnd => Sys2Proof.Machine.execYieldEnd s
  | .routedFaultArrival => Sys2Proof.Machine.execRoutedFaultArrival s
  | .trapEntry => Sys2Proof.Machine.execTrapEntry s
  | .firmwareSwitchOut => Sys2Proof.Machine.execFirmwareSwitchOut s
  | .firmwareFaultResume => Sys2Proof.Machine.execFirmwareFaultResume s
  | .firmwareFaultFatal => Sys2Proof.Machine.execFirmwareFaultFatal s
  | .preEmptionSwitch => Sys2Proof.Machine.execPreEmptionSwitch s
  | .taskStart => Sys2Proof.Machine.execTaskStart s
  | .taskRetire => Sys2Proof.Machine.execTaskRetire s
  | .packetHead => Sys2Proof.Machine.execPacketHead s
  | .residencyCheck => Sys2Proof.Machine.execResidencyCheck s
  | .dispatch => Sys2Proof.Machine.execDispatch s
  | .ticketArrival => Sys2Proof.Machine.execTicketArrival s
  | .walkerRead => Sys2Proof.Machine.execWalkerRead s
  | .packetComplete => Sys2Proof.Machine.execPacketComplete s
  | .completionBodyPerformed => Sys2Proof.Machine.execCompletionBodyPerformed s
  | .completionHeaderPerformed => Sys2Proof.Machine.execCompletionHeaderPerformed s
  | .interruptEvent => Sys2Proof.Machine.execInterruptEvent s
  | .commandDequeue => Sys2Proof.Machine.execCommandDequeue s
  | .commandStart => Sys2Proof.Machine.execCommandStart s
  | .commandElement => Sys2Proof.Machine.execCommandElement s
  | .engineFaultResume => Sys2Proof.Machine.execEngineFaultResume s
  | .engineFaultFatal => Sys2Proof.Machine.execEngineFaultFatal s
  | .commandEnd => Sys2Proof.Machine.execCommandEnd s
  | .copy => Sys2Proof.Machine.execCopy s
  | .accw => Sys2Proof.Machine.execAccw s
  | .rotate => Sys2Proof.Machine.execRotate s
  | .scan => Sys2Proof.Machine.execScan s
  | .prefetchDeadlineCancel => Sys2Proof.Machine.execPrefetchDeadlineCancel s
  | .fill => Sys2Proof.Machine.execFill s
  | .signal => Sys2Proof.Machine.execSignal s
  | .rte => Sys2Proof.Machine.execRte s
  | .remoteCopy => Sys2Proof.Machine.execRemoteCopy s
  | .remoteAccw => Sys2Proof.Machine.execRemoteAccw s
  | .remoteSignal => Sys2Proof.Machine.execRemoteSignal s
  | .orphanPrefix => Sys2Proof.Machine.execOrphanPrefix s

end Sys2Proof.Machine
end

