-- ==== Sys2Proof/Machine/Agenda.lean ====
section
/-! DEFINITION. The moves of the machine: issue by the slice, issue by a queue's head, a step of the device, the passing of time,
and the order in which a machine left alone takes them (07_control_slice.md R153 to R155, R178; 10_vector_queues.md R240; log 7). -/

namespace Sys2Proof.Machine

/-! ### Issue slots (R149, R150, R368) -/

/-- The slice of task t, which is k, is at work. -/
def State.at' (s : State) (t : Nat) : State := { s with cur := t, turn := .slice }

/-- The unit at the pc of task t issues, or waits; or fetch fails. -/
def State.tryUnit (s : State) (t : Nat) (k : Task) : Out :=
  match (s.at' t).fetchUnit k with
  | .unit i => exec i (s.at' t)
  | f => .next (fetchFail (s.at' t) k f)

/-- A unit of task t, which was k, has issued: the task has moved on, is draining, or is gone. A unit that waits leaves it where it is, and
still waiting: one that issues ends the wait, a transfer to itself too. -/
def hasIssued (t : Nat) (k : Task) : Out → Bool
  | .next s => match find s.tasks t with | none => true | some v => v.pc != k.pc || v.phase != k.phase || v.waitQ.isNone
  | _ => true

/-- The unit at the pc of task t, which is k, issues if it is given a slot (R149). It is tried as one that waits, for a queue that there is
not. -/
def State.issues (s : State) (t : Nat) (k : Task) : Bool := hasIssued t k ((s.setTask t { k with waitQ := some 3 }).tryUnit t { k with waitQ := some 3 })

/-- The context is ready: it has a unit that issues if it is given a slot (R149). -/
def State.ready (s : State) (t : Nat) (k : Task) : Bool := k.mayIssue && s.issues t k

/-- Tasks of the user contexts of a core that are ready. -/
def State.readyUsers (s : State) (core : Nat) : List (Nat × Task) :=
  let co := s.core core
  (co.ctxA.run.toList ++ co.ctxB.run.toList).filterMap fun t =>
    match find s.tasks t with
    | none => none
    | some k => if s.ready t k then some (t, k) else none

/-- Slots of the last 64 that a context took. -/
def Core.taken (c : Core) (x : Nat) : Nat := (c.slotLog.filter fun y => y == x).length

/-- Of two ready user contexts, the one that the next slot goes to: by slots taken to WEIGHT where the functions' weights differ, else, and
on a tie, the one that did not issue last (R149, R368). Before the first slot it is A. -/
def State.nextUser (s : State) (core : Nat) (a b : Task) : Nat :=
  let co := s.core core
  let w (k : Task) : Nat := (s.func (s.packet k.packet).func).weight
  let other := if (co.slotLog.find? fun x => decide (x < 2)) = some 0 then 1 else 0
  if w a = w b then other
  else if co.taken 0 * w b < co.taken 1 * w a then 0
  else if co.taken 1 * w a < co.taken 0 * w b then 1
  else other

/-- Context F has a slot left of its SHARE in the 64 slots that end with the next one (R149). -/
def State.shareLeft (s : State) (core : Nat) : Bool :=
  decide ((((s.core core).slotLog.take 63).filter fun y => y == 2).length < if core < 96 then s.lfe.share0 else s.lfe.share1)

/-- The slot may go to task t, which is k: to a user context in its turn; to context F where no user context is ready, or within SHARE
where the next user instruction begins a bundle or the last one was routed (R149). -/
def State.mayTake (s : State) (t : Nat) (k : Task) : Bool :=
  let co := s.core k.coreKey
  let users := s.readyUsers k.coreKey
  let next (a b : Task) : Nat := s.nextUser k.coreKey a b
  if k.fw then
    match users with
    | [] => true
    | [u] => (u.2.pc % 16 == 0 || co.lastRouted) && s.shareLeft k.coreKey
    | a :: b :: _ => ((if next a.2 b.2 = 0 then a.2.pc else b.2.pc) % 16 == 0 || co.lastRouted) && s.shareLeft k.coreKey
  else
    match users with
    | [a, b] => (t != a.1 && t != b.1) || next a.2 b.2 == k.ctx
    | _ => true

/-- Task k takes an issue slot for unit i. Every routed instruction counts as the "routed vector instruction" of R149, tile and matrix ones
too: the spec does not say which it means (DESIGN CHOICE, log 49). -/
def State.slotTaken (s : State) (k : Task) (i : Instr) : State :=
  let co := s.core k.coreKey
  let x := if k.fw then (if (s.readyUsers k.coreKey).isEmpty then 3 else 2) else k.ctx
  s.setCore k.coreKey { co with slotLog := (x :: co.slotLog).take 64, lastRouted := if k.fw then co.lastRouted else i.home.isSome }

/-- The slice of task t fetches the unit at its pc and issues it in its slot, or starts what fetch needs (R57, R149, R153, R154). -/
def State.issueTask (s : State) (t : Nat) : Out :=
  match find s.tasks t with
  | none => .next s
  | some k =>
    if !k.mayIssue then .next s
    else
      match (s.at' t).fetchUnit k with
      | .unit i =>
        if !s.issues t k then s.tryUnit t k
        else if s.mayTake t k then exec i ((s.at' t).slotTaken k i)
        else .next s
      | f => .next (fetchFail (s.at' t) k f)

/-- The head of routed queue q of task t tries to issue (R240). -/
def State.tryHead (s : State) (t q : Nat) (hs : Bool) : Out :=
  match find s.tasks t with
  | none => .next s
  | some k =>
    match ((k.set hs).rq q).entries with
    | [] => .next s
    | e :: _ => if e.instr.home = some q then exec e.instr { s with cur := t, turn := .head q hs } else .next s

/-- The instruction is a step of the device: it has no words, and no unit of words raises it. -/
def Instr.isEvent (i : Instr) : Bool :=
  match i with
  | .illegalEncoding .. | .orphanPrefix => false
  | i => !i.hasWords

/-- ROUTE takes an issue slot as any unit of the slice does (R149, R155): where the unit at the pc of task t is a routed one, it issues in
its turn. -/
def State.routeTask (s : State) (t : Nat) : Out :=
  match (find s.tasks t).map fun k => (s.at' t).fetchUnit k with
  | some (.unit i) => if i.home.isSome then s.issueTask t else .next s
  | _ => s.issueTask t

/-- A step of the device or an input from outside; one whose operands name nothing that the machine has (R12, R13) is none. -/
def State.runEvent (s : State) (subject : Nat) (i : Instr) : Out :=
  if i = .route then s.routeTask subject
  else if Instr.isEvent i && i.wf then exec i { s with cur := subject, turn := .slice } else .next s

/-! ### Time -/

/-- n cycles in which the head of a queue has not issued (R178); none count while the head awaits an access that a thermal hold keeps
(R206). -/
def RQ.elapse (rq : RQ) (hot : Bool) (n : Nat) : RQ := if rq.entries.isEmpty || hot then rq else { rq with stall := rq.stall + n }

/-- The queues of a set; hot q: the head of queue q awaits an access that a thermal hold keeps. -/
def QSet.elapse (q : QSet) (hot : Nat → Bool) (n : Nat) : QSet :=
  { q with ldq := q.ldq.elapse (hot 0) n, cmq := q.cmq.elapse (hot 1) n, stq := q.stq.elapse (hot 2) n }

/-- A byte of the access is kept by a thermal hold (R206). -/
def State.hotAccess (s : State) (a : Access) : Bool := a.bytes.any s.hotAt

/-- Tiles that the instruction reads: owner and slot. -/
def State.tilesOf (s : State) (t : Nat) (k : Task) (e : Entry) : List (Nat × Nat) :=
  match e.instr with
  | .mma f => [(t, f.ta.toNat), (t, f.tb.toNat)]
  | .vldt f | .tpark f | .twb f | .tshare f => [(t, f.ta.toNat)]
  | .vldx f => match s.holderOf t k e.xb.toNat with | some v => [(v, f.ta.toNat)] | none => []
  | _ => []

/-- The tile in slot n of task ot is FILLING, and a read that fills it is kept by a thermal hold. -/
def State.hotFill (s : State) (ot n : Nat) : Bool :=
  let ok := s.task ot
  match s.view ot ok n with
  | .tile x => x.state == .filling && ok.ldqOut.any fun a => a.fillsSlot (ok.phys n) x.filler && s.hotAccess a
  | _ => false

/-- The head awaits registers that loads write, or a tile that is FILLING (R179): one of their reads is kept by a thermal hold. -/
def State.hotOperand (s : State) (t : Nat) (k : Task) (rq : RQ) (e : Entry) : Bool :=
  let uses := e.instr.reads ++ e.instr.writes
  ((s.tilesOf t k e).any fun x => s.hotFill x.1 x.2) ||
    rq.issued.any fun x => x.busy && x.entry.instr.writes.any uses.contains &&
      k.ldqOut.any fun a => a.posOf == some x.entry.pos && s.hotAccess a

/-- The head awaits the bytes of the oldest name: it pushes one itself, and those on their way to the NRQ, which is empty, fill it
(R159). -/
def Task.awaitsName (k : Task) (hs : Bool) (i : Instr) : Bool :=
  let qs := k.set hs
  (match i with | .nstv _ | .tpark _ => true | _ => false) && qs.nrq.isEmpty && decide (nrqCap hs ≤ qs.names.length)

/-- The head awaits accesses ahead of a fence point, the oldest of sixteen loads, or the bytes of the oldest name (R159, R179, R242, R345):
one of those accesses is kept by a thermal hold. -/
def State.hotMemory (s : State) (k : Task) (hs : Bool) (q : Nat) (rq : RQ) (e : Entry) : Bool :=
  let oldest (a : Access) : Bool := q == 0 && decide (16 ≤ rq.issued.length) && a.posOf == (rq.issued[0]?).map fun i => i.entry.pos
  let fenced (a : Access) : Bool := (k.memClass e.instr).any fun c => rq.fences.any fun f =>
    decide (f.1 ≤ e.pos) && f.2.getLsbD c && a.isBefore f.1 f.2
  let named (a : Access) : Bool := match a with
    | .write _ _ w _ => q == 2 && k.awaitsName hs e.instr && ((k.set hs).names.head?).any fun x => x.wid == w
    | _ => false
  (k.outOf q).any fun a => (oldest a || fenced a || named a) && s.hotAccess a

/-- The predicate at the head's CTQ section turns it off: it awaits no operand (R40). -/
def QSet.turnsOff (qs : QSet) (q : Nat) (e : Entry) : Bool :=
  e.instr.pfx == some .pxp && e.popped.isNone && (qs.ctq q).head?.any fun c => c.kind == .pred && !c.val.getLsbD 0

/-- The head of queue q awaits an access that a thermal hold keeps, whatever else it awaits (R206). -/
def State.hotHead (s : State) (t : Nat) (k : Task) (hs : Bool) (q : Nat) : Bool :=
  let rq := (k.set hs).rq q
  rq.entries.head?.any fun e => !(k.set hs).turnsOff q e && (s.hotOperand t k rq e || s.hotMemory k hs q rq e)

/-- The stall counters of a set advance: the task is neither suspended nor switched out, and the set is not frozen by a trap that is
being handled (R178, R351). -/
def Task.stallsCount (k : Task) (hs : Bool) : Bool :=
  k.inTrap == hs && (match k.phase with | .arriving | .starting | .switchedOut _ | .suspended _ | .doomed _ => false | _ => true)

/-- A task's cycles count from its start, but not while it is suspended (R95, R372). -/
def Phase.counts : Phase → Bool
  | .arriving | .starting | .suspended _ => false
  | _ => true

/-- n cycles of one task: cycle counter, the queues whose heads may issue, and YIELD, whose end is a step of its own (R375). -/
def Task.elapse (k : Task) (hot : Bool → Nat → Bool) (n : Nat) : Task :=
  { k with cycle := if k.phase.counts then k.cycle + n else k.cycle,
           ord := if k.stallsCount false then k.ord.elapse (hot false) n else k.ord,
           hnd := if k.stallsCount true then k.hnd.elapse (hot true) n else k.hnd,
           yieldLeft := if k.yieldLeft = 0 then 0 else max 1 (k.yieldLeft - 2 * n) }

/-- n array cycles pass (R4); the gangs that this one dooms end first (R362). -/
def State.elapse (s0 : State) (n : Nat) : State :=
  let s := s0.reap.unloads
  { s with time := s.time + n, tasks := mapVals (fun t k => k.elapse (s.hotHead t k) n) s.tasks }

/-! ### What a machine left alone does next -/

/-- The moves of one task. -/
def taskMoves (t : Nat) (k : Task) : List Move :=
  let ev := Move.event t
  let queueMoves (hs : Bool) : List Move :=
    [.head t 0 hs, .head t 1 hs, .head t 2 hs, ev (.unitHoldingEnd t 0 hs), ev (.unitHoldingEnd t 1 hs), ev (.unitHoldingEnd t 2 hs),
     ev (.entryComplete t 0 hs), ev (.entryComplete t 1 hs), ev (.entryComplete t 2 hs), ev (.namePush t hs),
     ev (.queueStall t 0 hs), ev (.queueStall t 1 hs), ev (.queueStall t 2 hs)]
  [ev .ticketArrival, ev .taskStart, ev .icacheFill, ev .translationWalkComplete] ++
    (List.range k.slice.length).map (fun n => ev (.accessPerformed t n ⟨0, 0⟩)) ++
    (List.range k.ldqOut.length).flatMap (fun n => [ev (.accessPerformed t 0 ⟨1, 0⟩), ev (.accessPerformed t n ⟨1, 0⟩)]) ++
    (List.range k.stqOut.length).flatMap (fun n => [ev (.accessPerformed t 0 ⟨2, 0⟩), ev (.accessPerformed t n ⟨2, 0⟩)]) ++
    (List.range k.slice.length).map (fun n => ev (.loadDataReturn t n)) ++
    [ev .mmaMicroStep] ++ queueMoves false ++ queueMoves true ++
    [ev .taskCycleBound, ev .yieldEnd, ev .routedFaultArrival, ev .trapEntry, ev .firmwareSwitchOut, ev .preEmptionSwitch, ev .taskRetire,
     .issue t]

def packetMoves (p : Nat) : List Move :=
  [Instr.packetHead, .residencyCheck, .dispatch, .walkerRead, .packetComplete, .completionBodyPerformed, .completionHeaderPerformed,
   .interruptEvent].map (Move.event p)

/-- The steps of a command; each of its writes in flight is performed as it comes to stand first. -/
def cmdMoves (s : State) (id : Nat) (c : Cmd) : List Move :=
  (c.flight.map fun _ => Instr.accessPerformed id 0 ⟨3, 0⟩).map (Move.event 0) ++
    [Instr.commandDequeue, .commandStart, .prefetchDeadlineCancel, .copy, .accw, .rotate, .scan, .fill, .signal, .rte, .remoteCopy,
     .remoteAccw, .remoteSignal, .prefetch (s.budget c), .commandElement, .commandEnd].map (Move.event id)

/-- Fills, unit passes and, where MX work is due for it, the test strip of one core; then its two requests for work. -/
def coreMoves (s : State) (c : Nat) : List Move :=
  let co := s.core c
  let ev := Move.event 0
  (co.slots.filter fun x => x.2.state == .filling).map (fun x => ev (.tileFillComplete c x.1)) ++
    co.units.flatMap (fun u => [ev (.unitSaveComplete c u.1), ev (.unitRestoreComplete c u.1)]) ++
    (if co.strip then [ev (.testStripComplete c 0)] else [ev (.testStrip c)])

/-- Every core asks for a ticket, and for a record of every walker (R141, R145). -/
def askMoves (s : State) (c : Nat) : List Move :=
  .event 0 (.ticketRequest c) ::
    (s.lfe.packets.filter fun p => p.2.walker.isSome).map fun p => .event 0 (.walkerRecordHandout p.1 c)

def siteMoves (s : State) (n : Nat) : List Move :=
  let ev := Move.event 0
  ((s.site n).arena.filter fun u => u.2.leaving).map (fun u => ev (.nameBlockFree n (u.1 / 2 ^ 32) (u.1 % 2 ^ 32))) ++
    [Instr.handoverDraining n, .handoverWritingBack n, .handoverSwitching n, .handoverComplete n, .swapComplete n,
     .decayPeriod n].map ev

/-- Firmware serves the mailbox of a function; what a staged image holds is not known to it here. -/
def functionMoves (fn : Nat) : List Move :=
  [Instr.loadSlot fn, .unloadSlot fn, .revokeRange fn, .setArenaQuota fn, .siteRight fn, .assignResource fn, .clearPins fn,
   .stageFirmwareImage fn false 0, .startFirmwareHandOver fn, .discardStagedImage fn, .attestationReport fn,
   .readIdentityPublicKey fn].map (Move.event 0)

/-- One round of a machine to which nothing comes from outside (log 7): every step that may be due, the steps whose conditions do
not hold being without effect; then one array cycle. -/
def State.round (s : State) : List Move :=
  let ev := Move.event 0
  s.hif.funcs.flatMap (fun f => (f.2.posted.map fun _ => Move.hostPerform f.1 0) ++ functionMoves f.1) ++
    s.hif.replies.map (fun r => Move.reply r.1.fn) ++ s.ce.late.map (fun _ => Move.late 0) ++ s.hif.slots.map (fun x => ev (.slotLoadComplete x.1)) ++ s.hif.revs.map (fun r => ev (.revocationComplete r.1)) ++
    s.lfe.queues.map (fun q => ev (.recordRead q.1)) ++ (s.lfe.queues.filter fun q => q.2.busy).map (fun q => Move.scanEnd q.1) ++ [ev (.childPoolRefill 0), ev (.childPoolRefill 1)] ++
    s.lfe.packets.flatMap (fun p => packetMoves p.1) ++ (List.range s.lfe.signals.length).map (fun k => ev (.semaphoreSignal k)) ++
    s.ce.cmds.flatMap (fun c => cmdMoves s c.1 c.2) ++ (List.range s.ce.inbox.length).map (fun n => Move.retry n 0) ++ [ev (.rtePhase1Complete 0), ev (.rtePhase1Complete 1)] ++
    s.hif.vectors.map (fun v => ev (.interruptHoldOffExpiry (v.1 / 2048) (v.1 % 2048))) ++
    [0, 1, 2, 3, 4, 5, 6, 7].flatMap (siteMoves s) ++ s.cores.flatMap (fun c => coreMoves s c.1) ++
    (if s.lfe.packets.isEmpty then [] else ((List.range 96).flatMap fun c => [c, c + 96]).flatMap (askMoves s)) ++
    s.tasks.flatMap (fun t => taskMoves t.1 t.2) ++
    (if s.hif.fwState == .switching || s.cores.any (fun c => c.2.fwOld.isSome) then (List.range 192).map (fun c => ev (.firmwareIdlePointSwitch c)) else []) ++
    [ev (.dieWarmResetComplete 0), ev (.dieWarmResetComplete 1), .elapse 1]

/-- One move. The record that took health to storm where no other is written is that of the change itself (R384; DESIGN CHOICE,
log 49). -/
def State.move (s : State) : Move → Out
  | .issue t => s.issueTask t
  | .head t q hs => s.tryHead t q hs
  | .event subject i => s.runEvent subject i
  | .hostWrite fn a l => .next (s.hostWrite fn a l)
  | .hostPerform fn which => .next (s.hostPerform fn which)
  | .root asc table => .next (if 4095 < asc ∨ table.any (fun t => decide (2 ^ 48 ≤ t)) then s else { s with roots := put none s.roots asc table })
  | .firmware core pc => .next (s.loadF core pc)
  | .unanswered d => .next (if 1 < d then s else s.enterStorm 0x0C)
  | .sheetError site => .next (if 7 < site then s else s.enterStorm 0x0C)
  | .retry n which => .next (s.retryFlit n which)
  | .reply fn => .next (s.reply fn)
  | .late n => .next (s.performWaiting n)
  | .scanEnd q => .next (s.scanEnd q)
  | .elapse n => .next (s.elapse n)

/-! ### Placing one instruction -/

/-- The task that runs a placed instruction: a user task on context A of core 0 of die 0, at the 2,048th byte of slot 0's image. -/
def placedTask (packet : Nat) : Task :=
  { Task.empty with packet := packet, phase := .running, pc := windowBase 0 + 0x800 }

/-- Its packet: a record of zeros, so slot 0, dispatched, with one task. -/
def placedPacket : Packet := { Packet.empty with phase := .dispatched, tasks := 1 }

/-- Slot 0 as a load leaves it, with its image in the first page of memory. -/
def placedSlot : RSlot := { RSlot.empty with state := .resident, isize := 4096, image := [0], mapOk := true }

/-- The state with a task at an instruction of 12 bytes, next to issue (log 6). -/
def State.placed (s : State) (bytes : List Byte) : State :=
  let t := s.nextTask
  let p := s.lfe.nextPacket
  let c := s.core 0
  let s1 := ((s.setTask t (placedTask p)).setPacket p placedPacket).setRslot 0 placedSlot
  let s2 := s1.setCore 0 { c with icache := lineOf (windowBase 0 + 0x800) :: c.icache, ctxA := { c.ctxA with run := some t } }
  { s2.store (cellsAt 0x800 bytes) with
      nextTask := t + 1, lfe := { s2.lfe with nextPacket := p + 1 }, agenda := [.issue t] }

end Sys2Proof.Machine
end

