-- ==== Sys2Proof/Machine/Step.lean ====
section
/-! DEFINITION. One step of the machine, and the state with an instruction placed where the next step fetches it. -/

namespace Sys2Proof.Machine

/-- One step: the first move of the agenda; an empty agenda is filled with the next round (log 7). -/
def step (s : State) : Host.Outcome State Fault Refusal :=
  match s.agenda with
  | [] => .next { s with agenda := s.round }
  | m :: r => State.move { s with agenda := r } m

/-- The instruction whose bits the table numbers, placed where step fetches its next one (log 6). -/
def State.withFetchWord (s : State) (nbits w : Nat) : State := s.placed (bytesOf 12 (w % 2 ^ nbits))

end Sys2Proof.Machine
end

