-- ==== Sys2Proof/Safety.lean ====
section
/-! DEFINITION. What a run is, and what counts as a safe one. -/

namespace Sys2Proof.Machine

/-- The step goes on. -/
def Goes (o : Out) : Prop := ∃ t, o = .next t

/-- States that a run from reset reaches: by steps, and by what outside puts on the agenda between two steps (log 7). -/
inductive Reachable : State → Prop where
  | reset : Reachable State.reset
  | step (s t : State) : Reachable s → step s = .next t → Reachable t
  | input (s : State) (m : Move) : Reachable s → Reachable { s with agenda := m :: s.agenda }

/-- A safe run never stops: it has no fault and no refusal. -/
def SafeFrom (s : State) : Prop := ∀ n : Nat, ∃ t, Host.Core.run Sys2Proof.core n s = .next t

/-- Memory and its poison are in the one canonical form (R181, R417). -/
def State.memWf (s : State) : Prop := Memory.wf s.mem ∧ sortedFrom false 0 s.poison = true

end Sys2Proof.Machine
end

