-- ==== Sys2Proof/Certificates/Slice0/Obligations.lean ====
section
/-! DEFINITION. Statements for the provers. Each names the rule of spec/ that it formalises; the tables below say, for the
instructions of one shape, what the rules give each of them. -/

namespace Sys2Proof.Claims

open Sys2Proof Sys2Proof.Machine

/-! ### Shapes -/

/-- s with the context of the current task replaced: nothing else of the machine changes. -/
def upd (s : State) (k : Task) : State := { s with tasks := ins s.tasks s.cur k }

/-- k is the current task's context, and none of the registers awaits the data of a load (R154). -/
def Ready (s : State) (k : Task) (regs : List Reg) : Prop := find s.tasks s.cur = some k ∧ k.hazard regs = false

/-- The unit at the pc raises a cause, at address addr, with tdata (R347, R350). -/
def faults (s : State) (k : Task) (cause : Byte) (addr : Nat) (data : W64) : Out :=
  .next (s.take s.cur { cause := cause, addr := addr, data := data, src := 0, await := 0, pos := 0 } k.pc)

/-! ### Scalar instructions (07_control_slice.md R161 to R163, 08_memory_sites.md R210) -/

/-- An instruction that only computes: the register it writes, those it reads, its result, its length. -/
structure Scalar where
  d : Reg
  regs : List Reg
  value : Task → W64
  len : Nat

/-- Two sources (R161). -/
def src2 (d a b : Reg) (f : W64 → W64 → W64) : Scalar := { d := d, regs := [a, b], value := fun k => f (k.rx a) (k.rx b), len := 4 }

/-- One source (R162). -/
def src1 (d a : Reg) (f : W64 → W64) : Scalar := { d := d, regs := [a], value := fun k => f (k.rx a), len := 4 }

/-- The scalar instructions that only compute, with their results. -/
inductive IsScalar : Instr → Scalar → Prop
  | add (d a b : Reg) : IsScalar (.add d a b) (src2 d a b fun x y => x + y)
  | sub (d a b : Reg) : IsScalar (.sub d a b) (src2 d a b fun x y => x - y)
  | mul (d a b : Reg) : IsScalar (.mul d a b) (src2 d a b fun x y => x * y)
  | mulh (d a b : Reg) : IsScalar (.mulh d a b) (src2 d a b fun x y => BitVec.ofInt 64 (x.toInt * y.toInt / 2 ^ 64))
  | mulhu (d a b : Reg) : IsScalar (.mulhu d a b) (src2 d a b fun x y => BitVec.ofNat 64 (x.toNat * y.toNat / 2 ^ 64))
  | div (d a b : Reg) :
      IsScalar (.div d a b) (src2 d a b fun x y => if y = 0 then BitVec.ofInt 64 (-1) else BitVec.ofInt 64 (x.toInt.tdiv y.toInt))
  | divu (d a b : Reg) : IsScalar (.divu d a b) (src2 d a b fun x y => if y = 0 then BitVec.ofNat 64 (2 ^ 64 - 1) else x / y)
  | rem (d a b : Reg) : IsScalar (.rem d a b) (src2 d a b fun x y => if y = 0 then x else BitVec.ofInt 64 (x.toInt.tmod y.toInt))
  | remu (d a b : Reg) : IsScalar (.remu d a b) (src2 d a b fun x y => if y = 0 then x else x % y)
  | and (d a b : Reg) : IsScalar (.and d a b) (src2 d a b fun x y => x &&& y)
  | or (d a b : Reg) : IsScalar (.or d a b) (src2 d a b fun x y => x ||| y)
  | xor (d a b : Reg) : IsScalar (.xor d a b) (src2 d a b fun x y => x ^^^ y)
  | shl (d a b : Reg) : IsScalar (.shl d a b) (src2 d a b fun x y => x <<< (y.toNat % 64))
  | shr (d a b : Reg) : IsScalar (.shr d a b) (src2 d a b fun x y => x >>> (y.toNat % 64))
  | sar (d a b : Reg) : IsScalar (.sar d a b) (src2 d a b fun x y => x.sshiftRight (y.toNat % 64))
  | min (d a b : Reg) : IsScalar (.min d a b) (src2 d a b fun x y => BitVec.ofInt 64 (min x.toInt y.toInt))
  | max (d a b : Reg) : IsScalar (.max d a b) (src2 d a b fun x y => BitVec.ofInt 64 (max x.toInt y.toInt))
  | minu (d a b : Reg) : IsScalar (.minu d a b) (src2 d a b fun x y => BitVec.ofNat 64 (min x.toNat y.toNat))
  | maxu (d a b : Reg) : IsScalar (.maxu d a b) (src2 d a b fun x y => BitVec.ofNat 64 (max x.toNat y.toNat))
  | slt (d a b : Reg) : IsScalar (.slt d a b) (src2 d a b fun x y => if x.toInt < y.toInt then 1 else 0)
  | sltu (d a b : Reg) : IsScalar (.sltu d a b) (src2 d a b fun x y => if x < y then 1 else 0)
  | seq (d a b : Reg) : IsScalar (.seq d a b) (src2 d a b fun x y => if x = y then 1 else 0)
  | sel (d a b : Reg) :
      IsScalar (.sel d a b) ({ d := d, regs := [a, b], value := fun k => if k.rx d = 0 then k.rx b else k.rx a, len := 4 })
  | idx2 (d a b : Reg) :
      IsScalar (.idx2 d a b) (src2 d a b fun x y => BitVec.ofNat 64 (x.toNat / 2 ^ 32 * (y.toNat % 2 ^ 32) + x.toNat % 2 ^ 32))
  | idx3 (d a b : Reg) :
      IsScalar (.idx3 d a b) (src2 d a b fun x y => BitVec.ofNat 64 (x.toNat / 2 ^ 42 * (y.toNat / 2 ^ 32) + x.toNat / 2 ^ 21 % 2 ^ 21 * (y.toNat % 2 ^ 32) + x.toNat % 2 ^ 21))
  | bclamp (d a b : Reg) :
      IsScalar (.bclamp d a b) (src2 d a b fun x y => if y.toInt < 0 then 0 else BitVec.ofInt 64 (min (max x.toInt 0) y.toInt))
  | alignup (d a b : Reg) :
      IsScalar (.alignup d a b) (src2 d a b fun x y => (x + ((1 : W64) <<< (y.toNat % 64) - 1)) &&& ~~~((1 : W64) <<< (y.toNat % 64) - 1))
  | addi (d a : Reg) (n : BitVec 12) : IsScalar (.addi d a n) (src1 d a fun x => x + n.signExtend 64)
  | andi (d a : Reg) (n : BitVec 12) : IsScalar (.andi d a n) (src1 d a fun x => x &&& n.signExtend 64)
  | ori (d a : Reg) (n : BitVec 12) : IsScalar (.ori d a n) (src1 d a fun x => x ||| n.signExtend 64)
  | xori (d a : Reg) (n : BitVec 12) : IsScalar (.xori d a n) (src1 d a fun x => x ^^^ n.signExtend 64)
  | shli (d a : Reg) (n : BitVec 12) (h : n.toNat ≤ 63) : IsScalar (.shli d a n) (src1 d a fun x => x <<< n.toNat)
  | shri (d a : Reg) (n : BitVec 12) (h : n.toNat ≤ 63) : IsScalar (.shri d a n) (src1 d a fun x => x >>> n.toNat)
  | sari (d a : Reg) (n : BitVec 12) (h : n.toNat ≤ 63) : IsScalar (.sari d a n) (src1 d a fun x => x.sshiftRight n.toNat)
  | liShort (d : Reg) (n : BitVec 12) : IsScalar (.liShort d n) ({ d := d, regs := [], value := fun _ => n.signExtend 64, len := 4 })
  | li (d : Reg) (n : W32) : IsScalar (.li d n) ({ d := d, regs := [], value := fun _ => n.signExtend 64, len := 8 })
  | lih (d : Reg) (n : W32) : IsScalar (.lih d n) ({ d := d, regs := [], value := fun k => n ++ (k.rx d).setWidth 32, len := 8 })
  | hchk (d b : Reg) (h : BitVec 5) :
      IsScalar (.hchk d h b) ({ d := d, regs := [b], value := fun k => hchkOf (k.rh h) (k.rx b), len := 4 })
  | qdepth (d n : Reg) (h : n.toNat ≤ 13) :
      IsScalar (.qdepth d n) ({ d := d, regs := [], value := fun k => BitVec.ofNat 64 (depthOf k.qset n.toNat), len := 4 })

end Sys2Proof.Claims

open Sys2Proof Sys2Proof.Machine Sys2Proof.Claims

/-- Every scalar instruction that only computes writes its result into its destination, goes on behind itself, and changes nothing else of
the machine. For each of the 39 instructions of the table IsScalar: exec answers that next state whenever no register of it awaits a load.
-/
def Obligations.ScalarResults : Prop :=
  ∀ (i : Instr) (c : Scalar) (s : State) (k : Task), IsScalar i c → Ready s k (c.d :: c.regs) →
    exec i s = .next (upd s { k.wx c.d (c.value k) with pc := k.pc + c.len, waitQ := none })

/-- CLZ, CTZ and POPC count the bits of their source. -/
def Obligations.BitCounts : Prop :=
  ∀ (s : State) (k : Task) (d a : Reg), Ready s k [d, a] →
    (∃ n, exec (.clz d a) s = .next (upd s { k.wx d (BitVec.ofNat 64 n) with pc := k.pc + 4, waitQ := none }) ∧
      n ≤ 64 ∧ (k.rx a).toNat < 2 ^ (64 - n) ∧ (n < 64 → 2 ^ (63 - n) ≤ (k.rx a).toNat)) ∧
    (∃ n, exec (.ctz d a) s = .next (upd s { k.wx d (BitVec.ofNat 64 n) with pc := k.pc + 4, waitQ := none }) ∧
      n ≤ 64 ∧ (∀ j, j < n → (k.rx a).getLsbD j = false) ∧ (n < 64 → (k.rx a).getLsbD n = true)) ∧
    (∃ n, exec (.popc d a) s = .next (upd s { k.wx d (BitVec.ofNat 64 n) with pc := k.pc + 4, waitQ := none }) ∧
      n = ((List.range 64).filter fun j => (k.rx a).getLsbD j).length)

/-- x0 reads as zero and discards what is written to it; every other register holds what was written to it last. -/
def Obligations.RegisterFile : Prop :=
  ∀ (k : Task) (r q : Reg) (v : W64), (k.wx r v).rx q = if q = 0 then 0 else if q = r then v else k.rx q

namespace Sys2Proof.Claims

/-! ### Instructions that change the context alone -/

/-- Fetch goes on n bytes further. -/
def go (k : Task) (n : Nat) : Task := { k with pc := k.pc + n, waitQ := none }

/-- Entry e behind section sec of the context's CTQ. -/
def pushed (k : Task) (sec : Nat) (e : CtqEntry) : Task := k.setQset (k.qset.setCtq sec (k.qset.ctq sec ++ [e]))

/-- Section sec has room: 32 entries, 8 in a handler (R158, R351). -/
def hasRoom (k : Task) (sec : Reg) : Prop := sec.toNat ≤ 2 ∧ (k.qset.ctq sec.toNat).length < if k.inTrap then 8 else 32

/-- The instructions on the queues between the slice and the lanes (R158 to R160, R173 to R177, R266): the registers that must be
ready, the condition under which they execute, and the context afterwards. -/
inductive IsQueueOp : Instr → List Reg → (Task → Prop) → (Task → Task) → Prop
  | cqp (sel a : Reg) : IsQueueOp (.cqp sel a) [a] (fun k => hasRoom k sel)
      fun k => go (pushed k sel.toNat { kind := .scalar, val := k.rx a }) 4
  | cqpb (sel a : Reg) : IsQueueOp (.cqpb sel a) [a] (fun k => hasRoom k sel)
      fun k => go (pushed k sel.toNat { kind := .pred, val := if k.rx a = 0 then 0 else 1 }) 4
  | firstn (sel a b : Reg) (r0 : BitVec 5) (c0 : BitVec 10) : IsQueueOp (.cqpm sel a b 0 r0 c0) [a, b]
      (fun k => hasRoom k sel ∧ c0.toNat ≤ 511 ∧ (k.rx a).toNat ≤ 16384)
      fun k => go (pushed k sel.toNat
        { kind := .maskDesc, val := BitVec.ofNat 64 (r0.toNat * 2 ^ 57 + c0.toNat * 2 ^ 47 + (k.rx a).toNat) }) 8
  | rows (sel a b : Reg) (r0 : BitVec 5) (c0 : BitVec 10) : IsQueueOp (.cqpm sel a b 1 r0 c0) [a, b]
      (fun k => hasRoom k sel ∧ c0.toNat ≤ 511 ∧ (k.rx a).toNat ≤ 32)
      fun k => go (pushed k sel.toNat
        { kind := .maskDesc, val := BitVec.ofNat 64 (2 ^ 62 + r0.toNat * 2 ^ 57 + c0.toNat * 2 ^ 47 + (k.rx a).toNat * 2 ^ 41) }) 8
  | cols (sel a b : Reg) (r0 : BitVec 5) (c0 : BitVec 10) : IsQueueOp (.cqpm sel a b 2 r0 c0) [a, b]
      (fun k => hasRoom k sel ∧ c0.toNat ≤ 511 ∧ (k.rx a).toNat ≤ 512)
      fun k => go (pushed k sel.toNat
        { kind := .maskDesc, val := BitVec.ofNat 64 (2 ^ 63 + r0.toNat * 2 ^ 57 + c0.toNat * 2 ^ 47 + (k.rx a).toNat * 2 ^ 30) }) 8
  | rect (sel a b : Reg) (r0 : BitVec 5) (c0 : BitVec 10) : IsQueueOp (.cqpm sel a b 3 r0 c0) [a, b]
      (fun k => hasRoom k sel ∧ c0.toNat ≤ 511 ∧ (k.rx a).toNat ≤ 32 ∧ (k.rx b).toNat ≤ 512)
      fun k => go (pushed k sel.toNat
        { kind := .maskDesc, val := BitVec.ofNat 64 (2 ^ 63 + 2 ^ 62 + r0.toNat * 2 ^ 57 + c0.toNat * 2 ^ 47 + (k.rx a).toNat * 2 ^ 41 + (k.rx b).toNat * 2 ^ 30) }) 8
  | rqpop (d : Reg) (v : W64) (r : List W64) : IsQueueOp (.rqpop d) [d] (fun k => k.qset.rtq = v :: r)
      fun k => go ((k.setQset { k.qset with rtq := r }).wx d v) 4
  | npop (d : Reg) (v : Nat) (r : List Nat) : IsQueueOp (.npop d) [d] (fun k => k.qset.nrq = v :: r)
      fun k => go ((k.setQset { k.qset with nrq := r }).wx d (BitVec.ofNat 64 v)) 4
  | bnd (sel : Reg) (n : W32) : IsQueueOp (.bnd sel n) [] (fun _ => sel.toNat ≤ 2)
      fun k => go (k.setQset (k.qset.setRq sel.toNat { k.qset.rq sel.toNat with bound := n })) 8
  | bndAll (n : W32) : IsQueueOp (.bnd 3 n) [] (fun _ => True)
      fun k => go (k.setQset { k.qset with ldq := { k.qset.ldq with bound := n }, cmq := { k.qset.cmq with bound := n },
                                           stq := { k.qset.stq with bound := n } }) 8
  | fmtp (a : Reg) (desc : BitVec 10) : IsQueueOp (.fmtp a desc) [a] (fun k => formatBad desc = false ∧ k.fmtq.length < 16)
      fun k => go { k with fmtq := k.fmtq ++ [(desc, k.rx a)] } 8

/-- The instructions on the command builder, the markers and the system registers, and those that end or hold the slice (R27, R133,
R172, R209, R239, R323, R326, R327, R345, R369 to R372, R375). -/
inductive IsContextOp : Instr → List Reg → (State → Task → Prop) → (State → Task → Task) → Prop
  | nop : IsContextOp .nop [] (fun _ _ => True) fun _ k => go k 4
  | yield : IsContextOp .yield [] (fun _ _ => True) fun _ k => go { k with yieldLeft := 17 } 4
  | tend : IsContextOp .tend [] (fun _ k => k.fw = false ∧ k.inTrap = false ∧ k.ord.allDone = false)
      fun _ k => { k with phase := .ended, waitQ := none }
  | tendDone : IsContextOp .tend [] (fun _ k => k.fw = false ∧ k.inTrap = false ∧ k.ord.allDone = true ∧ k.ord.nrq = [])
      fun _ k => { k with phase := .ended, waitQ := none,
                          ord := { k.ord with ctqLd := [], ctqCm := [], ctqSt := [], tok := [], rtq := [], nrq := [] } }
  | hrel (hd : BitVec 5) : IsContextOp (.hrel hd) [] (fun _ _ => True)
      fun _ k => go { k with h := put Handle.invalid k.h hd.toNat { k.rh hd with v := false }, gone := k.leaving (k.rh hd) } 4
  | tstat (d a : Reg) : IsContextOp (.tstat d a) [d, a] (fun _ k => k.fw = false)
      fun s k => go (k.wx d (statWord s s.cur k (k.rx a).toNat)) 4
  | tstatP (d : Reg) : IsContextOp (.tstatP d) [d] (fun _ k => k.fw = false) fun s k => go (k.wx d (partWord s s.cur k)) 4
  | cbw (d a : Reg) : IsContextOp (.cbw d a) [a] (fun _ _ => d.toNat ≤ 15) fun _ k => go { k with cb := put 0 k.cb d.toNat (k.rx a) } 4
  | cbclr : IsContextOp .cbclr [] (fun _ _ => True) fun _ k => go { k with cb := [] } 4
  | cepop (d : Reg) (e : BitVec 4) (r : ResEntry) (l : List ResEntry) : IsContextOp (.cepop d e) [d]
      (fun _ k => get [] k.results e.toNat = r :: l)
      fun _ k => go ({ k with results := put [] k.results e.toNat l }.wx d r.word) 4
  | join : IsContextOp .join [] (fun s k => ((s.markersLeft s.cur k).any fun m => m.hs || !k.inTrap) = false)
      fun s k => go { k with markers := s.markersLeft s.cur k } 4
  | fenceM (q : BitVec 3) (e : W16) : IsContextOp (.fenceM q e) []
      (fun s k => (q ≠ 0 ∨ e ≠ 0) ∧ (s.markersLeft s.cur k).length < 8)
      fun s k => go { k with markers := s.markersLeft s.cur k ++
        [{ queues := ([0, 1, 2].filter fun n => q.getLsbD n).map fun n => (n, k.routed),
           engines := ((List.range 16).filter fun n => e.getLsbD n).map fun n => (n, get 0 k.seq n), hs := k.inTrap }] } 8
  | semrd (d : Reg) (n : BitVec 8) : IsContextOp (.semrd d n) [d] (fun s k => s.underReset (fileDie (s.fileOf k)) = false)
      fun s k => go (k.wx d ((s.sem (s.fileOf k) n.toNat).signExtend 64)) 4
  | semw (d a : Reg) (n : BitVec 8) : IsContextOp (.semw d a n) [d, a]
      (fun s k => s.underReset (fileDie (s.fileOf k)) = false ∧ (k.rx a).toInt ≤ 2 ^ 31 - 1 ∧
        0 ≤ (s.sem (s.fileOf k) n.toNat).toInt ∧ (s.sem (s.fileOf k) n.toNat).toInt ≤ (k.rx a).toInt)
      fun s k => go (k.wx d ((s.sem (s.fileOf k) n.toNat).signExtend 64)) 4
  | fflags (d : Reg) : IsContextOp (.srd d 0) [d] (fun _ k => k.ord.inFlight ++ k.hnd.inFlight = [])
      fun _ k => go (k.wx d (k.fflags.setWidth 64)) 4
  | srd (d : Reg) (n : BitVec 12) : IsContextOp (.srd d n) [d] (fun _ _ => n ≠ 0 ∧ n.toNat < 0x800 ∧ sysNamed n.toNat = true)
      fun s k => go (k.wx d (s.sysRead k n.toNat)) 4
  | swr (a : Reg) (n : BitVec 12) : IsContextOp (.swr a n) [a] (fun _ _ => sysWritable n.toNat = true)
      fun _ k => go (k.sysWrite n.toNat (k.rx a)) 4

/-! ### Forms that raise a cause at decode or at issue (R57, R346) -/

/-- A form, the condition on the context under which it raises, the cause, the faulting word and tdata (R371). -/
inductive Raises : Instr → (State → Task → Prop) → Byte → (Task → Nat) → (State → Task → W64) → Prop
  | trap (n : BitVec 12) : Raises (.trap n) (fun _ k => k.hazard [] = false) 0x05 Task.pc fun _ _ => n.setWidth 64
  | opcode (d : BitVec 4) : Raises (.illegalEncoding .opcode d) (fun _ _ => True) 0x01 (fun k => k.pc + d.toNat) fun _ _ => 0
  | reserved (d : BitVec 4) : Raises (.illegalEncoding .reserved d) (fun _ _ => True) 0x01 (fun k => k.pc + d.toNat) fun _ _ => 0
  | misaligned (d : BitVec 4) : Raises (.illegalEncoding .misaligned d) (fun _ _ => True) 0x01 (fun k => k.pc + d.toNat) fun _ _ => 0
  | operand (d : BitVec 4) : Raises (.illegalEncoding .operand d) (fun _ _ => True) 0x03 (fun k => k.pc + d.toNat) fun _ _ => 0
  | orphan : Raises .orphanPrefix (fun _ _ => True) 0x02 Task.pc fun _ _ => 0
  | shli (d a : Reg) (n : BitVec 12) : Raises (.shli d a n) (fun _ _ => 63 < n.toNat) 0x03 Task.pc fun _ _ => 0
  | shri (d a : Reg) (n : BitVec 12) : Raises (.shri d a n) (fun _ _ => 63 < n.toNat) 0x03 Task.pc fun _ _ => 0
  | sari (d a : Reg) (n : BitVec 12) : Raises (.sari d a n) (fun _ _ => 63 < n.toNat) 0x03 Task.pc fun _ _ => 0
  | qdepth (d n : Reg) : Raises (.qdepth d n) (fun _ _ => 13 < n.toNat) 0x03 Task.pc fun _ _ => 0
  | pbr (bd : Reg) (n : W32) : Raises (.pbr bd n) (fun _ _ => 7 < bd.toNat ∨ n.toNat % 4 ≠ 0) 0x03 Task.pc fun _ _ => 0
  | brt (bd : Reg) : Raises (.brt bd) (fun _ _ => 7 < bd.toNat) 0x03 Task.pc fun _ _ => 0
  | brtNz (bd a : Reg) : Raises (.brtNz bd a) (fun _ _ => 7 < bd.toNat) 0x03 Task.pc fun _ _ => 0
  | brtZ (bd a : Reg) : Raises (.brtZ bd a) (fun _ _ => 7 < bd.toNat) 0x03 Task.pc fun _ _ => 0
  | ret : Raises .ret (fun _ k => k.hazard [63] = false ∧ (k.rx 63).toNat % 4 ≠ 0) 0x03 Task.pc fun _ _ => 0
  | loop (n b : Reg) (d : BitVec 12) : Raises (.loop n b d) (fun _ _ => 3 < n.toNat) 0x03 Task.pc fun _ _ => 0
  | endl (n : Reg) (d : BitVec 12) : Raises (.endl n d) (fun _ _ => 3 < n.toNat) 0x03 Task.pc fun _ _ => 0
  | tend : Raises .tend (fun _ k => k.fw = true ∨ k.inTrap = true) 0x03 Task.pc fun _ _ => 0
  | eret : Raises .eret (fun _ k => k.hazard [] = false ∧ k.inTrap = false) 0x03 Task.pc fun _ _ => 0
  | cqp (sel a : Reg) : Raises (.cqp sel a) (fun _ _ => 2 < sel.toNat) 0x03 Task.pc fun _ _ => 0
  | cqpb (sel a : Reg) : Raises (.cqpb sel a) (fun _ _ => 2 < sel.toNat) 0x03 Task.pc fun _ _ => 0
  | cqpm (sel a b : Reg) (kd : BitVec 2) (r0 : BitVec 5) (c0 : BitVec 10) :
      Raises (.cqpm sel a b kd r0 c0) (fun _ _ => 2 < sel.toNat) 0x03 Task.pc fun _ _ => 0
  | bnd (sel : Reg) (n : W32) : Raises (.bnd sel n) (fun _ _ => 3 < sel.toNat) 0x03 Task.pc fun _ _ => 0
  | rqpop (d : Reg) : Raises (.rqpop d) (fun _ k => k.hazard [d] = false ∧ k.qset.rtq = [] ∧ k.qset.cmq.entries = [] ∧
      k.qset.cmq.issued = []) 0x1C Task.pc fun _ _ => 0
  | npop (d : Reg) : Raises (.npop d) (fun _ k => k.hazard [d] = false ∧ k.qset.nrq = [] ∧ k.qset.names = [] ∧
      k.qset.stq.entries = [] ∧ k.qset.stq.issued = []) 0x1C Task.pc fun _ _ => 0
  | cqpFull (sel a : Reg) : Raises (.cqp sel a) (fun _ k => sel.toNat ≤ 2 ∧ k.hazard [a] = false ∧
      (if k.inTrap then 8 else 32) ≤ (k.qset.ctq sel.toNat).length ∧ (k.qset.rq sel.toNat).entries = []) 0x1C Task.pc fun _ _ => 0
  | fmtp (a : Reg) (desc : BitVec 10) : Raises (.fmtp a desc) (fun _ _ => formatBad desc = true) 0x03 Task.pc fun _ _ => 0
  | fmtpFull (a : Reg) (desc : BitVec 10) : Raises (.fmtp a desc) (fun _ k => formatBad desc = false ∧ k.hazard [a] = false ∧
      16 ≤ k.fmtq.length ∧ (k.ord.cmq.entries.any Entry.isMma) = false) 0x19 Task.pc fun _ _ => 0
  | cbw (d a : Reg) : Raises (.cbw d a) (fun _ _ => 15 < d.toNat) 0x03 Task.pc fun _ _ => 0
  | fenceM : Raises (.fenceM 0 0) (fun _ _ => True) 0x03 Task.pc fun _ _ => 0
  | fenceC (sc : BitVec 3) (m : W16) : Raises (.fenceC sc m) (fun _ _ => 4 < sc.toNat ∨ m = 0) 0x03 Task.pc fun _ _ => 0
  | srdNone (d : Reg) (n : BitVec 12) : Raises (.srd d n) (fun _ _ => n.toNat < 0x800 ∧ sysNamed n.toNat = false) 0x03 Task.pc
      fun _ _ => 0
  | srdHigh (d : Reg) (n : BitVec 12) : Raises (.srd d n) (fun _ k => 0x800 ≤ n.toNat ∧ k.fw = false) 0x04 Task.pc fun _ _ => 0
  | swrHigh (a : Reg) (n : BitVec 12) : Raises (.swr a n) (fun _ k => 0x800 ≤ n.toNat ∧ k.fw = false) 0x04 Task.pc fun _ _ => 0
  | swrRo (a : Reg) (n : BitVec 12) : Raises (.swr a n) (fun _ _ => n.toNat < 0x800 ∧ sysNamed n.toNat = true ∧
      sysWritable n.toNat = false) 0x04 Task.pc fun _ _ => 0
  | tstat (d a : Reg) : Raises (.tstat d a) (fun _ k => k.fw = true) 0x03 Task.pc fun _ _ => 0
  | tsettle (d a b : Reg) : Raises (.tsettle d a b) (fun _ k => k.fw = true) 0x03 Task.pc fun _ _ => 0
  | xlt (h : BitVec 5) (a b : Reg) : Raises (.xlt h a b) (fun _ k => k.hazard [a, b] = false ∧ 2 ^ 52 ≤ (k.rx a).toNat) 0x0B Task.pc
      fun _ _ => 0
  | xltn (h : BitVec 5) (a : Reg) : Raises (.xltn h a) (fun s k => k.hazard [a] = false ∧ s.handing (nameSite (k.rx a).toNat) = false ∧
      s.blockOf (s.ascOf k) (k.rx a).toNat = none) 0x0D Task.pc fun _ k => k.rx a
  | nrel (a : Reg) : Raises (.nrel a) (fun s k => k.hazard [a] = false ∧ s.blockOf (s.ascOf k) (k.rx a).toNat = none) 0x0D Task.pc
      fun _ k => k.rx a
  | shand (a b : Reg) : Raises (.shand a b) (fun _ k => k.hazard [a, b] = false ∧ (7 < (k.rx a).toNat ∨ 2 ^ 20 ≤ (k.rx b).toNat)) 0x03
      Task.pc fun _ _ => 0
  | shandRight (a b : Reg) : Raises (.shand a b) (fun s k => k.hazard [a, b] = false ∧ (k.rx a).toNat ≤ 7 ∧ (k.rx b).toNat < 2 ^ 20 ∧
      ((s.site (k.rx a).toNat).rights.contains (s.ascOf k)) = false) 0x04 Task.pc fun _ _ => 0
  | semw (d a : Reg) (n : BitVec 8) : Raises (.semw d a n) (fun _ k => k.hazard [d, a] = false ∧
      ((k.rx a).toInt < 0 ∨ 2 ^ 31 - 1 < (k.rx a).toInt)) 0x03 Task.pc fun _ _ => 0
  | semwAbort (d a : Reg) (n : BitVec 8) : Raises (.semw d a n) (fun s k => k.hazard [d, a] = false ∧ 0 ≤ (k.rx a).toInt ∧
      (k.rx a).toInt ≤ 2 ^ 31 - 1 ∧ s.underReset (fileDie (s.fileOf k)) = false ∧ (s.sem (s.fileOf k) n.toNat).toInt < 0) 0x48 Task.pc
      fun _ _ => n.setWidth 64
  | cepop (d : Reg) (e : BitVec 4) : Raises (.cepop d e) (fun s k => k.hazard [d] = false ∧ get [] k.results e.toNat = [] ∧
      ((s.streamOf s.cur e.toNat).any fun c => !c.nr) = false) 0x1C Task.pc fun _ _ => 0

/-! ### Control transfer (R45, R153, R166 to R171) -/

/-- A transfer: the registers that must be ready, the limit of its fields, what it writes first, whether it is taken, and where to. -/
structure Transfer where
  regs : List Reg := []
  ok : Task → Prop := fun _ => True
  first : Task → Task := id
  taken : Task → Prop := fun _ => True
  target : Task → Nat

/-- Target of a displacement in words from the instruction's own address (R26). -/
def away (k : Task) (d : Int) : Nat := (((k.pc : Int) + 4 * d) % 2 ^ 64).toNat

inductive IsTransfer : Instr → Transfer → Prop
  | br (d : BitVec 24) : IsTransfer (.br d) { target := fun k => away k d.toInt }
  | call (d : BitVec 24) : IsTransfer (.call d)
      { regs := [63], first := fun k => k.wx 63 (BitVec.ofNat 64 (k.pc + 4)), target := fun k => away k d.toInt }
  | beq (a b : Reg) (d : BitVec 12) : IsTransfer (.beq a b d)
      { regs := [a, b], taken := fun k => k.rx a = k.rx b, target := fun k => away k d.toInt }
  | bne (a b : Reg) (d : BitVec 12) : IsTransfer (.bne a b d)
      { regs := [a, b], taken := fun k => k.rx a ≠ k.rx b, target := fun k => away k d.toInt }
  | blt (a b : Reg) (d : BitVec 12) : IsTransfer (.blt a b d)
      { regs := [a, b], taken := fun k => (k.rx a).toInt < (k.rx b).toInt, target := fun k => away k d.toInt }
  | bge (a b : Reg) (d : BitVec 12) : IsTransfer (.bge a b d)
      { regs := [a, b], taken := fun k => (k.rx b).toInt ≤ (k.rx a).toInt, target := fun k => away k d.toInt }
  | bltu (a b : Reg) (d : BitVec 12) : IsTransfer (.bltu a b d)
      { regs := [a, b], taken := fun k => (k.rx a).toNat < (k.rx b).toNat, target := fun k => away k d.toInt }
  | bgeu (a b : Reg) (d : BitVec 12) : IsTransfer (.bgeu a b d)
      { regs := [a, b], taken := fun k => (k.rx b).toNat ≤ (k.rx a).toNat, target := fun k => away k d.toInt }
  | brt (bd : Reg) : IsTransfer (.brt bd) { ok := fun _ => bd.toNat ≤ 7, target := fun k => (get 0 k.b bd.toNat).toNat }
  | brtNz (bd a : Reg) : IsTransfer (.brtNz bd a)
      { regs := [a], ok := fun _ => bd.toNat ≤ 7, taken := fun k => k.rx a ≠ 0, target := fun k => (get 0 k.b bd.toNat).toNat }
  | brtZ (bd a : Reg) : IsTransfer (.brtZ bd a)
      { regs := [a], ok := fun _ => bd.toNat ≤ 7, taken := fun k => k.rx a = 0, target := fun k => (get 0 k.b bd.toNat).toNat }
  | ret : IsTransfer .ret { regs := [63], ok := fun k => (k.rx 63).toNat % 4 = 0, target := fun k => (k.rx 63).toNat }
  | loop (n b : Reg) (d : BitVec 12) : IsTransfer (.loop n b d)
      { regs := [b], ok := fun _ => n.toNat ≤ 3, first := fun k => { k with lc := put 0 k.lc n.toNat (k.rx b) },
        taken := fun k => k.rx b = 0, target := fun k => away k (d.toInt + 1) }
  | endl (n : Reg) (d : BitVec 12) : IsTransfer (.endl n d)
      { ok := fun _ => n.toNat ≤ 3, taken := fun k => 1 < (get 0 k.lc n.toNat).toNat,
        first := fun k => { k with lc := put 0 k.lc n.toNat (if 1 < (get 0 k.lc n.toNat).toNat then get 0 k.lc n.toNat - 1 else 0) },
        target := fun k => away k d.toInt }

end Sys2Proof.Claims

open Sys2Proof Sys2Proof.Machine Sys2Proof.Claims

/-- The instructions on the CTQ, the RTQ, the NRQ, the format queue and the stall bounds have their effect, and nothing else changes. The
limit of 511 on CQPM's first column is log 19. -/
def Obligations.QueueInstructions : Prop :=
  ∀ (i : Instr) (rs : List Reg) (P : Task → Prop) (f : Task → Task) (s : State) (k : Task),
    IsQueueOp i rs P f → Ready s k rs → P k → exec i s = .next (upd s (f k))

/-- The system registers that SRD reads, and what each holds (R66, R98, R271, R369, R370). -/
inductive Sys2Proof.Claims.SysReads : Nat → (State → Task → Nat) → Prop
  | rsrseed : SysReads 0x001 fun _ k => k.rsrseed.toNat
  | mmstate : SysReads 0x002 fun _ k => match k.mma with
      | some m => if m.stopped then 1 + 2 * (m.acc % 8) + 16 * (m.next % 32) else 0
      | none => 0
  | fabno : SysReads 0x003 fun s _ => s.fabno.toNat
  | cycle : SysReads 0x004 fun _ k => k.cycle % 2 ^ 64
  | time : SysReads 0x005 fun s _ => s.time % 2 ^ 64
  | ctxid : SysReads 0x006 fun s k => k.ctx % 2 + 2 ^ 8 * (k.core % 128) + 2 ^ 16 * (k.die % 2) + 2 ^ 26 * ((s.packet k.packet).func % 64) +
      2 ^ 32 * ((s.packet k.packet).asc % 4096)
  | tvec : SysReads 0x008 fun _ k => k.tvec.toNat
  | tpc : SysReads 0x009 fun _ k => k.tpc.toNat
  | tcause : SysReads 0x00A fun _ k => k.tcause.toNat
  | taddr : SysReads 0x00B fun _ k => k.taddr.toNat
  | tinfo : SysReads 0x00C fun _ k => k.tinfo.toNat
  | tdata : SysReads 0x00D fun _ k => k.tdata.toNat
  | tstat : SysReads 0x00E fun _ k => (if k.inTrap then 1 else 0) + if [k.ord, k.hnd].any (fun q => [q.ldq, q.cmq, q.stq].any fun r =>
      r.fault.isSome || !r.late.isEmpty) then 2 else 0
  | p (n : Nat) (h : n < 16) : SysReads (0x010 + n) fun _ k => (get 0 k.p n).toNat
  | i (n : Nat) (h : n < 4) : SysReads (0x020 + n) fun _ k => (get 0 k.i n).toNat
  | tsave (n : Nat) (h : n < 4) : SysReads (0x030 + n) fun _ k => (get 0 k.tsave n).toNat

/-- The system registers that SWR writes; the bits that a register does not have stay (R76, R369, R371). -/
inductive Sys2Proof.Claims.SysWrites : Nat → (Task → W64 → Task) → Prop
  | fflags : SysWrites 0x000 fun k v => { k with fflags := BitVec.ofNat 6 v.toNat }
  | rsrseed : SysWrites 0x001 fun k v => { k with rsrseed := v }
  | tvec : SysWrites 0x008 fun k v => { k with tvec := BitVec.ofNat 64 (8 * (v.toNat / 8)) }
  | tpc : SysWrites 0x009 fun k v => { k with tpc := BitVec.ofNat 64 (4 * (v.toNat / 4)) }
  | tinfo : SysWrites 0x00C fun k v => { k with tinfo := BitVec.ofNat 64 (2 * (k.tinfo.toNat / 2) + v.toNat % 2) }
  | tsave (n : Nat) (h : n < 4) : SysWrites (0x030 + n) fun k v => { k with tsave := put 0 k.tsave n v }

/-- What the system registers hold, and what a write leaves in them. -/
def Sys2Proof.Claims.SystemRegisters : Prop :=
  (∀ (n : Nat) (g : State → Task → Nat) (s : State) (k : Task), SysReads n g → (s.sysRead k n).toNat = g s k) ∧
  ∀ (n : Nat) (g : Task → W64 → Task) (k : Task) (v : W64), SysWrites n g → k.sysWrite n v = g k v

/-- The word of TSTAT, field by field: 0 beyond the partition; the generation of the physical slot; the state; of a tile its shares, and of
the context's windows whether one has the slot (R239). -/
def Sys2Proof.Claims.SlotWord : Prop :=
  ∀ (s : State) (k : Task) (n : Nat),
    let w := (statWord s s.cur k n).toNat
    (k.partSize ≤ n → w = 0) ∧
    (n < k.partSize → w < 2 ^ 52 ∧ w / 2 ^ 42 % 2 ^ 8 = (s.tslot k.coreKey (k.partBase + n)).gen % 2 ^ 8 ∧
      (w / 2 ^ 50 % 2 = 1 ↔ ∃ m x, (m, some x) ∈ k.win ∧ x.first ≤ n ∧ n < x.first + x.size) ∧
      ((s.view s.cur k n = .empty ∨ s.view s.cur k n = .other) → w % 2 ^ 42 = 0 ∧ w / 2 ^ 51 = 0) ∧
      (s.view s.cur k n = .saved → w / 2 ^ 39 % 8 = 4) ∧
      ∀ x, s.view s.cur k n = .tile x → w % 2 ^ 12 = shareSum x.shares % 2 ^ 12 ∧ w / 2 ^ 12 % 2 ^ 12 = x.declared % 2 ^ 12 ∧
        w / 2 ^ 24 % 2 ^ 12 = shareOf x.shares s.cur % 2 ^ 12 ∧ w / 2 ^ 36 % 2 ^ 3 = x.shares.length % 2 ^ 3 ∧
        (x.state = .filling → w / 2 ^ 39 % 8 = 1) ∧ (x.state = .live → w / 2 ^ 39 % 8 = 2) ∧
        (w / 2 ^ 51 % 2 = 1 ↔ ∃ p ∈ x.shares, p.1 ≠ s.cur))

/-- The word of TSTAT.p, field by field (R239). -/
def Sys2Proof.Claims.PartitionWord : Prop :=
  ∀ (s : State) (k : Task),
    let w := (partWord s s.cur k).toNat
    w < 2 ^ 23 ∧ w / 2 ^ 22 % 2 = k.ctx % 2 ∧ w / 2 ^ 20 % 4 = k.core % 4 ∧
    (∀ n, n < 4 → (w / 2 ^ (16 + n) % 2 = 1 ↔ (k.window n).isSome = true)) ∧ w / 2 ^ 15 % 2 = 0 ∧
    (∀ c, c ≤ 4 → k.partSize = 4 * 2 ^ c → w % 2 ^ 8 = c ∧ w / 2 ^ 8 % 2 ^ 7 = (((List.range k.partSize).filter fun n =>
      match s.view s.cur k n with | .empty | .other => true | _ => false).length) % 2 ^ 7)

/-- The instructions on the builder, the markers, the system registers and the slice itself have their effect on the context, and
nothing else changes. -/
def Sys2Proof.Claims.ContextEffects : Prop :=
  ∀ (i : Instr) (rs : List Reg) (P : State → Task → Prop) (f : State → Task → Task) (s : State) (k : Task),
    IsContextOp i rs P f → Ready s k rs → P s k → exec i s = .next (upd s (f s k))

/-- The instructions on the builder, the markers, the system registers and the slice itself, and the values of the registers and of the words
that they read. -/
def Obligations.ContextInstructions : Prop := ContextEffects ∧ SystemRegisters ∧ SlotWord ∧ PartitionWord

/-- The forms that raise a cause raise it: TRAP, undecodable units, illegal operands, privilege, and queues that cannot serve. That the
faulting word of an orphan prefix is the prefix is the model's choice (log 49, R46). -/
def Obligations.RaisingForms : Prop :=
  ∀ (i : Instr) (P : State → Task → Prop) (c : Byte) (a : Task → Nat) (d : State → Task → W64) (s : State) (k : Task),
    Raises i P c a d → find s.tasks s.cur = some k → P s k → exec i s = faults s k c (a k) (d s k)

/-- Fetch may land at a: the word before it is neither the first of a 64-bit instruction nor a prefix that binds there (R45). -/
def Sys2Proof.Claims.MayLand (s : State) (k : Task) (a : Nat) : Prop :=
  ∀ w, s.fetch k (a - 4) = some w →
    ¬(a % 8 = 4 ∧ w % 4 = 1) ∧ (w % 4 = 2 → a % 8 = 0 ∧ ∃ v, s.fetch k (a - 8) = some v ∧ v % 4 = 1)

/-- A transfer that is taken to a word of the image where fetch may land sets the pc to it; one that is not taken goes on. -/
def Sys2Proof.Claims.JumpsAndBranches : Prop :=
  ∀ (i : Instr) (x : Transfer) (s : State) (k : Task), IsTransfer i x → Ready s k x.regs → x.ok k →
    (x.taken k → (s.fetch k (x.target k)).isSome → MayLand s k (x.target k) →
      exec i s = .next (upd s { x.first k with pc := x.target k, waitQ := none })) ∧
    (¬x.taken k → exec i s = .next (upd s (go (x.first k) 4)))

/-- A transfer that is taken where fetch may not land has completed, with what it writes, and its target raises the cause: outside
the image 0x0A at the target, at a misplaced 64-bit word 0x01 and behind a prefix 0x02 at the word before it. -/
def Sys2Proof.Claims.Landings : Prop :=
  ∀ (i : Instr) (x : Transfer) (s : State) (k : Task), IsTransfer i x → Ready s k x.regs → x.ok k → x.taken k →
    (s.fetch k (x.target k) = none → exec i s =
      faults (upd s { x.first k with pc := x.target k, waitQ := none }) { k with pc := x.target k } 0x0A (x.target k) 0) ∧
    (∀ w, (s.fetch k (x.target k)).isSome → x.target k % 8 = 4 → s.fetch k (x.target k - 4) = some w → w % 4 = 1 → exec i s =
      faults (upd s { x.first k with pc := x.target k, waitQ := none }) { k with pc := x.target k } 0x01 (x.target k - 4) 0) ∧
    (∀ w, (s.fetch k (x.target k)).isSome → s.fetch k (x.target k - 4) = some w → w % 4 = 2 →
      (x.target k % 8 = 0 → ∀ v, s.fetch k (x.target k - 8) = some v → v % 4 ≠ 1) → exec i s =
      faults (upd s { x.first k with pc := x.target k, waitQ := none }) { k with pc := x.target k } 0x02 (x.target k - 4) 0)

/-- PBR leaves its own address plus a byte displacement in its b register and goes on; only the instruction cache, and the sampling at the
site that the line is fetched from, may change beside. -/
def Sys2Proof.Claims.PrepareBranch : Prop :=
  ∀ (s : State) (k : Task) (bd : Reg) (n : W32), Ready s k [] → bd.toNat ≤ 7 → n.toNat % 4 = 0 →
    ∃ t, exec (.pbr bd n) s = .next t ∧
      t = { s with cores := t.cores, site0 := t.site0, site1 := t.site1, site2 := t.site2, site3 := t.site3, site4 := t.site4,
                   site5 := t.site5, site6 := t.site6, site7 := t.site7,
                   tasks := ins s.tasks s.cur (go { k with b := put 0 k.b bd.toNat (BitVec.ofInt 64 ((k.pc : Int) + n.toInt)) } 8) } ∧
      (∀ c, { t.core c with icache := (s.core c).icache } = s.core c) ∧
      ∀ n, { t.site n with sampled := (s.site n).sampled, shadow := (s.site n).shadow } = s.site n

/-- The transfers of control of the slice: where fetch goes on, what is linked or counted, where fetch may not land, and the prepared
target of PBR. A target without a word of the image raises 0x0A there; one inside a 64-bit word 0x01, and one behind a prefix 0x02, at the
word before it. That a target without a word of the image raises 0x0A whatever the word before it is, is the model's choice (log 49, R45).
-/
def Obligations.Transfers : Prop := JumpsAndBranches ∧ Landings ∧ PrepareBranch

namespace Sys2Proof.Claims

/-! ### Scalar memory (R164, R165) -/

/-- A scalar load: fields, bytes, and whether the value is sign-extended. -/
inductive IsLoad : Instr → SM → Nat → Bool → Prop
  | ldb (f : SM) : IsLoad (.ldb f) f 1 false
  | ldbs (f : SM) : IsLoad (.ldbs f) f 1 true
  | ldh (f : SM) : IsLoad (.ldh f) f 2 false
  | ldhs (f : SM) : IsLoad (.ldhs f) f 2 true
  | ldw (f : SM) : IsLoad (.ldw f) f 4 false
  | ldws (f : SM) : IsLoad (.ldws f) f 4 true
  | ldd (f : SM) : IsLoad (.ldd f) f 8 false

/-- A scalar store: fields and bytes. -/
inductive IsStore : Instr → SM → Nat → Prop
  | stb (f : SM) : IsStore (.stb f) f 1
  | sth (f : SM) : IsStore (.sth f) f 2
  | stw (f : SM) : IsStore (.stw f) f 4
  | std (f : SM) : IsStore (.std f) f 8

/-- Offset of a scalar access from the base of its handle, exact. -/
def offset (k : Task) (f : SM) : Int := (k.rx f.xo).toInt + f.imm.toInt

/-- Its physical address. -/
def physical (k : Task) (f : SM) : Nat := ((k.rh f.h).base + offset k f).toNat

/-- The three checks of an access of n bytes, in their order. -/
def passes (k : Task) (f : SM) (n : Nat) (perm : Handle → Bool) : Prop :=
  (k.rh f.h).v = true ∧ 0 ≤ offset k f ∧ offset k f + n ≤ (k.rh f.h).size ∧ perm (k.rh f.h) = true

/-- The class of an access: that of a PXO prefix, or the field (R42). -/
def classOfSM (f : SM) : Nat := match f.pfx with | some c => c.toNat | none => f.cls.toNat

def lengthOfSM (f : SM) : Nat := match f.pfx with | some _ => 12 | none => 8

/-- What an access may change beside the context: the hotness of its TLB entry and the sampling at its site (R186). Of a core only
the TLB, of a site only the sampling and the shadow table. -/
def warmed (s t : State) : Prop :=
  t = { s with tasks := t.tasks, cores := t.cores, site0 := t.site0, site1 := t.site1, site2 := t.site2, site3 := t.site3,
               site4 := t.site4, site5 := t.site5, site6 := t.site6, site7 := t.site7 } ∧
  (∀ c, { t.core c with tlb := (s.core c).tlb } = s.core c) ∧
  ∀ n, { t.site n with sampled := (s.site n).sampled, shadow := (s.site n).shadow } = s.site n

/-- t is s, but that accesses have arrived at sites: their sampling and shadow tables may differ (R186). -/
def sampled (s t : State) : Prop :=
  t = { s with site0 := t.site0, site1 := t.site1, site2 := t.site2, site3 := t.site3, site4 := t.site4, site5 := t.site5,
               site6 := t.site6, site7 := t.site7 } ∧
  ∀ n, { t.site n with sampled := (s.site n).sampled, shadow := (s.site n).shadow } = s.site n

/-- The byte that a list of writes, performed in order, leaves at an address, if it writes there. -/
def lastByte (cells : List (Nat × Byte)) (x : Nat) : Option Byte :=
  cells.foldl (fun v c => if c.1 = x then some c.2 else v) none

end Sys2Proof.Claims

open Sys2Proof Sys2Proof.Machine Sys2Proof.Claims

/-- A scalar load whose handle and range pass goes behind the accesses of the slice stream; fetch goes on. -/
def Sys2Proof.Claims.LoadIssues : Prop :=
  ∀ (i : Instr) (f : SM) (n : Nat) (sg : Bool) (s : State) (k : Task), IsLoad i f n sg → Ready s k [f.xo, f.x] →
    (k.slice.filter isLoad).length < 8 → passes k f n Handle.r → isDevReg (k.rh f.h).base = false →
    ∃ t, exec i s = .next t ∧ warmed s t ∧
      t.tasks = ins s.tasks s.cur
        (go { k with slice := k.slice ++ [.load f.x (physical k f) n sg (classOfSM f) k.pc []] } (lengthOfSM f))

/-- A scalar store puts the low bytes of its register behind the accesses of the slice stream, the least significant at the lowest
address; memory changes when the access is performed, not before. -/
def Sys2Proof.Claims.StoreIssues : Prop :=
  ∀ (i : Instr) (f : SM) (n : Nat) (s : State) (k : Task), IsStore i f n → Ready s k [f.xo, f.x] →
    (k.slice.filter isWrite).length < 16 → passes k f n Handle.w → isDevReg (k.rh f.h).base = false →
    (k.fw = true ∨ s.readOnly (physical k f) n = false) →
    ∃ t, exec i s = .next t ∧ warmed s t ∧ (∀ x, t.byte x = s.byte x) ∧
      t.tasks = ins s.tasks s.cur (go { k with wid := k.wid + 1, slice := k.slice ++ [.write
        ((List.range n).map fun j => (physical k f + j, BitVec.ofNat 8 ((k.rx f.x).toNat / 2 ^ (8 * j))))
        (classOfSM f) k.wid (if physical k f % n = 0 then 0 else 1)] } (lengthOfSM f))

/-- The accesses of the slice issue in program order: a load with its handle's bytes and its register, a store with the bytes of its
register. That a page of an image or a read-only slot region takes no store through any mapping is log 47. -/
def Obligations.ScalarAccesses : Prop := LoadIssues ∧ StoreIssues

/-- The checks of a scalar access, in their order: handle valid 0x08, range 0x09, permission 0x0A, at the instruction, with the
offset in tdata. -/
def Sys2Proof.Claims.ScalarAccessFaults : Prop :=
  ∀ (i : Instr) (f : SM) (n : Nat) (s : State) (k : Task), Ready s k [f.xo, f.x] →
    ((∃ sg, IsLoad i f n sg) ∧ (k.slice.filter isLoad).length < 8 ∨ IsStore i f n ∧ (k.slice.filter isWrite).length < 16) →
    ((k.rh f.h).v = false → exec i s = faults s k 0x08 k.pc (BitVec.ofInt 64 (offset k f))) ∧
    ((k.rh f.h).v = true → (offset k f < 0 ∨ (k.rh f.h).size < offset k f + n) →
      exec i s = faults s k 0x09 k.pc (BitVec.ofInt 64 (offset k f))) ∧
    ((k.rh f.h).v = true → 0 ≤ offset k f → offset k f + n ≤ (k.rh f.h).size →
      (∀ sg, IsLoad i f n sg → (k.rh f.h).r = false) →
      (IsStore i f n → (k.rh f.h).w = false ∨
        (k.fw = false ∧ isDevReg (k.rh f.h).base = false ∧ s.readOnly (physical k f) n = true)) →
      exec i s = faults s k 0x0A k.pc (BitVec.ofInt 64 (offset k f)))

/-- The byte that a load at the front of its stream has at address x: read before, where it is not single-copy atomic, or in memory;
and whether it is poisoned. -/
def Sys2Proof.Claims.loaded (s : State) (seen : List (Nat × Byte × Bool)) (x : Nat) : Byte × Bool :=
  match seen.find? fun b => b.1 == x with
  | some b => b.2
  | none => (s.byte x, s.bad x)

namespace Sys2Proof.Claims

/-- The instructions of the slice, where nothing but their registers keeps them back: the registers that each reads or writes (R154). -/
inductive Uses (s : State) (k : Task) : Instr → List Reg → Prop
  | scalar (i : Instr) (c : Scalar) (h : IsScalar i c) : Uses s k i (c.d :: c.regs)
  | clz (d a : Reg) : Uses s k (.clz d a) [d, a]
  | ctz (d a : Reg) : Uses s k (.ctz d a) [d, a]
  | popc (d a : Reg) : Uses s k (.popc d a) [d, a]
  | queue (i : Instr) (rs : List Reg) (P : Task → Prop) (f : Task → Task) (h : IsQueueOp i rs P f) (p : P k) : Uses s k i rs
  | context (i : Instr) (rs : List Reg) (P : State → Task → Prop) (f : State → Task → Task) (h : IsContextOp i rs P f) (p : P s k) :
      Uses s k i rs
  | transfer (i : Instr) (x : Transfer) (h : IsTransfer i x) (p : x.ok k) : Uses s k i x.regs
  | load (i : Instr) (f : SM) (n : Nat) (sg : Bool) (h : IsLoad i f n sg) : Uses s k i [f.xo, f.x]
  | store (i : Instr) (f : SM) (n : Nat) (h : IsStore i f n) : Uses s k i [f.xo, f.x]
  | routed (i : Instr) (q : Nat) (h : i.home = some q) (slice : s.turn = .slice) (ok : i.check k = none) :
      Uses s k i [i.captures.2.1, i.captures.2.2]
  | xlt (h : BitVec 5) (a b : Reg) : Uses s k (.xlt h a b) [a, b]
  | xltn (h : BitVec 5) (a : Reg) : Uses s k (.xltn h a) [a]
  | nrel (a : Reg) : Uses s k (.nrel a) [a]
  | shand (a b : Reg) : Uses s k (.shand a b) [a, b]
  | tsettle (d a b : Reg) (h : k.fw = false) : Uses s k (.tsettle d a b) [d, a, b]
  | sems (d a : Reg) (n : BitVec 8) : Uses s k (.sems d a n) [d, a]
  | cego (d : Reg) (e : BitVec 4) : Uses s k (.cego d e) [d]
  | cegoT (d a : Reg) (e : BitVec 4) : Uses s k (.cegoT d a e) [d, a]
  | baro (a : Reg) (n : BitVec 12) : Uses s k (.baro a n) [a]

end Sys2Proof.Claims

/-- An instruction of the slice, a routed one that is to be routed among them, that reads or writes a register whose load has not returned
waits, and nothing changes. The instructions are those of the table Uses: scalar, queue, context, transfer, access, handle, site, command
and routed forms, where nothing but their registers keeps them back. -/
def Obligations.LoadHazard : Prop :=
  ∀ (i : Instr) (rs : List Reg) (s : State) (k : Task), find s.tasks s.cur = some k → Uses s k i rs → k.hazard rs = true →
    exec i s = .next s

/-- A load that is the oldest access of its stream takes its bytes from memory, the lowest address least significant, extended by
its kind, into its register; memory does not change. -/
def Obligations.LoadReturns : Prop :=
  ∀ (s : State) (t : Nat) (k : Task) (d : Reg) (a n cls pc : Nat) (sg : Bool) (seen : List (Nat × Byte × Bool)) (r : List Access),
    find s.tasks t = some k → k.slice = .load d a n sg cls pc seen :: r → 1 ≤ n → n ≤ 8 → s.held a n = false →
    (∀ j, j < n → (loaded s seen (a + j)).2 = false) →
    let v := sumNat ((List.range n).map fun j => (loaded s seen (a + j)).1.toNat * 2 ^ (8 * j))
    let k' : Task := { k with slice := dropFences r }
    exec (.loadDataReturn t 0) s = .next
      { s with tasks := ins s.tasks t (k'.wx d (BitVec.ofInt 64 (if sg ∧ 2 ^ (8 * n - 1) ≤ v then (v : Int) - 2 ^ (8 * n) else v))) }

/-- Stream 0 is that of the slice, stream 2 that of the STQ. -/
def Sys2Proof.Claims.streamOf (k : Task) (stream : Nat) : List Access := if stream = 0 then k.slice else k.stqOut

def Sys2Proof.Claims.withStream (k : Task) (stream : Nat) (l : List Access) : Task :=
  if stream = 0 then { k with slice := l } else { k with stqOut := l }

/-- A write of the slice or of the STQ that is performed in whole puts its bytes into memory, clears their poison, and leaves every
other byte as it was. -/
def Sys2Proof.Claims.WritePerformed : Prop :=
  ∀ (s : State) (t n stream : Nat) (k : Task) (cells : List (Nat × Byte)) (cls wid pos : Nat), find s.tasks t = some k →
    (stream = 0 ∨ stream = 2) → (streamOf k stream)[n]? = some (.write cells cls wid pos) →
    mayPerform (.write cells cls wid pos) ((streamOf k stream).take n) = true →
    (∀ c ∈ cells, mapped c.1 = true ∧ s.heldAt c.1 = false) →
    ∃ u, exec (.accessPerformed t n ⟨stream, 0⟩) s = .next u ∧
      (∀ x, u.byte x = (lastByte cells x).getD (s.byte x)) ∧
      (∀ x, u.bad x = if (lastByte cells x).isSome then false else s.bad x) ∧
      u = { s with mem := u.mem, poison := u.poison,
                   tasks := ins s.tasks t (withStream k stream (dropFences (dropAt (streamOf k stream) n))) }

/-- A write of the STQ that is performed in part puts 8-byte chunks into memory, and what is left of it stays in its place. -/
def Sys2Proof.Claims.WritePerformedInPart : Prop :=
  ∀ (s : State) (t n which : Nat) (k : Task) (cells : List (Nat × Byte)) (cls wid pos : Nat) (now left : List (Nat × Byte)),
    find s.tasks t = some k → k.stqOut[n]? = some (.write cells cls wid pos) →
    mayPerform (.write cells cls wid pos) (k.stqOut.take n) = true → which ≠ 0 →
    now = cells.filter (fun c => whichItem false 8 which (cells.map fun c => c.1) c.1) →
    left = cells.filter (fun c => !whichItem false 8 which (cells.map fun c => c.1) c.1) → left ≠ [] →
    (∀ c ∈ now, mapped c.1 = true ∧ s.heldAt c.1 = false) →
    (∀ c ∈ now, ∀ d ∈ left, c.1 / 8 ≠ d.1 / 8) ∧
    ∃ u, exec (.accessPerformed t n ⟨2, which⟩) s = .next u ∧
      (∀ x, u.byte x = (lastByte now x).getD (s.byte x)) ∧
      u = { s with mem := u.mem, poison := u.poison, tasks := ins s.tasks t { k with stqOut := setAt k.stqOut n (.write left cls wid pos) } }

/-- One byte of memory: a write is read back at its address, and no other address changes; a write where there is no byte is lost. -/
def Sys2Proof.Claims.ByteReadWrite : Prop :=
  ∀ (s : State) (a b : Nat) (v : Byte),
    (s.setByte a v).byte b = (if b = a ∧ mapped a then v else s.byte b) ∧
    (s.setByte a v).bad b = (if b = a ∧ mapped a then false else s.bad b)

/-- A write performs: its bytes stand where it goes, and every other byte as before. -/
def Obligations.WritesPerform : Prop := WritePerformed ∧ WritePerformedInPart ∧ ByteReadWrite

/-! ### Handles and names (R192, R208 to R212) -/

namespace Sys2Proof.Claims

/-- The context k with handle register h written; what it held is kept while something still uses it (R193). -/
def withH (k : Task) (h : BitVec 5) (hd : Handle) : Task :=
  { k with h := put Handle.invalid k.h h.toNat hd, gone := k.leaving (k.rh h) }

/-- The handle of the page of a TLB entry (R192). -/
def pageHandle (e : TlbEntry) : Handle :=
  { v := true, base := e.base, size := e.size, block := false, r := e.r, w := e.w, host := isHost e.base,
    site := (siteOf e.base).getD 0 % 8, entry := some (e.idx, e.gen), name := none, asc := e.asc, va := e.va }

/-- The handle of the block of a name, of n bytes: both permissions (R209). -/
def handleOfName (name n asc : Nat) : Handle :=
  { v := true, base := nameAddr name, size := n, block := true, r := true, w := true, host := false, site := nameSite name,
    entry := none, name := some name, asc := asc, va := 0 }

end Sys2Proof.Claims

open Sys2Proof Sys2Proof.Machine Sys2Proof.Claims

/-- XLT with an entry of the core's TLB, in a site that the die owns and that is not under hand-over: the handle is that of the
page, and the second register takes the offset in it. -/
def Sys2Proof.Claims.XltHit : Prop :=
  ∀ (s : State) (k : Task) (h : BitVec 5) (a b : Reg) (e : TlbEntry), Ready s k [a, b] → (k.rx a).toNat < 2 ^ 52 →
    (s.core k.coreKey).lookup (s.ascOf k) (k.rx a).toNat = some e →
    s.handingAt e.base = false → s.foreign k.die e.base = false → reservedPage e.base e.size = false →
    (isDevReg e.base = false ∨ k.fw = true) →
    ∃ t, exec (.xlt h a b) s = .next t ∧
      t = { s with cores := t.cores,
                   tasks := ins s.tasks s.cur (go ((withH k h (pageHandle e)).wx b (BitVec.ofNat 64 ((k.rx a).toNat % e.size))) 4) } ∧
      ∀ c, { t.core c with tlb := (s.core c).tlb } = s.core c

/-- XLT without such an entry starts a walk, which leaves an entry in the TLB where it finds a leaf; XLT then executes again. -/
def Sys2Proof.Claims.XltMiss : Prop :=
  ∀ (s : State) (k : Task) (h : BitVec 5) (a b : Reg), Ready s k [a, b] → (k.rx a).toNat < 2 ^ 52 →
    (s.core k.coreKey).lookup (s.ascOf k) (k.rx a).toNat = none →
    exec (.xlt h a b) s = .next (upd s { k with walk := some (k.rx a).toNat })

/-- The walk ends: the entry for the address is the most recently used of the core's TLB; an absent page raises 0x0B at the XLT of a task
that runs, and one that is on its way out, or out, tries its XLT again. What the walk read counts for the sampling at its site. -/
def Sys2Proof.Claims.WalkEnds : Prop :=
  ∀ (s : State) (k : Task) (va : Nat), find s.tasks s.cur = some k → k.walk = some va →
    (∀ l, s.walk (s.ascOf k) va = .leaf l → ∃ t e r, exec .translationWalkComplete s = .next t ∧
      t.tasks = ins s.tasks s.cur { k with walk := none } ∧ (∀ x, t.byte x = s.byte x) ∧
      (t.core k.coreKey).tlb = e :: r ∧ e.base = l.base ∧ e.size = l.size ∧ e.r = l.r ∧ e.w = l.w ∧ e.asc = s.ascOf k ∧
      e.va = va - va % l.size) ∧
    (s.walk (s.ascOf k) va = .absent → ∃ u, warmed s u ∧ u.tasks = ins s.tasks s.cur { k with walk := none } ∧
      exec .translationWalkComplete s = if k.phase = .running then faults u k 0x0B k.pc 0 else .next u)

/-- XLT through the TLB, XLT that starts a walk, and the end of the walk. -/
def Obligations.Translation : Prop := XltHit ∧ XltMiss ∧ WalkEnds

/-- XLTN of a name of the context gives the handle of its block: both permissions, the block's size, its site. -/
def Sys2Proof.Claims.XltnBlock : Prop :=
  ∀ (s : State) (k : Task) (h : BitVec 5) (a : Reg) (n : Nat), Ready s k [a] → s.handing (nameSite (k.rx a).toNat) = false →
    s.blockOf (s.ascOf k) (k.rx a).toNat = some n → (s.site (nameSite (k.rx a).toNat)).owner = k.die →
    exec (.xltn h a) s = .next (upd s (go (withH k h (handleOfName (k.rx a).toNat n (s.ascOf k))) 4))

/-- NREL relinquishes the block of a name: from then on the name is stale, and no handle made from it is valid in any context. -/
def Sys2Proof.Claims.NrelReleases : Prop :=
  ∀ (s : State) (k : Task) (a : Reg) (n : Nat), Ready s k [a] → s.blockOf (s.ascOf k) (k.rx a).toNat = some n →
    ∃ t, exec (.nrel a) s = .next t ∧ t.blockOf (s.ascOf k) (k.rx a).toNat = none ∧
      (t.task s.cur).pc = k.pc + 4 ∧
      (∀ n v, find t.tasks n = some v → ∀ r, (v.rh r).name = some (k.rx a).toNat → (v.rh r).v = false) ∧
      (∀ x, t.byte x = s.byte x)

/-- TEND with every routed entry completed relinquishes the names that its NRQ still holds. -/
def Sys2Proof.Claims.TendReleases : Prop :=
  ∀ (s : State) (k : Task), Ready s k [] → k.fw = false → k.inTrap = false → k.ord.allDone = true →
    ∃ t, exec .tend s = .next t ∧ (t.task s.cur).phase = .ended ∧ (t.task s.cur).ord.nrq = [] ∧
      (∀ nm ∈ k.ord.nrq, t.blockOf (s.ascOf k) nm = none) ∧ (∀ x, t.byte x = s.byte x)

/-- SHAND begins the hand-over of a site: the handles into it lose their validity at once, and the site revokes. -/
def Obligations.ShandBegins : Prop :=
  ∀ (s : State) (k : Task) (a b : Reg) (i : Nat), Ready s k [a, b] → i = (k.rx a).toNat → i ≤ 7 → (k.rx b).toNat < 2 ^ 20 →
    (s.site i).rights.contains (s.ascOf k) = true → s.handing i = false → (s.site i).owner = k.die →
    s.underReset (fileDie (s.fileOf k)) = false → performed k.slice = true →
    ∃ t, exec (.shand a b) s = .next t ∧ (t.site i).hstate = .revoking ∧ (t.site i).owner = k.die ∧
      (t.site i).hand = some { file := s.fileOf k, counter := (k.rx b).toNat % 256,
                               delta := (BitVec.ofNat 12 ((k.rx b).toNat / 256)).toInt } ∧
      (t.task s.cur).pc = k.pc + 4 ∧ (∀ x, t.byte x = s.byte x) ∧
      ∀ n v, find t.tasks n = some v → ∀ r, (v.rh r).v = true → siteOf (v.rh r).base ≠ some i

/-! ### Semaphores, BARO, the builder, launches (R116, R129 to R135, R323 to R325, R376) -/

/-- SEMS, its accesses performed, reads the counter and applies its delta to it: in range the sum, from an aborted counter nothing. -/
def Sys2Proof.Claims.SemsSignals : Prop :=
  ∀ (s : State) (k : Task) (d a : Reg) (n : BitVec 8), Ready s k [d, a] → performed k.slice = true →
    s.underReset (fileDie (s.fileOf k)) = false → -2 ^ 31 ≤ (k.rx a).toInt → (k.rx a).toInt ≤ 2 ^ 31 - 1 →
    ∃ t, exec (.sems d a n) s = .next t ∧
      t.task s.cur = go (k.wx d ((s.sem (s.fileOf k) n.toNat).signExtend 64)) 4 ∧
      ((s.sem (s.fileOf k) n.toNat).toInt < 0 → t.lfe = s.lfe) ∧
      (0 ≤ (s.sem (s.fileOf k) n.toNat).toInt → 0 ≤ (s.sem (s.fileOf k) n.toNat).toInt + (k.rx a).toInt →
        (s.sem (s.fileOf k) n.toNat).toInt + (k.rx a).toInt < 2 ^ 31 →
        t.sem (s.fileOf k) n.toNat = BitVec.ofInt 32 ((s.sem (s.fileOf k) n.toNat).toInt + (k.rx a).toInt)) ∧
      (∀ x, t.byte x = s.byte x)

/-- The barograph takes records, and the last one is not of this array cycle: the next one goes behind it (R382). -/
def Sys2Proof.Claims.firstOfCycle (s : State) : Prop :=
  s.hif.baro.frozen = false ∧ (get 0 s.hif.baro.ring ((s.hif.baro.head + 16383) % 16384)).toNat / 2 ^ 192 ≠ s.time % 2 ^ 64

/-- BARO writes a record of KIND 0x10 with its code and its register; a frozen barograph takes none, and fetch goes on. -/
def Sys2Proof.Claims.BaroRecords : Prop :=
  ∀ (s : State) (k : Task) (a : Reg) (n : BitVec 12), Ready s k [a] →
    (s.hif.baro.frozen = true → exec (.baro a n) s = .next (upd s (go k 4))) ∧
    (firstOfCycle s → (∀ t, get 0 (s.core k.coreKey).baroAt k.ctx = t + 1 → t + 256 ≤ s.time) →
      ∃ t, exec (.baro a n) s = .next t ∧
      t = { s with hif := t.hif, cores := t.cores, tasks := ins s.tasks s.cur (go k 4) } ∧
      get 0 (t.core k.coreKey).baroAt k.ctx = s.time + 1 ∧ (∀ c, { t.core c with baroAt := (s.core c).baroAt } = s.core c) ∧
      t.hif = { s.hif with baro := t.hif.baro } ∧ t.hif.baro.total = s.hif.baro.total + 1 ∧
      t.hif.baro.head = (s.hif.baro.head + 1) % 16384 ∧
      (get 0 t.hif.baro.ring s.hif.baro.head).toNat / 2 ^ 108 % 2 ^ 20 = 0x10 * 2 ^ 12 + n.toNat ∧
      (get 0 t.hif.baro.ring s.hif.baro.head).toNat / 2 ^ 128 % 2 ^ 64 = (k.rx a).toNat)

/-- A read of sys.fflags with entries in flight holds every flag raised by completed entries, and of those in flight any subset: the
model's free value. -/
def Sys2Proof.Claims.FlagsInFlight : Prop :=
  ∀ (s : State) (k : Task) (d : Reg), Ready s k [d] → k.ord.inFlight ++ k.hnd.inFlight ≠ [] →
    ∃ fl, exec (.srd d 0) s = .next { upd s (go (k.wx d ((k.fflags ||| fl).setWidth 64)) 4) with tick := s.tick + 1 } ∧
      ∀ b, fl.getLsbD b = true → ∃ e ∈ k.ord.inFlight ++ k.hnd.inFlight, e.flags.getLsbD b = true

/-- SEMS, BARO and the read of sys.fflags with entries in flight. Which flags in flight are read is the model's free value (log 8). -/
def Obligations.SignalsAndRecords : Prop := SemsSignals ∧ BaroRecords ∧ FlagsInFlight

/-- No store of the slice stream of a class in the mask is still to be performed; a load may be (R325). -/
def Sys2Proof.Claims.storesOut (k : Task) (mask : W16) : Prop :=
  ∀ (cells : List (Nat × Byte)) (c w p : Nat), .write cells c w p ∈ k.slice → mask.getLsbD c = false

/-- CEGO pushes the command of the builder behind those of its engine, QUEUED, with the next sequence number of the stream, which its
register takes. -/
def Sys2Proof.Claims.CegoPushes : Prop :=
  ∀ (s : State) (k : Task) (d : Reg) (e : BitVec 4), Ready s k [d] → cmdOk ((List.range 16).map fun n => get 0 k.cb n) = true →
    s.fifoLen k.die e.toNat < 64 →
    (bits (dwOf ((List.range 16).map fun n => get 0 k.cb n) 0) 8 8 = 1 ∨
      ((s.streamOf s.cur e.toNat).filter fun c => !c.nr).length + (get [] k.results e.toNat).length < 8) →
    storesOut k (BitVec.ofNat 16 (bits (dwOf ((List.range 16).map fun n => get 0 k.cb n) 0) 63 48)) →
    ∃ t c, exec (.cego d e) s = .next t ∧ find t.ce.cmds s.ce.nextCmd = some c ∧ t.ce.nextCmd = s.ce.nextCmd + 1 ∧
      c.state = .queued ∧ c.dw = (List.range 16).map (fun n => get 0 k.cb n) ∧ c.engine = e.toNat ∧ c.die = k.die ∧ c.task = s.cur ∧
      c.seq = get 0 k.seq e.toNat ∧ (t.packet k.packet).commands = (s.packet k.packet).commands + 1 ∧
      t.tasks = ins s.tasks s.cur (go ({ k with seq := put 0 k.seq e.toNat ((get 0 k.seq e.toNat + 1) % 2 ^ 32) }.wx d
        (BitVec.ofNat 64 (get 0 k.seq e.toNat))) 4) ∧ (∀ x, t.byte x = s.byte x)

/-- CEGO.t pushes the command of a template of its slot, with the builder's doublewords where the mask of its register has a 1. -/
def Sys2Proof.Claims.CegoTemplate : Prop :=
  ∀ (s : State) (k : Task) (d a : Reg) (e : BitVec 4) (l : List W64), Ready s k [d, a] → (k.rx a).toNat < 2 ^ 48 →
    (k.rx a).toNat % 2 ^ 32 % 128 = 0 → (k.rx a).toNat % 2 ^ 32 + 128 ≤ (s.rslot (s.slotOf k)).tmplLen →
    (∀ n, n < 16 → (s.template (s.slotOf k) ((k.rx a).toNat % 2 ^ 32) n).2 = false) →
    (∀ p, s.templateAt (s.slotOf k) ((k.rx a).toNat % 2 ^ 32) = some p → s.heldAt p = false) →
    l = (List.range 16).map (fun n => if (k.rx a).getLsbD (32 + n) then get 0 k.cb n
      else (s.template (s.slotOf k) ((k.rx a).toNat % 2 ^ 32) n).1) →
    cmdOk l = true → s.fifoLen k.die e.toNat < 64 → bits (dwOf l 0) 8 8 = 1 →
    storesOut k (BitVec.ofNat 16 (bits (dwOf l 0) 63 48)) →
    ∃ t c, exec (.cegoT d a e) s = .next t ∧ find t.ce.cmds s.ce.nextCmd = some c ∧ c.state = .queued ∧ c.dw = l ∧
      c.engine = e.toNat ∧ c.seq = get 0 k.seq e.toNat ∧ (t.task s.cur).pc = k.pc + 4 ∧ (∀ x, t.byte x = s.byte x)

/-- CEGO and CEGO.t push commands. -/
def Obligations.CommandPushes : Prop := CegoPushes ∧ CegoTemplate

/-- LAUNCH, with its accesses performed and room below the high-water mark, makes a child packet from the builder: the parent's
function, contexts and queue, the record unchanged, and the record's PRIO or, where that exceeds the parent's, the parent's (R97). -/
def Obligations.LaunchMakesChild : Prop :=
  ∀ (s : State) (k : Task), Ready s k [] → performed k.slice = true → s.poolOcc k.die < (s.pool k.die).hwm →
    (s.pool k.die).ring = [] → (s.pool k.die).waiting.contains (s.cur, k.pc) = false →
    ∃ t c, exec .launch s = .next t ∧ find t.lfe.packets s.lfe.nextPacket = some c ∧ t.lfe.nextPacket = s.lfe.nextPacket + 1 ∧
      c.child = true ∧ c.parent = s.cur ∧ c.home = k.die ∧ c.phase = .held ∧ c.func = (s.packet k.packet).func ∧
      c.asc = (s.packet k.packet).asc ∧ c.file = (s.packet k.packet).file ∧ c.queue = (s.packet k.packet).queue ∧
      c.prio = min (bits c.record.toNat 9 8) (s.packet k.packet).prio ∧
      (∀ n, n < 16 → c.record.toNat / 2 ^ (64 * n) % 2 ^ 64 = (get 0 k.cb n).toNat) ∧
      t.tasks = ins s.tasks s.cur (go k 4) ∧ t.mem = s.mem

/-- FENCE.C puts a point into each stream of the context, at the routing position reached; into the slice stream only where an access
stands before it. That every scope places the same points is the model's reading (log 13). -/
def Obligations.FencePoints : Prop :=
  ∀ (s : State) (k : Task) (sc : BitVec 3) (m : W16), Ready s k [] → sc.toNat ≤ 4 → m ≠ 0 →
    ((dropFences k.slice).filter Access.isFence).length < 16 → (∀ q, q ≤ 2 → (k.fencesLeft k.inTrap q).length < 16) →
    ∃ k', exec (.fenceC sc m) s = .next (upd s k') ∧
      k' = { k with pc := k.pc + 8, waitQ := none, slice := k'.slice, ord := k'.ord, hnd := k'.hnd } ∧
      k'.slice = (if performed (dropFences k.slice) then dropFences k.slice else dropFences k.slice ++ [.fence sc.toNat m]) ∧
      (∀ q, q ≤ 2 → (k'.qset.rq q).fences = k.fencesLeft k.inTrap q ++ [(k.routed, m)]) ∧
      (∀ q, q ≤ 2 → { k'.qset.rq q with fences := (k.qset.rq q).fences } = k.qset.rq q)

/-- No read of the tile in slot n of task t is on its way (R220). -/
def Sys2Proof.Claims.noReads (s : State) (t n : Nat) : Prop :=
  ∀ p ∈ s.tasks, ∀ a ∈ p.2.ldqOut, match a with | .tile o m _ _ _ => o ≠ t ∨ m ≠ n | _ => True

/-- TSETTLE gives up the context's share in a tile of its own: the register takes its count, and at a sum of 0 the slot is EMPTY and
its generation has advanced. -/
def Sys2Proof.Claims.TsettleOwn : Prop :=
  ∀ (s : State) (k : Task) (d a b : Reg) (tl : TSlot), Ready s k [d, a, b] → k.fw = false → k.tilesRead = true →
    (k.rx b).toNat = 8 → s.view s.cur k (k.rx a).toNat = .tile tl → k.mmaReads (k.rx a).toNat = false →
    noReads s s.cur (k.rx a).toNat → shareOf tl.shares s.cur ≠ 0 →
    ∃ t, exec (.tsettle d a b) s = .next t ∧
      t.task s.cur = go (k.wx d (BitVec.ofNat 64 (shareOf tl.shares s.cur))) 4 ∧
      (tl.shares = [(s.cur, shareOf tl.shares s.cur)] →
        t.tslot k.coreKey (k.partBase + (k.rx a).toNat) = { TSlot.empty with gen := (tl.gen + 1) % 256 }) ∧
      t = { s with tasks := t.tasks, cores := t.cores }

/-! ### Traps and the return from them (R346 to R354, R371, R374) -/

namespace Sys2Proof.Claims

/-- The context k in its handler, after fault f (R347, R350 to R352). -/
def trapped (s : State) (k : Task) (f : FaultRec) (resume : Nat) : Task :=
  { k with tpc := BitVec.ofNat 64 resume - BitVec.ofNat 64 (s.imageBase k), tcause := f.cause,
           taddr := BitVec.ofNat 64 f.addr - BitVec.ofNat 64 (s.imageBase k), tdata := f.data,
           tinfo := BitVec.ofNat 64 (f.src % 16 * 2 ^ 28 + f.await % 16 * 2 ^ 24 + f.pos % 256 * 2 ^ 16),
           inTrap := true, pc := s.imageBase k + k.tvec.toNat, hnd := QSet.empty 8 8 8, phase := .running, yieldLeft := 0,
           walk := none, missing := none, waitQ := none, mma := k.mma.map fun m => { m with stopped := true, held := false } }

end Sys2Proof.Claims

open Sys2Proof Sys2Proof.Machine Sys2Proof.Claims

/-- Taking a cause that a handler may take, with a handler and outside one, and nothing left to drain: the trap registers hold the
resume address, the cause, the faulting word, where the fault arose and its data; the handler set is empty; fetch goes on at the
handler. Nothing else of the context changes, and beside it only the barograph may. -/
def Sys2Proof.Claims.TrapEntry : Prop :=
  ∀ (s : State) (k : Task) (t : Nat) (f : FaultRec) (resume : Nat), find s.tasks t = some k → taker f.cause = .handler →
    k.tvec ≠ 0 → k.inTrap = false → k.drained = true →
    ∃ u, s.take t f resume = u ∧ u = { s with hif := u.hif, tasks := ins s.tasks t (trapped s k f resume) } ∧
      u.hif = { s.hif with baro := u.hif.baro } ∧ (s.hif.baro.frozen = true → u.hif = s.hif)

/-- While entries that have issued, or stores on their way, are left, the cause is not taken yet: the context drains. -/
def Sys2Proof.Claims.TrapDrains : Prop :=
  ∀ (s : State) (k : Task) (t : Nat) (f : FaultRec) (resume : Nat), find s.tasks t = some k → taker f.cause = .handler →
    k.tvec ≠ 0 → k.inTrap = false → k.drained = false →
    s.take t f resume = { s with tasks := ins s.tasks t { k with phase := .drainTrap f resume } }

/-- The entry to the handler, and the drain before it. -/
def Obligations.TrapEntries : Prop := TrapEntry ∧ TrapDrains

/-- A cause that no handler may take, one raised without a handler, and one raised in a handler end the task: it is gone, and a user
task's packet takes the fault's status with its cause, where it had none. A gang's member waits for its gang's kill point, the end of the
array cycle. That the other members of a gang end at the end of the array cycle is log 51. -/
def Obligations.FatalFault : Prop :=
  ∀ (s : State) (k : Task) (t : Nat) (f : FaultRec) (resume : Nat), find s.tasks t = some k → k.esem = none → k.isDoomed = false →
    (s.packet k.packet).status = 0 → (taker f.cause = .never ∨ taker f.cause = .handler ∧ (k.tvec = 0 ∨ k.inTrap = true)) →
    (k.fw = false → ((s.take t f resume).packet k.packet).status = 5 ∧ ((s.take t f resume).packet k.packet).cause = f.cause) ∧
    (k.fw = true ∨ (s.packet k.packet).cluster = false → find (s.take t f resume).tasks t = none) ∧
    (k.fw = false → (s.packet k.packet).cluster = true → (s.take t f resume).tasks = ins s.tasks t k.doomed)

/-- ERET, the handler's entries completed, with no name and no fault left behind and SKIP clear: the handler set is discarded, IN is
clear, fetch goes on at sys.tpc, and the ordinary queues stand as they stood. -/
def Sys2Proof.Claims.TrapReturn : Prop :=
  ∀ (s : State) (k : Task), Ready s k [] → k.inTrap = true → k.hnd.allDone = true → k.hnd.nrq = [] → k.hnd.names = [] →
    k.tinfo.getLsbD 0 = false → k.ord.faulted = false → k.mma = none → k.markers = [] →
    (s.fetch k (s.imageBase k + k.tpc.toNat)).isSome → MayLand s k (s.imageBase k + k.tpc.toNat) →
    ∃ k', exec .eret s = .next (upd s k') ∧ k'.inTrap = false ∧ k'.pc = s.imageBase k + k.tpc.toNat ∧ k'.hnd = QSet.empty 8 8 8 ∧
      k' = { k with inTrap := false, pc := k'.pc, hnd := k'.hnd, ord := k'.ord, waitQ := none } ∧
      (∀ q, (k'.ord.rq q).entries = (k.ord.rq q).entries ∧ (k'.ord.rq q).issued = (k.ord.rq q).issued ∧ k'.ord.ctq q = k.ord.ctq q)

/-- ERET with SKIP set, after a fault of a queue's head other than token overflow, removes that head and clears SKIP; the CTQ section
stands as it stood. -/
def Sys2Proof.Claims.SkipRemovesHead : Prop :=
  ∀ (s : State) (k : Task) (q : Nat) (e : Entry) (r : List Entry), Ready s k [] → k.inTrap = true → k.hnd.allDone = true →
    k.hnd.nrq = [] → k.hnd.names = [] → k.tinfo.getLsbD 0 = true → k.tinfo.toNat / 2 ^ 28 % 16 = q + 1 → q ≤ 2 → k.tcause ≠ 0x1B →
    k.ord.faulted = false → k.mma = none → k.markers = [] → (k.ord.rq q).entries = e :: r →
    (s.fetch k (s.imageBase k + k.tpc.toNat)).isSome → MayLand s k (s.imageBase k + k.tpc.toNat) →
    ∃ k', exec .eret s = .next (upd s k') ∧ (k'.ord.rq q).entries = r ∧ k'.tinfo.getLsbD 0 = false ∧ k'.inTrap = false ∧
      k'.pc = s.imageBase k + k.tpc.toNat ∧ k'.ord.ctq q = k.ord.ctq q ∧
      (∀ p, p ≤ 2 → p ≠ q → (k'.ord.rq p).entries = (k.ord.rq p).entries) ∧ k'.v = k.v ∧ k'.x = k.x

/-- ERET, with SKIP clear and with SKIP set. -/
def Obligations.TrapReturns : Prop := TrapReturn ∧ SkipRemovesHead

namespace Sys2Proof.Claims

/-! ### Routed instructions (R34, R46, R155; R240 to R242) -/

/-- Entry e of instruction i is at the head of queue q of the set hs of the current task k, with r behind it, and issues: the tokens
and the CTQ entries vals are there and of their kinds, no operand, unit or fence point keeps it back, a count lies within its limit,
no other queue is writing a register or mask that it uses, and the units that pass between tasks are k's, in s1 (R240, R243, R358). -/
structure AtHead (i : Instr) (s : State) (q : Nat) (hs : Bool) (k : Task) (e : Entry) (r : List Entry) (vals : List CtqEntry)
    (s1 : State) : Prop where
  turn : s.turn = .head q hs
  task : find s.tasks s.cur = some k
  entry : ((k.set hs).rq q).entries = e :: r
  instr : e.instr = i
  runs : k.headsRun hs = true
  isOpen : ((k.set hs).rq q).open = true
  gate : gate i (k.set hs) q e = .run vals
  operands : operandWait s s.cur k i ((k.set hs).rq q) = false
  fences : fenceWait k q ((k.set hs).rq q) e i = false
  loads : q = 0 → ((k.set hs).rq q).issued.length < 16
  units : s.claims s.cur k (i.units k) = (true, s1)
  format : k.starved i = false
  alone : racing ((k.set hs).others q) (i.reads ++ i.writes) = ([], [])
  count : ∀ T, i.counted = some T → countBad T (countOf i.pfx (takenOf i.pfx i.fields vals).pfx) = false

/-- What the instruction sees at its head. -/
def seen (i : Instr) (s s1 : State) (k : Task) (hs : Bool) (e : Entry) (vals : List CtqEntry) : Hd :=
  { s := s1, t := s.cur, k := k, see := k, hs := hs, e := e, tk := takenOf i.pfx i.fields vals }

/-- The queues of a set after the issue of entry e of queue q: the tokens waited for and the entries popped are gone, and the entry
stands behind those issued (R36, R47, R178). -/
def issuedSet (i : Instr) (qs : QSet) (q : Nat) (e : Entry) (r : List Entry) (it : Issued) : QSet :=
  let q1 := takeTokens qs q i.tok
  let n := match e.popped with | some _ => 0 | none => pops i.demands
  (q1.setCtq q ((q1.ctq q).drop n)).setRq q
    { q1.rq q with entries := r, issued := (q1.rq q).issued ++ [it], stall := 0, await := 0 }

/-- The instruction issues: from s1 the context of the current task becomes k2 with its queues as issuedSet says, and nothing else
changes, but that an MX entry is the last to have taken the matrix unit (R269). -/
def Issues (i : Instr) (s s1 : State) (q : Nat) (hs : Bool) (k2 : Task) (e : Entry) (r : List Entry) (it : Issued) : Prop :=
  exec i s = .next
    (({ s1 with tasks := ins s1.tasks s.cur (k2.withSet hs (issuedSet i (k2.set hs) q e r it)) } : State).tookMatrix s.cur k2 i)

/-- An issued entry that only holds its unit, with the flags it raised; it keeps what the registers and masks that it writes held
before (R243). -/
def held (k : Task) (e : Entry) (fl : BitVec 6) : Issued :=
  { entry := e, holding := true, busy := false, skipped := false, flags := fl, push := none, fills := [], got := [],
    olds := k.oldRegs e.instr, oldm := k.oldMasks e.instr }

/-- The context k with another register file. -/
def withV (k : Task) (v : Assoc VReg) : Task := { k with v := v }

/-! ### Elementwise instructions (R252, R253, R255 to R257) -/

/-- Source values of a V4 instruction, as numbers and as bits. -/
def num (f : V4) (x : Hd) (v : VField) (j : Nat) : Machine.Num := valueOf f.ty.toNat (x.src f.ty.toNat v j)
def raw (f : V4) (x : Hd) (v : VField) (j : Nat) : Nat := x.src f.ty.toNat v j

/-- An exact value is rounded once to the element type, under the prefix's modes (R252, R65 to R67). -/
def rounded (f : V4) (x : Hd) (j : Nat) (r : Machine.Num × BitVec 6) : Nat × BitVec 6 :=
  let p := roundTo r.1 f.ty.toNat (modeOf f.pfx) (x.rand (modeOf f.pfx) j)
  (p.1, r.2 ||| p.2)

def bitsOnly (n : Nat) : Nat × BitVec 6 := (n, 0)

def down (f : V4) : Bool := isRdn (modeOf f.pfx)
def miss (f : V4) : Bool := isMiss (modeOf f.pfx)

/-- The values of the active elements of row r, in order of column (R256). -/
def rowVals (f : V4) (x : Hd) (r : Nat) : List Machine.Num := (rowActive f.ty.toNat (x.active f.pfx f.mask f.ty.toNat) r).map (num f x f.va)
def colVals (f : V4) (x : Hd) (c : Nat) : List Machine.Num := (colActive f.ty.toNat (x.active f.pfx f.mask f.ty.toNat) c).map (num f x f.va)

/-- The instructions that give each active element of vd a result: bits and flags. -/
inductive IsLane : Instr → V4 → (Hd → Nat → Nat × BitVec 6) → Prop
  | vadd (f : V4) : IsLane (.vadd f) f fun x j => rounded f x j (addN (down f) (num f x f.va j) (num f x f.vb j))
  | vsub (f : V4) : IsLane (.vsub f) f fun x j => rounded f x j (addN (down f) (num f x f.va j) (negN (num f x f.vb j)))
  | vmul (f : V4) : IsLane (.vmul f) f fun x j => rounded f x j (mulN (num f x f.va j) (num f x f.vb j))
  | vfma (f : V4) : IsLane (.vfma f) f fun x j => rounded f x j (fmaN (down f) (num f x f.va j) (num f x f.vb j) (num f x f.vc j))
  | vfnma (f : V4) : IsLane (.vfnma f) f fun x j =>
      rounded f x j (fmaN (down f) (negN (num f x f.va j)) (num f x f.vb j) (num f x f.vc j))
  | vmin (f : V4) : IsLane (.vmin f) f fun x j => rounded f x j (minmaxN false (miss f) (num f x f.va j) (num f x f.vb j), 0)
  | vmax (f : V4) : IsLane (.vmax f) f fun x j => rounded f x j (minmaxN true (miss f) (num f x f.va j) (num f x f.vb j), 0)
  | vabs (f : V4) : IsLane (.vabs f) f fun x j => rounded f x j (absN (num f x f.va j), 0)
  | vneg (f : V4) : IsLane (.vneg f) f fun x j => rounded f x j (negN (num f x f.va j), 0)
  | vclamp (f : V4) : IsLane (.vclamp f) f fun x j =>
      rounded f x j (minmaxN false (miss f) (minmaxN true (miss f) (num f x f.va j) (num f x f.vb j)) (num f x f.vc j), 0)
  | vrcp (f : V4) : IsLane (.vrcp f) f fun x j => rounded f x j (rcpN (num f x f.va j))
  | vrsq (f : V4) : IsLane (.vrsq f) f fun x j => rounded f x j (rsqN (num f x f.va j))
  | vexp2 (f : V4) : IsLane (.vexp2 f) f fun x j =>
      exp2To (num f x f.va j) f.ty.toNat (modeOf f.pfx) (x.rand (modeOf f.pfx) j)
  | vlog2 (f : V4) : IsLane (.vlog2 f) f fun x j =>
      log2To (num f x f.va j) f.ty.toNat (modeOf f.pfx) (x.rand (modeOf f.pfx) j)
  | vmov (f : V4) : IsLane (.vmov f) f fun x j => bitsOnly (raw f x f.va j)
  | viadd (f : V4) : IsLane (.viadd f) f fun x j => rounded f x j (addN false (num f x f.va j) (num f x f.vb j))
  | visub (f : V4) : IsLane (.visub f) f fun x j => rounded f x j (addN false (num f x f.va j) (negN (num f x f.vb j)))
  | vimul (f : V4) : IsLane (.vimul f) f fun x j => rounded f x j (mulN (num f x f.va j) (num f x f.vb j))
  | vimad (f : V4) : IsLane (.vimad f) f fun x j => rounded f x j (fmaN false (num f x f.va j) (num f x f.vb j) (num f x f.vc j))
  | vand (f : V4) : IsLane (.vand f) f fun x j => bitsOnly (raw f x f.va j &&& raw f x f.vb j)
  | vor (f : V4) : IsLane (.vor f) f fun x j => bitsOnly (raw f x f.va j ||| raw f x f.vb j)
  | vxor (f : V4) : IsLane (.vxor f) f fun x j => bitsOnly (raw f x f.va j ^^^ raw f x f.vb j)
  | vnot (f : V4) : IsLane (.vnot f) f fun x j => bitsOnly (2 ^ width f.ty.toNat - 1 - raw f x f.va j)
  | vshl (f : V4) : IsLane (.vshl f) f fun x j => bitsOnly (raw f x f.va j * 2 ^ (raw f x f.vb j % width f.ty.toNat))
  | vshr (f : V4) : IsLane (.vshr f) f fun x j => bitsOnly (raw f x f.va j / 2 ^ (raw f x f.vb j % width f.ty.toNat))
  | vsar (f : V4) : IsLane (.vsar f) f fun x j => bitsOnly (sarBits (width f.ty.toNat) (raw f x f.va j) (raw f x f.vb j))
  | vimin (f : V4) : IsLane (.vimin f) f fun x j => bitsOnly
      (if intValue f.ty.toNat (raw f x f.va j) < intValue f.ty.toNat (raw f x f.vb j) then raw f x f.va j else raw f x f.vb j)
  | vimax (f : V4) : IsLane (.vimax f) f fun x j => bitsOnly
      (if intValue f.ty.toNat (raw f x f.va j) < intValue f.ty.toNat (raw f x f.vb j) then raw f x f.vb j else raw f x f.va j)
  | vrmax (f : V4) : IsLane (.vrmax f) f fun x j => rounded f x j (extremeN true (miss f) (rowVals f x (j / perRow f.ty.toNat)), 0)
  | vrmin (f : V4) : IsLane (.vrmin f) f fun x j => rounded f x j (extremeN false (miss f) (rowVals f x (j / perRow f.ty.toNat)), 0)
  | vrsum (f : V4) : IsLane (.vrsum f) f fun x j => rounded f x j (sumN (rowVals f x (j / perRow f.ty.toNat)))
  | vcsum (f : V4) : IsLane (.vcsum f) f fun x j => rounded f x j (sumN (colVals f x (j % perRow f.ty.toNat)))
  | vshuf (f : V4) : IsLane (.vshuf f) f fun x j => bitsOnly
      (raw f x f.va (perRow f.ty.toNat * (j / perRow f.ty.toNat) + raw f x f.vb j % perRow f.ty.toNat))
  | vrot (f : V4) : IsLane (.vrot f) f fun x j => bitsOnly (raw f x f.va ((j + x.tk.src.toNat) % elems f.ty.toNat))
  | vtrn (f : V4) : IsLane (.vtrn f) f fun x j => bitsOnly (raw f x f.va
      (perRow f.ty.toNat * (j % perRow f.ty.toNat % 32) + 32 * (j % perRow f.ty.toNat / 32) + j / perRow f.ty.toNat))

/-- Register n of k2 holds, of type T, the results of the selected elements, and its old elements elsewhere; every other register is
as it was. -/
def Holds (k k2 : Task) (vd : VField) (T : Nat) (act : Nat → Bool) (res : Nat → Nat) : Prop :=
  (∀ n, n ≠ vd.toNat ∨ isVReg vd = false → k2.rv n = k.rv n) ∧
  (isVReg vd = true → ∀ j, j < elems T →
    (k2.rv vd.toNat).elem (width T) j = if act j then res j % 2 ^ width T else (k.rv vd.toNat).elem (width T) j)

/-- The flags of an entry are those that some selected element raised. -/
def FlagsOf (fl : BitVec 6) (n : Nat) (act : Nat → Bool) (g : Nat → BitVec 6) : Prop :=
  ∀ b, fl.getLsbD b = true ↔ ∃ j, j < n ∧ act j = true ∧ (g j).getLsbD b = true

end Sys2Proof.Claims

open Sys2Proof Sys2Proof.Machine Sys2Proof.Claims

/-- The slice routes a routed instruction that passes its checks, with its registers ready and space below the slip depth: the entry
stands last in its queue with the operands it captures, and fetch goes on. -/
def Obligations.Routing : Prop :=
  ∀ (i : Instr) (q : Nat) (s : State) (k : Task), i.home = some q → s.turn = .slice →
    Ready s k [i.captures.2.1, i.captures.2.2] → i.check k = none → (k.qset.rq q).entries.length < (k.qset.rq q).depth →
    ∃ k', exec i s = .next (upd s k') ∧ k'.pc = k.pc + (if i.pfx.isSome then 12 else 8) ∧ k'.routed = k.routed + 1 ∧
      k'.qset = k.qset.setRq q { k.qset.rq q with entries := (k.qset.rq q).entries ++ [{
        instr := i, pos := k.routed, pc := k.pc, h := k.rh i.captures.1, xa := k.rx i.captures.2.1, xb := k.rx i.captures.2.2,
        seed := k.rsrseed, popped := none }] } ∧
      k' = { k with pc := k'.pc, routed := k'.routed, ord := k'.ord, hnd := k'.hnd, waitQ := none, rsrseed := k'.rsrseed } ∧
      k'.rsrseed = k.rsrseed + (if usesSeed i.pfx then 1 else 0)

namespace Sys2Proof.Claims

/-- Entry e of instruction i is the oldest of queue q of a set of the current task k, with r behind it, and the heads of the set may issue. -/
structure Oldest (i : Instr) (q : Nat) (hs : Bool) (s : State) (k : Task) (e : Entry) (r : List Entry) : Prop where
  home : i.home = some q
  turn : s.turn = .head q hs
  task : find s.tasks s.cur = some k
  entry : ((k.set hs).rq q).entries = e :: r
  instr : e.instr = i
  runs : k.headsRun hs = true
  isOpen : ((k.set hs).rq q).open = true

/-- The head of queue q awaits the item with a code: it is noted, and nothing else changes. -/
def notes (s : State) (k : Task) (hs : Bool) (q c : Nat) : Out :=
  .next (upd s (k.withSet hs ((k.set hs).setRq q { (k.set hs).rq q with await := c })))

/-- The head of queue q raises CTQ misuse, and pops nothing. -/
def misuses (s : State) (k : Task) (hs : Bool) (q : Nat) (e : Entry) : Out :=
  .next (upd s (k.withSet hs ((k.set hs).setRq q { (k.set hs).rq q with
    fault := some { cause := 0x1C, addr := e.pc, data := 0, src := q + 1, await := 0, pos := e.pos } })))

end Sys2Proof.Claims

/-- The head of a queue that is not open, or of a set whose heads may not issue, does nothing. -/
def Sys2Proof.Claims.ClosedQueue : Prop :=
  ∀ (i : Instr) (q : Nat) (hs : Bool) (s : State) (k : Task), i.home = some q → s.turn = .head q hs → find s.tasks s.cur = some k →
    k.headsRun hs = false ∨ ((k.set hs).rq q).open = false → exec i s = .next s

/-- A head that awaits its predicate, its CTQ entries or its tokens: the awaited item is noted. -/
def Sys2Proof.Claims.TokenWaits : Prop :=
  ∀ (i : Instr) (q : Nat) (hs : Bool) (s : State) (k : Task) (e : Entry) (r : List Entry) (c : Nat), Oldest i q hs s k e r →
    gate i (k.set hs) q e = .wait c → exec i s = notes s k hs q c

/-- A head that is to run and awaits the storage of its operands or its unit (code 5), accesses ahead of a fence point or a place among the
loads (7), or a unit that passes between tasks (9): the lowest code of what it awaits is noted, and no entry moves. -/
def Sys2Proof.Claims.OperandWaits : Prop :=
  ∀ (i : Instr) (q : Nat) (hs : Bool) (s : State) (k : Task) (e : Entry) (r : List Entry) (vals : List CtqEntry), Oldest i q hs s k e r →
    gate i (k.set hs) q e = .run vals → k.starved i = false →
    (operandWait s s.cur k i ((k.set hs).rq q) = true → ∃ c, c ≤ 5 ∧ exec i s = notes s k hs q c) ∧
    (operandWait s s.cur k i ((k.set hs).rq q) = false →
      (fenceWait k q ((k.set hs).rq q) e i = true ∨ q = 0 ∧ 16 ≤ ((k.set hs).rq q).issued.length →
        ∃ c, c ≤ 7 ∧ exec i s = notes s k hs q c) ∧
      (fenceWait k q ((k.set hs).rq q) e i = false → (q = 0 → ((k.set hs).rq q).issued.length < 16) → i.isMma = false →
        ∀ s1, s.claims s.cur k (i.units k) = (false, s1) → ∃ c, c ≤ 9 ∧ exec i s = notes s1 k hs q c))

/-- CTQ entries of a wrong kind, a predicate's among them: the head raises CTQ misuse, and pops nothing. -/
def Sys2Proof.Claims.WrongKindFaults : Prop :=
  ∀ (i : Instr) (q : Nat) (hs : Bool) (s : State) (k : Task) (e : Entry) (r : List Entry), Oldest i q hs s k e r → e.popped = none →
    (∀ vals, (i.pfx = some .pxp → ∃ c l, (k.set hs).ctq q = c :: l ∧ c.kind = .pred ∧ c.val.getLsbD 0 = true) →
      tokenWait (k.set hs) q i.tok = none → serve ((k.set hs).ctq q) i.demands = some vals → kindsOk vals i.demands = false →
      exec i s = misuses s k hs q e) ∧
    ∀ c l, i.pfx = some .pxp → (k.set hs).ctq q = c :: l → c.kind ≠ .pred → exec i s = misuses s k hs q e

/-- A queue that is closed, a head that waits, and a head whose CTQ entries are of the wrong kind. That a wait for a test strip has code 5
is log 49. -/
def Obligations.HeadWaits : Prop := ClosedQueue ∧ TokenWaits ∧ OperandWaits ∧ WrongKindFaults

/-- An entry that its predicate skips leaves its queue: it takes its tokens and the predicate, and reads and writes nothing. -/
def Obligations.PredicateSkips : Prop :=
  ∀ (i : Instr) (q : Nat) (hs : Bool) (s : State) (k : Task) (e : Entry) (r : List Entry), i.home = some q →
    s.turn = .head q hs → find s.tasks s.cur = some k → ((k.set hs).rq q).entries = e :: r → e.instr = i → k.headsRun hs = true →
    ((k.set hs).rq q).open = true → gate i (k.set hs) q e = .skip → (∀ f, i ≠ .mma f) →
    exec i s = .next (upd s (k.withSet hs ((
      (takeTokens (k.set hs) q i.tok).setCtq q (((takeTokens (k.set hs) q i.tok).ctq q).drop 1)).setRq q
        { (k.set hs).rq q with entries := r, stall := 0, await := 0, issued := ((k.set hs).rq q).issued ++
          [{ entry := e, holding := false, busy := false, skipped := true, flags := 0, push := none, fills := [], got := [],
             olds := [], oldm := [] }] })))

/-- Every elementwise instruction at its head issues: each element that its mask, count and rows select takes its result, every other
element, register and mask stays, and the entry carries the flags raised. The values of VEXP2 and VLOG2 rest on the free values of log 14,
the model's choice; the zero of a sum, and that a NaN term leaves NV alone, are log 49 (R71, R80). -/
def Obligations.VectorElements : Prop :=
  ∀ (i : Instr) (f : V4) (res : Hd → Nat → Nat × BitVec 6) (s s1 : State) (hs : Bool) (k : Task) (e : Entry) (r : List Entry)
    (vals : List CtqEntry), IsLane i f res → AtHead i s 1 hs k e r vals s1 →
    let x := seen i s s1 k hs e vals
    let act := x.active f.pfx f.mask f.ty.toNat
    ∃ v fl, Issues i s s1 1 hs (withV k v) e r (held k e fl) ∧
      Holds k (withV k v) f.vd f.ty.toNat act (fun j => (res x j).1) ∧ FlagsOf fl (elems f.ty.toNat) act fun j => (res x j).2

/-- VSEL writes every element within count and rows: from va where the mask bit is 1, else from vb. -/
def Sys2Proof.Claims.VectorSelect : Prop :=
  ∀ (f : V4) (s s1 : State) (hs : Bool) (k : Task) (e : Entry) (r : List Entry) (vals : List CtqEntry),
    AtHead (.vsel f) s 1 hs k e r vals s1 →
    let x := seen (.vsel f) s s1 k hs e vals
    ∃ v, Issues (.vsel f) s s1 1 hs (withV k v) e r (held k e 0) ∧
      Holds k (withV k v) f.vd f.ty.toNat (inRange f.pfx (countOf f.pfx x.tk.pfx) f.ty.toNat) fun j =>
        if maskBit (k.rm f.mask.toNat) f.ty.toNat j then raw f x f.va j else raw f x f.vb j

/-- VRSCAN: the n-th active element of a row takes the rounded sum of the first n + 1 active elements of the row. -/
def Sys2Proof.Claims.PrefixSums : Prop :=
  ∀ (f : V4) (s s1 : State) (hs : Bool) (k : Task) (e : Entry) (r : List Entry) (vals : List CtqEntry),
    AtHead (.vrscan f) s 1 hs k e r vals s1 →
    let x := seen (.vrscan f) s s1 k hs e vals
    let T := f.ty.toNat
    let row (j : Nat) := rowActive T (x.active f.pfx f.mask T) (j / perRow T)
    ∃ v fl, Issues (.vrscan f) s s1 1 hs (withV k v) e r (held k e fl) ∧
      Holds k (withV k v) f.vd T (x.active f.pfx f.mask T) fun j =>
        (rounded f x j (((prefixN (.fin true 0 1) 0 ((row j).map (num f x f.va)))[(row j).idxOf j]?).getD (.nan, 0))).1

/-- VSEL and VRSCAN. The zero of a prefix sum, -0 only where every term is, is the model's reading of R256 (log 49, R71). -/
def Obligations.RowForms : Prop := VectorSelect ∧ PrefixSums

/-- VCMP, VMSK and VMASKQ write a mask register: bit by bit what they say, and nothing else; a VCMP with a count of zero writes nothing. -/
def Obligations.MaskResults : Prop :=
  ∀ (f : V4) (c : BitVec 3) (s s1 : State) (hs : Bool) (k : Task) (e : Entry) (r : List Entry) (vals : List CtqEntry),
    (AtHead (.vcmp c f) s 1 hs k e r vals s1 → noCount (countOf f.pfx (takenOf f.pfx [f.va, f.vb, f.vc] vals).pfx) = true →
      Issues (.vcmp c f) s s1 1 hs k e r (held k e 0)) ∧
    (AtHead (.vcmp c f) s 1 hs k e r vals s1 → noCount (countOf f.pfx (takenOf f.pfx [f.va, f.vb, f.vc] vals).pfx) = false →
      isSink f.vd = false → f.vd.toNat ≠ 0 →
      ∃ m, Issues (.vcmp c f) s s1 1 hs { k with m := put 0 k.m f.vd.toNat m } e r (held k e 0) ∧ ∀ j, j < 8192 →
        let x := seen (.vcmp c f) s s1 k hs e vals
        m.getLsbD j = (decide (j < elems f.ty.toNat) && x.active f.pfx f.mask f.ty.toNat j &&
          compareN c.toNat (num f x f.va j) (num f x f.vb j))) ∧
    (AtHead (.vmsk f) s 1 hs k e r vals s1 → f.vd.toNat ≠ 0 →
      Issues (.vmsk f) s s1 1 hs { k with m := put 0 k.m f.vd.toNat (
        let a := k.rm f.va.toNat
        let b := k.rm f.vb.toNat
        if f.vc = 0 then a &&& b else if f.vc = 1 then a ||| b else if f.vc = 2 then a ^^^ b else if f.vc = 3 then a &&& ~~~b
        else if f.vc = 4 then ~~~a else a) } e r (held k e 0)) ∧
    (AtHead (.vmaskq f) s 1 hs k e r vals s1 → f.vd.toNat ≠ 0 →
      let D := (seen (.vmaskq f) s s1 k hs e vals).tk.own.toNat
      descBad D f.ty.toNat = false →
      ∃ m, Issues (.vmaskq f) s s1 1 hs { k with m := put 0 k.m f.vd.toNat m } e r (held k e 0) ∧ ∀ j, j < 8192 →
        m.getLsbD j = (decide (j < elems f.ty.toNat) && descSel D f.ty.toNat j && maskBit (k.rm f.mask.toNat) f.ty.toNat j))

/-- VDEFER appends a record of index and three sources for each active element, in order; without room it faults with 0x38. -/
def Sys2Proof.Claims.DeferAppends : Prop :=
  ∀ (f : V4) (s s1 : State) (hs : Bool) (k : Task) (e : Entry) (r : List Entry) (vals : List CtqEntry),
    AtHead (.vdefer f) s 1 hs k e r vals s1 →
    let x := seen (.vdefer f) s s1 k hs e vals
    let es := (List.range (elems f.ty.toNat)).filter (x.active f.pfx f.mask f.ty.toNat)
    let recs := es.map fun j => BitVec.ofNat 128 (j + raw f x f.va j * 2 ^ 32 + raw f x f.vb j * 2 ^ 64 + raw f x f.vc j * 2 ^ 96)
    (f.vd = 0 → k.dq0.length + es.length ≤ 4096 →
      Issues (.vdefer f) s s1 1 hs { k with dq0 := k.dq0 ++ recs } e r (held k e 0)) ∧
    (f.vd ≠ 0 → k.dq1.length + es.length ≤ 4096 →
      Issues (.vdefer f) s s1 1 hs { k with dq1 := k.dq1 ++ recs } e r (held k e 0)) ∧
    ((k.dq f.vd.toNat).length + es.length > 4096 → ∃ t, exec (.vdefer f) s = .next t ∧
      (((t.task s.cur).set hs).rq 1).fault = some { cause := 0x38, addr := e.pc, data := 0, src := 2, await := 0, pos := e.pos } ∧
      (t.task s.cur).dq0 = k.dq0 ∧ (t.task s.cur).dq1 = k.dq1)

/-- VDRAIN takes the oldest records, at most 2,048, into four registers, field by field, and marks them in its mask. -/
def Sys2Proof.Claims.DrainTakes : Prop :=
  ∀ (f : V4) (s s1 : State) (hs : Bool) (k : Task) (e : Entry) (r : List Entry) (vals : List CtqEntry),
    AtHead (.vdrain f) s 1 hs k e r vals s1 →
    let recs := (k.dq f.va.toNat).take 2048
    ∃ k2, Issues (.vdrain f) s s1 1 hs k2 e r (held k e 0) ∧
      k2 = { k.setDq f.va.toNat ((k.dq f.va.toNat).drop 2048) with
        v := k2.v, m := if f.mask = 0 then k.m else put 0 k.m f.mask.toNat (BitVec.ofNat 8192 (2 ^ recs.length - 1)) } ∧
      (∀ n, n < 4 → ∀ j, j < 2048 → (k2.rv (f.vd.toNat + n)).elem 32 j =
        match recs[j]? with | some c => c.toNat / 2 ^ (32 * n) % 2 ^ 32 | none => (k.rv (f.vd.toNat + n)).elem 32 j) ∧
      ∀ n, (n < f.vd.toNat ∨ f.vd.toNat + 4 ≤ n) → k2.rv n = k.rv n

/-- The deferral queues: VDEFER appends, VDRAIN takes. -/
def Obligations.DeferQueues : Prop := DeferAppends ∧ DrainTakes

/-- VRET, with room in the RTQ, carries its value for the push at its completion: the first active element, a count of mask bits, or
the first mask bit. -/
def Obligations.ReturnValue : Prop :=
  ∀ (f : V4) (s s1 : State) (hs : Bool) (k : Task) (e : Entry) (r : List Entry) (vals : List CtqEntry),
    AtHead (.vret f) s 1 hs k e r vals s1 →
    ((k.set hs).rtq.length + ((k.set hs).cmq.issued.filter fun i => i.push.isSome).length < if hs then 4 else 16) →
    ∃ v, Issues (.vret f) s s1 1 hs k e r { held k e 0 with push := some v } ∧
      (f.vc = 1 → v = BitVec.ofNat 64 ((List.range 8192).filter (k.rm f.mask.toNat).getLsbD).length) ∧
      (f.vc = 2 → v = BitVec.ofNat 64 (((List.range 8192).find? (k.rm f.mask.toNat).getLsbD).getD 8192)) ∧
      (f.vc = 0 → let x := seen (.vret f) s s1 k hs e vals
        match (List.range (elems f.ty.toNat)).find? (x.active f.pfx f.mask f.ty.toNat) with
        | none => v = 0
        | some j => v = if isInt f.ty.toNat && isSigned f.ty.toNat then BitVec.ofInt 64 (intValue f.ty.toNat (raw f x f.va j))
            else BitVec.ofNat 64 (raw f x f.va j))

namespace Sys2Proof.Claims

/-! ### Vector loads and stores (R249 to R251) -/

/-- Offset from the handle's base at which element j lies: rows of 256 bytes from the scalar offset and the immediate, rows at a
stride taken from the CTQ, or an index element for each (R250). -/
inductive IsVectorAccess : Instr → VM → Bool → Nat → (Hd → Nat → Int) → Prop
  | vld (f : VM) : IsVectorAccess (.vld f) f true 0 fun x j =>
      x.e.xa.toInt + f.tail.toInt + 256 * (j / perRow f.ty.toNat : Nat) + (j % perRow f.ty.toNat * width f.ty.toNat / 8 : Nat)
  | vlds (f : VM) : IsVectorAccess (.vlds f) f true 0 fun x j =>
      x.e.xa.toInt + f.tail.toInt + x.tk.own.toInt * (j / perRow f.ty.toNat : Nat) + (j % perRow f.ty.toNat * width f.ty.toNat / 8 : Nat)
  | vgath (f : VM) : IsVectorAccess (.vgath f) f true 0 fun x j =>
      x.e.xa.toInt + ((x.k.rv (f.tail.setWidth 10 : VField).toNat).elem 32 j |> intValue 9)
  | vst (f : VM) : IsVectorAccess (.vst f) f false 2 fun x j =>
      x.e.xa.toInt + f.tail.toInt + 256 * (j / perRow f.ty.toNat : Nat) + (j % perRow f.ty.toNat * width f.ty.toNat / 8 : Nat)
  | vsts (f : VM) : IsVectorAccess (.vsts f) f false 2 fun x j =>
      x.e.xa.toInt + f.tail.toInt + x.tk.own.toInt * (j / perRow f.ty.toNat : Nat) + (j % perRow f.ty.toNat * width f.ty.toNat / 8 : Nat)
  | vscat (f : VM) : IsVectorAccess (.vscat f) f false 2 fun x j =>
      x.e.xa.toInt + ((x.k.rv (f.tail.setWidth 10 : VField).toNat).elem 32 j |> intValue 9)

/-- The accesses of a vector load or store, in their order: rows, or elements. -/
def accesses : Instr → Hd → List Acc
  | .vld f | .vst f => plainAccs f
  | .vlds f | .vsts f => strideAccs f
  | .vgath f | .vscat f => indexAccs f
  | _ => fun _ => []

/-! ### Tiles (R215 to R237) -/

/-- Slot n of the partition is EMPTY, and may be filled (R221, R358). -/
def slotEmpty (s : State) (t : Nat) (k : Task) (n : Nat) : Prop := s.view t k n = .empty

/-- A fetch of rows of a handle passes its checks (R226). -/
def fetchOk (h : Handle) (off : Int) (rows pitch w : Nat) : Prop := rowsFault h h.r off rows pitch w = none ∧ isDevReg h.base = false

/-- The tile that a fetch by the entry at position pos leaves in its slot, before any of its bytes has been read. -/
def fetched (t pos : Nat) (old : TSlot) (count : Nat) (tr : BitVec 2) : TSlot :=
  { state := .filling, owner := t, declared := count, shares := [(t, count)], gen := old.gen, poison := false, tr := tr.toNat,
    filler := pos, data := 0 }

/-- Place in a tile of byte j of source row r: as it stands, or column for row in elements of 1 or 2 bytes (R226). -/
def placeIn (tr : BitVec 2) (r j : Nat) : Nat :=
  if tr = 0 then 512 * r + j else if tr = 1 then 512 * j + r else 512 * (j / 2) + 2 * r + j % 2

/-- The reads of a fetch into physical slot p that are on their way: for each row, the address of every byte and its place, to which 65,536
(p + 1) is added. -/
def tileReads (p a rows pitch : Nat) (tr : BitVec 2) (cls pos : Nat) : List Access :=
  (List.range rows).map fun r =>
    .read ((List.range (rowWidth tr)).map fun j => (65536 * (p + 1) + placeIn tr r j, a + r * pitch + j)) cls pos

/-- The bytes that an item of the LDQ's stream reads: place and address. -/
def wanted : Access → List (Nat × Nat)
  | .read w _ _ => w
  | _ => []

/-- Item n of the LDQ's stream of task t, whose context is k, is a read for the issued entry it at position pos; it may be performed, and
no page of it is held (R185, R206, R328). -/
def mayRead (s : State) (t : Nat) (k : Task) (n : Nat) (want : List (Nat × Nat)) (cls pos : Nat) (it : Issued) : Prop :=
  find s.tasks t = some k ∧ k.ldqOut[n]? = some (.read want cls pos) ∧ mayPerform (.read want cls pos) (k.ldqOut.take n) = true ∧
    (∀ w ∈ want, s.heldAt w.2 = false) ∧ k.issuedAt pos = some it

/-- An issued entry whose reads are still to be performed. -/
def reading (e : Entry) (fills : List Nat) : Issued :=
  { entry := e, holding := true, busy := true, skipped := false, flags := 0, push := none, fills := fills, got := [], olds := [], oldm := [] }

/-- The slot of tile tl once a read by task t that is to be counted has taken place: the share is 1 less, and a slot without a share
is EMPTY, with its next generation, unless an MMA still reads it (R217, R218, R270). -/
def consumed (s : State) (c p : Nat) (tl : TSlot) (t : Nat) : TSlot :=
  let l := setShare tl.shares t (shareOf tl.shares t - 1)
  if s.mmaOn c p = false ∧ shareSum l = 0 then { TSlot.empty with gen := (tl.gen + 1) % 256 } else { tl with shares := l }

/-- As Issues, where the instruction also changes s1 to s2 beside the context. -/
def IssuesIn (i : Instr) (s s2 : State) (q : Nat) (hs : Bool) (k2 : Task) (e : Entry) (r : List Entry) (it : Issued) : Prop :=
  ∃ t, exec i s = .next t ∧ t.tasks = ins s2.tasks s.cur (k2.withSet hs (issuedSet i (k2.set hs) q e r it)) ∧
    t = { s2 with tasks := t.tasks }

/-- The tile in slot n of the partition of task o, whose context is ok, may be read by task t, its share counted down where c is set
(R218, R219). -/
def readableBy (s : State) (t o : Nat) (ok : Task) (n : Nat) (c : BitVec 1) (tl : TSlot) : Prop :=
  s.view o ok n = .tile tl ∧ tl.state = .live ∧ tl.poison = false ∧ shareSum tl.shares ≠ 0 ∧
    (o ≠ t → shareOf tl.shares t ≠ 0) ∧ (c = 1 → shareOf tl.shares t ≠ 0) ∧ noReads s o n

/-- The tile in slot n of the context's own partition may be read by it. -/
def readable (s : State) (t : Nat) (k : Task) (n : Nat) (c : BitVec 1) (tl : TSlot) : Prop := readableBy s t t k n c tl

/-- Beside the context's queues, windows and accesses on their way, t differs from s at most in memory, in tile slots and TLB entries of
the cores, in the sampling and the arena of the sites, and in the free value's counter. -/
def routedOnly (s t : State) (k : Task) : Prop :=
  t = { s with mem := t.mem, poison := t.poison, tick := t.tick, tasks := t.tasks, cores := t.cores, site0 := t.site0,
               site1 := t.site1, site2 := t.site2, site3 := t.site3, site4 := t.site4, site5 := t.site5, site6 := t.site6,
               site7 := t.site7 } ∧
  (∀ n, n ≠ s.cur → find t.tasks n = find s.tasks n) ∧
  t.task s.cur = { k with win := (t.task s.cur).win, ord := (t.task s.cur).ord, hnd := (t.task s.cur).hnd,
                          ldqOut := (t.task s.cur).ldqOut, stqOut := (t.task s.cur).stqOut, wid := (t.task s.cur).wid } ∧
  (∀ c, { t.core c with slots := (s.core c).slots, tlb := (s.core c).tlb } = s.core c) ∧
  ∀ n, { t.site n with sampled := (s.site n).sampled, shadow := (s.site n).shadow, arena := (s.site n).arena,
                       used := (s.site n).used } = s.site n

/-- The arena gives a block of n bytes, whichever channel the free value picks, and there is room for its name (R159, R200). -/
def blockFree (s : State) (k : Task) (hs : Bool) (n : Nat) : Prop :=
  (k.set hs).nrq.length + (k.set hs).names.length < (if hs then 4 else 32) ∧
    ∀ pick, ∃ i c j, s.choose k.die (s.ascOf k) (n / 4096) pick = .block i c j ∧ i ≤ 7 ∧ c < 32 ∧ s.unitGen i c j < 256

end Sys2Proof.Claims

open Sys2Proof Sys2Proof.Machine Sys2Proof.Claims

/-- A vector load whose handle, permission and ranges pass issues: its reads are on their way, for every byte of each selected element
its place in the register and its address, the least significant first; no register and no byte changes. -/
def Sys2Proof.Claims.VectorLoadIssues : Prop :=
  ∀ (i : Instr) (f : VM) (off : Hd → Nat → Int) (s s1 : State) (hs : Bool) (k : Task) (e : Entry) (r : List Entry)
    (vals : List CtqEntry), IsVectorAccess i f true 0 off → AtHead i s 0 hs k e r vals s1 →
    let x := seen i s s1 k hs e vals
    let act := x.active f.pfx f.mask f.ty.toNat
    let n := width f.ty.toNat / 8
    accFault e.h e.h.r (accesses i x) = none → isDevReg e.h.base = false →
    ∃ t rs, exec i s = .next t ∧ warmed s1 t ∧
      t.tasks = ins s1.tasks s.cur ({ k with ldqOut := k.ldqOut ++ rs }.withSet hs (issuedSet i (k.set hs) 0 e r
        (if rs = [] then held k e 0 else reading e []))) ∧
      (∀ a ∈ rs, ∃ w, a = .read w (match f.pfx with | some (.pxo c) => c.toNat | _ => f.cls.toNat) e.pos) ∧
      ∀ p a, (p, a) ∈ rs.flatMap wanted ↔ ∃ j b, j < elems f.ty.toNat ∧ act j = true ∧ b < n ∧ p = n * j + b ∧
        a = ((e.h.base : Int) + off x j).toNat + b

/-- A read of the LDQ for a tile slot that may be performed: while its entry fills the slot, the tile takes the bytes at their places, with
their poison; once that tile has been settled no slot takes them. The entry's work is over once no read of it is left. -/
def Sys2Proof.Claims.FillTakesBytes : Prop :=
  ∀ (s : State) (k : Task) (t n p pos cls : Nat) (want : List (Nat × Nat)) (it : Issued), mayRead s t k n want cls pos it →
    (∀ w ∈ want, w.1 / 65536 = p + 1) → (want.map fun w => w.1).Nodup →
    (∀ f, it.entry.instr ≠ .vld f ∧ it.entry.instr ≠ .vlds f ∧ it.entry.instr ≠ .vgath f) →
    let x := s.tslot k.coreKey p
    let fills : Prop := x.state = .filling ∧ x.owner = t ∧ x.filler = pos
    ∃ u, exec (.accessPerformed t n ⟨1, 0⟩) s = .next u ∧
      (fills → (u.tslot k.coreKey p).poison = (x.poison || want.any fun w => s.bad w.2) ∧
        (∀ w ∈ want, (u.tslot k.coreKey p).data.toNat / 2 ^ (8 * (w.1 % 65536)) % 2 ^ 8 =
          x.data.toNat / 2 ^ (8 * (w.1 % 65536)) % 2 ^ 8 ||| (s.byte w.2).toNat) ∧
        (∀ j, j < 65536 → (∀ w ∈ want, w.1 % 65536 ≠ j) → (u.tslot k.coreKey p).data.toNat / 2 ^ (8 * j) % 2 ^ 8 =
          x.data.toNat / 2 ^ (8 * j) % 2 ^ 8) ∧
        (u.tslot k.coreKey p).state = .filling ∧ (u.tslot k.coreKey p).shares = x.shares) ∧
      (¬fills → u.tslot k.coreKey p = x) ∧ (∀ q, q ≠ p → u.tslot k.coreKey q = s.tslot k.coreKey q) ∧
      (u.task t).ldqOut = dropFences (dropAt k.ldqOut n) ∧
      ((∀ a ∈ (u.task t).ldqOut, a.posOf ≠ some pos) →
        ∃ j, (u.task t).issuedAt pos = some j ∧ j.busy = false ∧ j.entry = it.entry) ∧
      ∀ a, u.byte a = s.byte a

/-- The last read of a vector load: each element all of whose bytes came without poison takes them, every other element and every
other register stays, a poisoned byte is a fault of the entry, 0x40, and the entry's work is over. -/
def Sys2Proof.Claims.LoadLands : Prop :=
  ∀ (i : Instr) (f : VM) (off : Hd → Nat → Int) (s : State) (k : Task) (t n pos cls : Nat) (want : List (Nat × Nat)) (it : Issued),
    IsVectorAccess i f true 0 off → it.entry.instr = i → mayRead s t k n want cls pos it → (∀ w ∈ want, w.1 < 65536) →
    8 ≤ width f.ty.toNat → (∀ a ∈ dropFences (dropAt k.ldqOut n), a.posOf ≠ some pos) →
    let got := it.got ++ want.map fun w => (w.1, s.byte w.2, s.bad w.2)
    let b := width f.ty.toNat / 8
    let whole (j : Nat) : Prop := ∀ c, c < b → ∃ v, (b * j + c, v, false) ∈ got
    (got.map fun g => g.1).Nodup →
    ∃ u, exec (.accessPerformed t n ⟨1, 0⟩) s = .next u ∧ u = { s with tasks := u.tasks } ∧ (∀ m, m ≠ t → find u.tasks m = find s.tasks m) ∧
      (u.task t).ldqOut = dropFences (dropAt k.ldqOut n) ∧
      (isVReg f.v = true → ∀ j, j < elems f.ty.toNat →
        (whole j → ∀ c v, c < b → (b * j + c, v, false) ∈ got → ((u.task t).rv f.v.toNat).elem 8 (b * j + c) = v.toNat) ∧
        (¬whole j → ((u.task t).rv f.v.toNat).elem (width f.ty.toNat) j = (k.rv f.v.toNat).elem (width f.ty.toNat) j)) ∧
      (∀ m, m ≠ f.v.toNat ∨ isVReg f.v = false → (u.task t).rv m = k.rv m) ∧
      (∃ j, (u.task t).issuedAt pos = some j ∧ j.busy = false ∧ j.entry = it.entry) ∧
      ((∃ g ∈ got, g.2.2 = true) ↔ ∃ hs, ((u.task t).set hs).ldq.late ≠ (k.set hs).ldq.late) ∧
      ∀ hs fl, fl ∈ ((u.task t).set hs).ldq.late → fl ∈ (k.set hs).ldq.late ∨ fl.cause = 0x40 ∧ fl.addr = it.entry.pc

/-- A vector load: its issue, and its last read. -/
def Obligations.VectorLoads : Prop := VectorLoadIssues ∧ LoadLands

/-- A vector store whose checks pass hands the bytes of every selected element, at its address, to the STQ's stream; memory and
registers do not change before they are performed. -/
def Obligations.VectorStores : Prop :=
  ∀ (i : Instr) (f : VM) (off : Hd → Nat → Int) (s s1 : State) (hs : Bool) (k : Task) (e : Entry) (r : List Entry)
    (vals : List CtqEntry), IsVectorAccess i f false 2 off → AtHead i s 2 hs k e r vals s1 →
    let x := seen i s s1 k hs e vals
    let act := x.active f.pfx f.mask f.ty.toNat
    accFault e.h e.h.w (accesses i x) = none → isDevReg e.h.base = false →
    (k.fw = true ∨ ∀ j, j < elems f.ty.toNat → act j = true →
      s1.readOnly ((e.h.base : Int) + off x j).toNat (width f.ty.toNat / 8) = false) →
    ∃ t ws, exec i s = .next t ∧ warmed s1 t ∧ (∀ a, t.byte a = s.byte a) ∧
      t.tasks = ins s1.tasks s.cur ({ k with stqOut := k.stqOut ++ ws, wid := k.wid + 1 }.withSet hs
        (issuedSet i (k.set hs) 2 e r (held k e 0))) ∧
      (∀ w ∈ ws, ∃ cells, w = .write cells (match f.pfx with | some (.pxo c) => c.toNat | _ => f.cls.toNat) k.wid e.pos) ∧
      ∀ a b, (a, b) ∈ ws.flatMap Access.cells ↔ ∃ j, j < elems f.ty.toNat ∧ act j = true ∧
        (a, b) ∈ cellsAt ((e.h.base : Int) + off x j).toNat (bytesOf (width f.ty.toNat / 8) (x.src f.ty.toNat f.v j))

/-- The checks of a vector access at its head: validity 0x08, permission 0x0A, range 0x09 at the first access outside; no register
and no byte changes. -/
def Sys2Proof.Claims.VectorAccessFaults : Prop :=
  ∀ (i : Instr) (f : VM) (ld : Bool) (q : Nat) (off : Hd → Nat → Int) (s s1 : State) (hs : Bool) (k : Task) (e : Entry)
    (r : List Entry) (vals : List CtqEntry) (c : Byte) (d : W64), IsVectorAccess i f ld q off → AtHead i s q hs k e r vals s1 →
    accFault e.h (if ld then e.h.r else e.h.w) (accesses i (seen i s s1 k hs e vals)) = some (c, d) →
    (c = 0x08 ∨ c = 0x0A ∨ c = 0x09) ∧ ∃ t, exec i s = .next t ∧
      (((t.task s.cur).set hs).rq q).fault =
        some { cause := c, addr := e.pc, data := d, src := q + 1, await := 0, pos := e.pos } ∧
      (t.task s.cur).v = k.v ∧ (t.task s.cur).stqOut = k.stqOut ∧ ∀ a, t.byte a = s.byte a

/-- A vector store of a user context of which an element lies in a page that a slot maps read-only raises 0x0A at its head, with the
element's offset; no register and no byte changes (R58, R85). -/
def Sys2Proof.Claims.VectorReadOnly : Prop :=
  ∀ (i : Instr) (f : VM) (off : Hd → Nat → Int) (s s1 : State) (hs : Bool) (k : Task) (e : Entry) (r : List Entry)
    (vals : List CtqEntry) (j : Nat), IsVectorAccess i f false 2 off → AtHead i s 2 hs k e r vals s1 →
    let x := seen i s s1 k hs e vals
    let bad (j : Nat) : Prop := j < elems f.ty.toNat ∧ x.active f.pfx f.mask f.ty.toNat j = true ∧
      s1.readOnly ((e.h.base : Int) + off x j).toNat (width f.ty.toNat / 8) = true
    accFault e.h e.h.w (accesses i x) = none → isDevReg e.h.base = false → k.fw = false → bad j →
    ∃ t d m, exec i s = .next t ∧ bad m ∧ d = BitVec.ofInt 64 (off x m) ∧ (((t.task s.cur).set hs).rq 2).fault =
        some { cause := 0x0A, addr := e.pc, data := d, src := 3, await := 0, pos := e.pos } ∧
      (t.task s.cur).v = k.v ∧ (t.task s.cur).stqOut = k.stqOut ∧ ∀ a, t.byte a = s.byte a

/-- Accesses that fail the checks of their handle, and stores into a page that a slot maps read-only, raise the cause the rules give, at
the slice or at the head of their queue; no register and no byte changes. Which element is reported where several lie in such a page, and
that the page is read-only through any mapping, are log 47. -/
def Obligations.AccessFaults : Prop := ScalarAccessFaults ∧ VectorAccessFaults ∧ VectorReadOnly

/-- NSTV with a block to be had: a name of the block waits for its push, the block reads as zero but for the rows on their way, and the
rows of the registers are on their way to its start. The addresses of blocks and the channel are the model's (logs 8 and 17). -/
def Obligations.NamelessStore : Prop :=
  ∀ (f : VM) (s s1 : State) (hs : Bool) (k : Task) (e : Entry) (r : List Entry) (vals : List CtqEntry),
    AtHead (.nstv f) s 2 hs k e r vals s1 → blockFree s1 k hs f.block →
    ∃ t nm, exec (.nstv f) s = .next t ∧ t.blockOf (s.ascOf k) nm = some f.block ∧
      ((t.task s.cur).set hs).names = (k.set hs).names ++ [{ name := nm, wid := k.wid }] ∧
      (t.task s.cur).stqOut = k.stqOut ++ (if f.count = 0 then [] else [.write
        (cellsAt (nameAddr nm) (nstvBytes f (seen (.nstv f) s s1 k hs e vals)))
        (match f.pfx with | some (.pxo c) => c.toNat | _ => f.cls.toNat) k.wid e.pos]) ∧
      (∀ a, nameAddr nm ≤ a → a < nameAddr nm + f.block → t.byte a = 0) ∧
      (∀ a, a < nameAddr nm ∨ nameAddr nm + f.block ≤ a → t.byte a = s.byte a) ∧ routedOnly s1 t k

/-- TFETCH into an EMPTY slot: the slot is FILLING, its declared count is the context's share, the reads of the rows are on their way,
and the entry completes when the fill does. -/
def Sys2Proof.Claims.FetchStarts : Prop :=
  ∀ (f : TL) (s s1 : State) (hs : Bool) (k : Task) (e : Entry) (r : List Entry) (vals : List CtqEntry) (rows pitch : Nat),
    AtHead (.tfetch f) s 0 hs k e r vals s1 → slotEmpty s1 s.cur k f.ta.toNat →
    shapeOf e.xb.toNat (rowWidth f.tr) = some (rows, pitch) → fetchOk e.h e.xa.toInt rows pitch (rowWidth f.tr) →
    let p := k.partBase + f.ta.toNat
    let cls := match f.pfx with | some (.pxo c) => c.toNat | _ => f.cls.toNat
    ∃ t, exec (.tfetch f) s = .next t ∧ (∀ a, t.byte a = s.byte a) ∧
      t.tasks = ins s1.tasks s.cur ({ k with ldqOut := k.ldqOut ++ tileReads p (e.h.addr e.xa.toInt) rows pitch f.tr cls e.pos }.withSet hs
        (issuedSet (.tfetch f) (k.set hs) 0 e r (reading e [p]))) ∧
      t.tslot k.coreKey p = fetched s.cur e.pos (s1.tslot k.coreKey p) f.n12.toNat f.tr ∧
      (∀ q, q ≠ p → t.tslot k.coreKey q = s1.tslot k.coreKey q) ∧ routedOnly s1 t k

/-- TFETCH: its start, and each of its reads. -/
def Obligations.TileFetch : Prop := FetchStarts ∧ FillTakesBytes

/-- TWIN with a legal descriptor, its slots EMPTY and its groups in range, declares the window and starts the fetch of as many groups
as it has slots. -/
def Sys2Proof.Claims.WindowDeclared : Prop :=
  ∀ (f : TL) (s s1 : State) (hs : Bool) (k : Task) (e : Entry) (r : List Entry) (vals : List CtqEntry) (w : Window),
    AtHead (.twin f) s 0 hs k e r vals s1 → windowOf f e = some w → w.first + w.size ≤ k.partSize →
    k.window (e.xb.toNat / 2 ^ 32 % 4) = none →
    (∀ g, g < min w.size w.groups → slotEmpty s1 s.cur k (w.first + g) ∧
      fetchOk e.h (w.off + (g * w.rows * w.pitch : Nat)) w.rows w.pitch (rowWidth f.tr)) →
    ∃ t, exec (.twin f) s = .next t ∧ (∀ a, t.byte a = s.byte a) ∧
      (t.task s.cur).window (e.xb.toNat / 2 ^ 32 % 4) = some { w with next := min w.size w.groups } ∧
      (((t.task s.cur).set hs).rq 0).entries = r ∧ routedOnly s1 t k ∧
      (t.task s.cur).ldqOut = k.ldqOut ++ (List.range (min w.size w.groups)).flatMap (fun g =>
        tileReads (k.partBase + (w.first + g)) (e.h.addr (w.off + (g * w.rows * w.pitch : Nat))) w.rows w.pitch f.tr w.cls e.pos) ∧
      ∀ g, g < min w.size w.groups → t.tslot k.coreKey (k.partBase + (w.first + g)) =
        fetched s.cur e.pos (s1.tslot k.coreKey (k.partBase + (w.first + g))) w.count f.tr

/-- TADV, its oldest slot EMPTY: while groups are left the next one is fetched into it, in the window's class or the one that a PXO prefix
gives, and the window turns by one slot. -/
def Sys2Proof.Claims.WindowAdvances : Prop :=
  ∀ (f : TL) (s s1 : State) (hs : Bool) (k : Task) (e : Entry) (r : List Entry) (vals : List CtqEntry) (w : Window),
    AtHead (.tadv f) s 0 hs k e r vals s1 → k.window f.ta.toNat = some w → slotEmpty s1 s.cur k (w.first + w.oldest) →
    (w.groups ≤ w.next → Issues (.tadv f) s s1 0 hs (k.setWindow f.ta.toNat { w with oldest := (w.oldest + 1) % w.size }) e r (held k e 0)) ∧
    (w.next < w.groups →
      fetchOk w.h (w.off + (w.next * w.rows * w.pitch : Nat)) w.rows w.pitch (rowWidth (BitVec.ofNat 2 w.tr)) →
      let p := k.partBase + (w.first + w.oldest)
      ∃ t, exec (.tadv f) s = .next t ∧ (∀ a, t.byte a = s.byte a) ∧
        (t.task s.cur).window f.ta.toNat = some { w with next := w.next + 1, oldest := (w.oldest + 1) % w.size } ∧
        routedOnly s1 t k ∧
        (t.task s.cur).ldqOut = k.ldqOut ++ tileReads p (w.h.addr (w.off + (w.next * w.rows * w.pitch : Nat))) w.rows w.pitch
          (BitVec.ofNat 2 w.tr) (match f.pfx with | some (.pxo c) => c.toNat | _ => w.cls % 16) e.pos ∧
        t.tslot k.coreKey p = fetched s.cur e.pos (s1.tslot k.coreKey p) w.count (BitVec.ofNat 2 w.tr))

/-- The windows of TWIN and TADV. -/
def Obligations.TileWindows : Prop := WindowDeclared ∧ WindowAdvances

/-- TSHARE gives c of the context's count in its tile to a holder of the same packet; the sum of the shares stays. -/
def Sys2Proof.Claims.TileShare : Prop :=
  ∀ (f : TL) (s s1 : State) (hs : Bool) (k : Task) (e : Entry) (r : List Entry) (vals : List CtqEntry) (tl : TSlot) (v : Nat),
    AtHead (.tshare f) s 0 hs k e r vals s1 → s1.view s.cur k f.ta.toNat = .tile tl → noReads s s.cur f.ta.toNat →
    k.mmaReads f.ta.toNat = false → e.xa.toNat ≤ 8 → 1 ≤ e.xb.toNat → e.xb.toNat ≤ shareOf tl.shares s.cur → s1.holderOf s.cur k e.xa.toNat = some v → v ≠ s.cur →
    (s1.task v).packet = k.packet →
    let l := setShare (setShare tl.shares s.cur (shareOf tl.shares s.cur - e.xb.toNat)) v
      (shareOf (setShare tl.shares s.cur (shareOf tl.shares s.cur - e.xb.toNat)) v + e.xb.toNat)
    l.length ≤ 4 →
    ∃ t, exec (.tshare f) s = .next t ∧ (t.tslot k.coreKey (k.partBase + f.ta.toNat)) = { tl with shares := l } ∧
      shareOf l s.cur = shareOf tl.shares s.cur - e.xb.toNat ∧ shareOf l v = shareOf tl.shares v + e.xb.toNat ∧
      (((t.task s.cur).set hs).rq 0).entries = r ∧ routedOnly s1 t k ∧ ∀ a, t.byte a = s.byte a

/-- The shares in a tile: given to another context, and given up. -/
def Obligations.TileShares : Prop := TsettleOwn ∧ TileShare

/-- TPARK of a readable tile, with a block of 64 KiB to be had: the slot is EMPTY with its generation advanced, the block keeps the
tile's declared count and shares, its name waits for its push and its bytes are on their way. -/
def Sys2Proof.Claims.TilePark : Prop :=
  ∀ (f : TL) (s s1 : State) (hs : Bool) (k : Task) (e : Entry) (r : List Entry) (vals : List CtqEntry) (tl : TSlot),
    AtHead (.tpark f) s 2 hs k e r vals s1 → readable s1 s.cur k f.ta.toNat 0 tl → k.mmaReads f.ta.toNat = false →
    blockFree s1 k hs 65536 →
    ∃ t nm, exec (.tpark f) s = .next t ∧ t.blockOf (s.ascOf k) nm = some 65536 ∧
      t.tslot k.coreKey (k.partBase + f.ta.toNat) = { TSlot.empty with gen := (tl.gen + 1) % 256 } ∧
      t.parkedOf nm = some { declared := tl.declared, owner := shareOf tl.shares s.cur, shares := setShare tl.shares s.cur 0,
                             tr := tl.tr, poison := false } ∧
      ((t.task s.cur).set hs).names = (k.set hs).names ++ [{ name := nm, wid := k.wid }] ∧
      (t.task s.cur).stqOut = k.stqOut ++ [.write (cellsAt (nameAddr nm) (bytesOf 65536 tl.data.toNat))
        (match f.pfx with | some (.pxo c) => c.toNat | _ => f.cls.toNat) k.wid e.pos] ∧
      routedOnly s1 t k ∧ ∀ a, a < nameAddr nm ∨ nameAddr nm + 65536 ≤ a → t.byte a = s.byte a

/-- TUNPARK of a parked tile into an EMPTY slot: the slot is FILLING with the shares kept, the owner's among them, and the reads of the
block are on their way; the name keeps its block until the entry completes. -/
def Sys2Proof.Claims.TileUnpark : Prop :=
  ∀ (f : TL) (s s1 : State) (hs : Bool) (k : Task) (e : Entry) (r : List Entry) (vals : List CtqEntry) (p : Parked) (n : Nat),
    AtHead (.tunpark f) s 0 hs k e r vals s1 → s1.handing (nameSite e.xa.toNat) = false →
    s1.blockOf (s.ascOf k) e.xa.toNat = some n → s1.parkedOf e.xa.toNat = some p →
    (s1.site (nameSite e.xa.toNat)).owner = k.die → slotEmpty s1 s.cur k f.ta.toNat → shareSum p.shares + p.owner ≠ 0 →
    ∃ t, exec (.tunpark f) s = .next t ∧
      t.tslot k.coreKey (k.partBase + f.ta.toNat) =
        { state := .filling, owner := s.cur, declared := p.declared,
          shares := setShare p.shares s.cur (shareOf p.shares s.cur + p.owner),
          gen := (s1.tslot k.coreKey (k.partBase + f.ta.toNat)).gen, poison := p.poison, tr := p.tr, filler := e.pos, data := 0 } ∧
      (t.task s.cur).ldqOut = k.ldqOut ++ tileReads (k.partBase + f.ta.toNat) (nameAddr e.xa.toNat) 128 512 0
        (match f.pfx with | some (.pxo c) => c.toNat | _ => 0) e.pos ∧
      t.parkedOf e.xa.toNat = none ∧ t.blockOf (s.ascOf k) e.xa.toNat = some n ∧ (((t.task s.cur).set hs).rq 0).entries = r ∧
      (∀ a, t.byte a = s.byte a) ∧ routedOnly s1 t k

/-- A TUNPARK completes once its tile is LIVE, and relinquishes its name; the last read of it leaves the name its block. -/
def Sys2Proof.Claims.UnparkEnds : Prop :=
  (∀ (f : TL) (s : State) (hs : Bool) (k : Task) (t : Nat) (it : Issued) (r : List Issued), it.entry.instr = .tunpark f →
    find s.tasks t = some k → (k.set hs).ldq.issued = it :: r → it.skipped = false → it.busy = false → it.holding = false →
    (∀ p ∈ it.fills, (s.tslot k.coreKey p).state = .filling → (s.tslot k.coreKey p).owner = t → (s.tslot k.coreKey p).filler ≠ it.entry.pos) →
    ∃ u, exec (.entryComplete t 0 hs) s = .next u ∧ u.blockOf (s.ascOf k) it.entry.xa.toNat = none ∧
      ((u.task t).set hs).ldq.issued.length = r.length ∧ ∀ a, u.byte a = s.byte a) ∧
  ∀ (f : TL) (s : State) (k : Task) (t n pos cls : Nat) (want : List (Nat × Nat)) (it : Issued), it.entry.instr = .tunpark f →
    mayRead s t k n want cls pos it → (∀ a ∈ dropFences (dropAt k.ldqOut n), a.posOf ≠ some pos) →
    ∃ u, exec (.accessPerformed t n ⟨1, 0⟩) s = .next u ∧
      (∀ asc nm, u.blockOf asc nm = s.blockOf asc nm) ∧ (∀ a, u.byte a = s.byte a) ∧
      ∃ j, (u.task t).issuedAt pos = some j ∧ j.busy = false ∧ j.entry = it.entry

/-- TPARK and TUNPARK. The addresses of blocks are the model's (log 17). -/
def Obligations.TileParking : Prop := TilePark ∧ TileUnpark ∧ UnparkEnds

/-- VLDT of a readable tile, and VLDX of one that its selector names, its own or another context's: the read is on its way, and nothing
else changes. -/
def Sys2Proof.Claims.TileReadIssues : Prop :=
  ∀ (f : TL) (s s1 : State) (hs : Bool) (k : Task) (e : Entry) (r : List Entry) (vals : List CtqEntry) (tl : TSlot) (i : Instr) (o : Nat),
    (i = .vldt f ∧ o = s.cur ∨ i = .vldx f ∧ e.xb.toNat ≤ 8 ∧ s1.holderOf s.cur k e.xb.toNat = some o) → AtHead i s 0 hs k e r vals s1 →
    readableBy s1 s.cur o (s1.task o) f.ta.toNat f.c tl → e.xa.toNat % 256 = 0 → e.xa.toNat ≤ 57344 →
    Issues i s s1 0 hs { k with ldqOut := k.ldqOut ++ [.tile o f.ta.toNat e.xa.toNat (decide (f.c = 1)) e.pos] } e r (reading e [])

/-- The read of VLDT or VLDX takes place: the register is 8 KiB of the tile from the offset, every other register is as it was, a
consuming read counts the share down, and the entry's work is over. Of a tile that the read would empty, the case that no other read of it has
issued. -/
def Sys2Proof.Claims.TileToRegister : Prop :=
  ∀ (f : TL) (s : State) (k : Task) (t n o m off pos : Nat) (c : Bool) (tl : TSlot) (it : Issued), find s.tasks t = some k →
    k.ldqOut[n]? = some (.tile o m off c pos) → k.issuedAt pos = some it → (it.entry.instr = .vldt f ∨ it.entry.instr = .vldx f) →
    s.view o (s.task o) m = .tile tl → off ≤ 57344 → Access.tile o m off c pos ∉ dropAt k.ldqOut n →
    (c = true → shareSum (setShare tl.shares t (shareOf tl.shares t - 1)) = 0 → s.tileQueue o m = [(t, .tile o m off c pos)]) →
    ∃ u, exec (.accessPerformed t n ⟨1, 0⟩) s = .next u ∧ (u.task t).ldqOut = dropAt k.ldqOut n ∧
      (isVReg f.vd = true → ∀ j, j < 8192 → ((u.task t).rv f.vd.toNat).elem 8 j = tl.data.toNat / 2 ^ (8 * (off + j)) % 2 ^ 8) ∧
      (∀ q, q ≠ f.vd.toNat ∨ isVReg f.vd = false → (u.task t).rv q = k.rv q) ∧
      (∃ j, (u.task t).issuedAt pos = some j ∧ j.busy = false ∧ j.entry = it.entry) ∧
      (∀ q, q ≠ t → find u.tasks q = find s.tasks q) ∧ u = { s with tasks := u.tasks, cores := u.cores } ∧
      (c = false → u.cores = s.cores) ∧
      (c = true → u.tslot (s.task o).coreKey ((s.task o).partBase + m) =
        consumed s (s.task o).coreKey ((s.task o).partBase + m) tl t)

/-- TWR into an EMPTY slot: eight registers in turn are its 64 KiB. -/
def Sys2Proof.Claims.RegistersToTile : Prop :=
  ∀ (f : TL) (s s1 : State) (hs : Bool) (k : Task) (e : Entry) (r : List Entry) (vals : List CtqEntry),
    AtHead (.twr f) s 2 hs k e r vals s1 → slotEmpty s1 s.cur k f.ta.toNat →
    ∃ t tl, exec (.twr f) s = .next t ∧ t.tslot k.coreKey (k.partBase + f.ta.toNat) = tl ∧ tl.state = .filling ∧ tl.owner = s.cur ∧
      tl.declared = f.n12.toNat ∧ tl.shares = [(s.cur, f.n12.toNat)] ∧
      (∀ n, n < 8 → ∀ j, j < 8192 → tl.data.toNat / 2 ^ (8 * (8192 * n + j)) % 2 ^ 8 = (k.rv (f.va.toNat + n)).elem 8 j) ∧
      t = { s1 with tasks := ins s1.tasks s.cur (k.withSet hs (issuedSet (.twr f) (k.set hs) 2 e r (held k e 0))), cores := t.cores }

/-- TWB of a readable tile, its rows in range, hands the rows of 512 bytes at the pitch to the STQ's stream. -/
def Sys2Proof.Claims.TileWriteBack : Prop :=
  ∀ (f : TL) (s s1 : State) (hs : Bool) (k : Task) (e : Entry) (r : List Entry) (vals : List CtqEntry) (tl : TSlot) (rows pitch : Nat),
    AtHead (.twb f) s 2 hs k e r vals s1 → readable s1 s.cur k f.ta.toNat f.c tl →
    shapeOf e.xb.toNat 512 = some (rows, pitch) → rowsFault e.h e.h.w e.xa.toInt rows pitch 512 = none → isDevReg e.h.base = false →
    (k.fw = true ∨ ∀ n, n < rows → s1.readOnly (e.h.addr e.xa.toInt + n * pitch) 512 = false) →
    ∃ t, exec (.twb f) s = .next t ∧ (∀ a, t.byte a = s.byte a) ∧
      (t.task s.cur).stqOut = k.stqOut ++ (List.range rows).map (fun n => .write
        (cellsAt (e.h.addr e.xa.toInt + n * pitch) (bytesOf 512 (tl.data.toNat / 2 ^ (4096 * n) % 2 ^ 4096)))
        (match f.pfx with | some (.pxo c) => c.toNat | _ => f.cls.toNat) k.wid e.pos) ∧
      (f.c = 1 → t.tslot k.coreKey (k.partBase + f.ta.toNat) = consumed s1 k.coreKey (k.partBase + f.ta.toNat) tl s.cur) ∧
      (((t.task s.cur).set hs).rq 2).entries = r ∧ routedOnly s1 t k

/-- VLDT and VLDX with their reads, TWR, TWB. -/
def Obligations.TileTransfers : Prop := TileReadIssues ∧ TileToRegister ∧ RegistersToTile ∧ TileWriteBack

/-! ### Matrix and conversion (R263 to R282) -/

/-- The rational number that an exact value is, if it is one. -/
def Sys2Proof.Claims.rat : Machine.Num → Option Rat
  | .fin neg n d => some (if neg then -((n : Rat) / d) else (n : Rat) / d)
  | _ => none

/-- MMA with a format entry and two readable tiles issues: the format entry is popped, and the entry is busy until its last group. -/
def Sys2Proof.Claims.MmaIssues : Prop :=
  ∀ (f : MX) (s s1 : State) (hs : Bool) (k : Task) (e : Entry) (r : List Entry) (vals : List CtqEntry) (a b : TSlot)
    (desc : BitVec 10) (band : W64) (fr : List (BitVec 10 × W64)), AtHead (.mma f) s 1 hs k e r vals s1 →
    k.fmtq = (desc, band) :: fr → readable s1 s.cur k f.ta.toNat f.ac a → readable s1 s.cur k f.tb.toNat f.bc b →
    ∃ t run, exec (.mma f) s = .next t ∧ t.tasks = ins s1.tasks s.cur ({ k with fmtq := fr, mma := some run }.withSet hs
        (issuedSet (.mma f) (k.set hs) 1 e r { held k e 0 with busy := true })) ∧
      run.held = true ∧ run.acc = f.acc.toNat ∧ run.next = 0 ∧ run.desc = desc ∧ run.band = band ∧ run.stopped = false ∧
      (∀ i, i < 128 → run.rows.getLsbD i =
        ((k.rm f.mask.toNat).getLsbD i && decide (4 * (rowRange f.pfx).1 ≤ i) && decide (i ≤ 4 * (rowRange f.pfx).2 + 3))) ∧
      t = { s1 with tasks := t.tasks, cores := t.cores } ∧ (t.core k.coreKey).mmas = (s1.core k.coreKey).mmas + 1

/-- A running MMA that holds the unit takes its next group: the accumulator holds what microStep gives, and the MMA is over after its
last group, counting the consuming reads of its tiles down. -/
def Sys2Proof.Claims.MmaGroup : Prop :=
  ∀ (s : State) (k : Task) (f : MX) (m : MmaRun) (it : Issued), find s.tasks s.cur = some k → k.mma = some m → m.stopped = false →
    m.held = true → noReads s s.cur f.ta.toNat → noReads s s.cur f.tb.toNat → racing (k.ord.others 1) ((Instr.mma f).blockScales m.desc) = ([], []) → k.phase = .running → k.inTrap = false → k.ord.cmq.issued = [it] → it.busy = true → it.entry.instr = .mma f →
    let g := microStep k f m (s.tileData s.cur k f.ta.toNat) (s.tileData s.cur k f.tb.toNat)
    ∃ t, exec .mmaMicroStep s = .next t ∧ (t.task s.cur).racc m.acc = g.1 ∧
      (∀ n, n ≠ m.acc → (t.task s.cur).racc n = k.racc n) ∧
      (m.next + 1 < microSteps m → t = upd s { k with
        acc := (t.task s.cur).acc, mma := some { m with next := m.next + 1 },
        ord := { k.ord with cmq := { k.ord.cmq with issued := [{ it with flags := it.flags ||| g.2 }] } } }) ∧
      (microSteps m ≤ m.next + 1 → t = { s with tasks := t.tasks, cores := t.cores } ∧ t.tasks = ins s.tasks s.cur { k with
        acc := (t.task s.cur).acc, mma := none,
        ord := { k.ord with cmq := { k.ord.cmq with issued := [{ it with flags := it.flags ||| g.2, busy := false }] } } } ∧
        (f.ta ≠ f.tb → ∀ tl, (s.view s.cur k f.ta.toNat = .tile tl → f.ac = 1 → t.tslot k.coreKey (k.partBase + f.ta.toNat) =
            consumed t k.coreKey (k.partBase + f.ta.toNat) tl s.cur) ∧
          (s.view s.cur k f.tb.toNat = .tile tl → f.bc = 1 → t.tslot k.coreKey (k.partBase + f.tb.toNat) =
            consumed t k.coreKey (k.partBase + f.tb.toNat) tl s.cur)))

/-- The operand values of an MMA: an element of the tile times, in scale mode 2, the block scale of its eight, and in modes 1 and 2 the
band scale of its 64 rows; exact (R78, R263, R267, R278). -/
def Sys2Proof.Claims.OperandValues : Prop :=
  ∀ (k : Task) (tile T mode reg lo hi i j : Nat) (x blk band : Rat),
    rat (valueOf T (tile / 2 ^ (4096 * i + width T * j) % 2 ^ width T)) = some x →
    (if mode = 2 then rat (valueOf 6 ((k.rv (reg + i / 64)).elem 8 (i % 64 * 128 + j / 8))) = some blk else blk = 1) →
    (if mode = 0 then band = 1 else rat (valueOf 1 (if i < 64 then lo else hi)) = some band) →
    rat (mmaVal k tile T mode reg lo hi i j).1 = some (x * blk * band)

/-- One group of an MMA: for an element of an active row the 32 products are summed exactly, the sum is rounded once to f32 and the
accumulator's sum with it once more, to the nearest; every other row stays (R80, R81). -/
def Sys2Proof.Claims.GroupSums : Prop :=
  ∀ (k : Task) (f : MX) (m : MmaRun) (ta tb i j : Nat), i < 128 → j < 128 →
    let d := m.desc.toNat
    let band (n : Nat) := m.band.toNat / 2 ^ (16 * n) % 65536
    let a (n : Nat) := (mmaVal k ta (formatType (d % 8)) (d / 64 % 4) f.va.toNat (band 0) (band 1) i (32 * m.next + n)).1
    let b (n : Nat) := (mmaVal k tb (formatType (d / 8 % 8)) (d / 256 % 4) f.vb.toNat (band 2) (band 3) j (32 * m.next + n)).1
    let md : Mode := { modeOf f.pfx with rnd := 0 }
    let acc := k.racc m.acc
    let new := (microStep k f m ta tb).1
    (m.rows.getLsbD i = false → new.elem i j = acc.elem i j) ∧
    (m.rows.getLsbD i = true → new.written.getLsbD i = true ∧ ∃ s, new.elem i j =
        (roundTo (addN false (valueOf 0 (acc.elem i j)) (valueOf 0 (roundTo s 0 md 0).1)).1 0 md 0).1 % 2 ^ 32 ∧
      ∀ x y : Nat → Rat, (∀ n, n < 32 → rat (a n) = some (x n) ∧ rat (b n) = some (y n)) →
        rat s = some ((List.range 32).map fun n => x n * y n).sum)

/-- MMA: its issue, its groups one after the other, and what a group computes. -/
def Obligations.MatrixRuns : Prop := MmaIssues ∧ MmaGroup ∧ OperandValues ∧ GroupSums

/-- ACCZ: every element of every active row of the accumulator becomes +0 and the row is marked written, every other row is as it was,
and no flag is set; `ACCZ a0` is the word of the example (R279). -/
def Obligations.AccumulatorClear : Prop :=
  (∀ (f : MX) (s s1 : State) (hs : Bool) (k : Task) (e : Entry) (r : List Entry) (vals : List CtqEntry),
    AtHead (.accz f) s 1 hs k e r vals s1 →
      ∃ a, Issues (.accz f) s s1 1 hs { k with acc := put Accum.empty k.acc f.acc.toNat a } e r (held k e 0) ∧
        (∀ i, i < 128 → a.written.getLsbD i = ((seen (.accz f) s s1 k hs e vals).rows f i || (k.racc f.acc.toNat).written.getLsbD i)) ∧
        ∀ i j, i < 128 → j < 128 → a.elem i j =
          if (seen (.accz f) s s1 k hs e vals).rows f i then 0 else (k.racc f.acc.toNat).elem i j) ∧
  decodeWords [0x00001071, 0] = .ok (.accz { pfx := none, tok := 0, acc := 0, hint := 0, ta := 0, ac := 0, tb := 0, bc := 0, va := 0,
                                             vb := 0, mask := 0, ty := 0 }) 8

/-- ACCLD and ACCRD: the rows that mask and range select take the values of registers, or go to registers scaled and rounded; no other
row and no other accumulator changes. -/
def Obligations.AccumulatorMoves : Prop :=
  ∀ (f : MX) (s s1 : State) (hs : Bool) (k : Task) (e : Entry) (r : List Entry) (vals : List CtqEntry),
    (AtHead (.accld f) s 1 hs k e r vals s1 →
      ∃ a, Issues (.accld f) s s1 1 hs { k with acc := put Accum.empty k.acc f.acc.toNat a } e r (held k e 0) ∧
        ∀ i j, i < 128 → j < 128 → a.elem i j = if (seen (.accld f) s s1 k hs e vals).rows f i then
          (roundTo (valueOf f.ty.toNat (runSrc (seen (.accld f) s s1 k hs e vals) f.ty.toNat f.va (128 * i + j))) 0 Mode.default 0).1
            % 2 ^ 32
          else (k.racc f.acc.toNat).elem i j) ∧
    (AtHead (.accrd f) s 1 hs k e r vals s1 → f.ty.toNat ≤ 4 →
      let x := seen (.accrd f) s s1 k hs e vals
      ∃ v fl, Issues (.accrd f) s s1 1 hs (withV k v) e r (held k e fl) ∧ (isVReg f.va = false → v = k.v) ∧
        (∀ n, (n < f.va.toNat ∨ f.va.toNat + accRun f.ty.toNat ≤ n) → get VReg.empty v n = k.rv n) ∧
        (isVReg f.va = true → ∀ i j, i < 128 → j < 128 →
          let n := f.va.toNat + (128 * i + j) / elems f.ty.toNat
          (get VReg.empty v n).elem (width f.ty.toNat) ((128 * i + j) % elems f.ty.toNat) =
            if x.rows f i then (roundTo (mulN (valueOf 0 ((k.racc f.acc.toNat).elem i j)) (valueOf 0 (x.src 0 f.vb i))).1 f.ty.toNat
              (modeOf f.pfx) (x.rand (modeOf f.pfx) (128 * i + j))).1 % 2 ^ width f.ty.toNat
            else (k.rv n).elem (width f.ty.toNat) ((128 * i + j) % elems f.ty.toNat)))

/-- A finite value of floating type T (R61). -/
def Sys2Proof.Claims.IsMember (T : Nat) (z : Rat) : Prop := ∃ b, b < 2 ^ width T ∧ rat (valueOf T b) = some z

/-- The magnitude of the largest finite value of T, and of the least normal one (R61). -/
def Sys2Proof.Claims.largest (T : Nat) (z : Rat) : Prop := rat (valueOf T (maxFinite T)) = some z
def Sys2Proof.Claims.leastNormal (T : Nat) (z : Rat) : Prop := rat (valueOf T (2 ^ mant T)) = some z

/-- A rational value within the range of floating type T rounds to the member that the mode chooses: to the nearest, the last bit
even or the greater magnitude at a tie; toward zero, down, up; or at random, up where the random value says so. The sign stays, NX says that
the result is inexact, and UF that the value was below the normal ones as well (R65, R67). -/
def Sys2Proof.Claims.RoundsFloat : Prop :=
  ∀ (T n d r : Nat) (neg : Bool) (md : Mode) (x big small : Rat), T ≤ 6 → (T = 6 → neg = false) → 0 < d → r < 65536 →
    rat (.fin neg n d) = some x → largest T big → leastNormal T small → -big ≤ x → x ≤ big →
    let res := roundTo (.fin neg n d) T md r
    ∃ y, res.1 < 2 ^ width T ∧ rat (valueOf T res.1) = some y ∧
      res.2 = (if y = x then 0 else if |x| < small then flagNX ||| flagUF else flagNX) ∧
      (T ≠ 6 → (res.1 / 2 ^ (width T - 1) % 2 = 1 ↔ neg = true)) ∧
      (md.rnd = 0 ∨ md.rnd = 4 → ∀ z, IsMember T z → |y - x| ≤ |z - x| ∧
        (z ≠ y → |y - x| = |z - x| → if md.rnd = 0 then res.1 % 2 = 0 else |z| < |y|)) ∧
      (md.rnd = 1 → |y| ≤ |x| ∧ ∀ z, IsMember T z → |z| ≤ |x| → |z| ≤ |y|) ∧
      (md.rnd = 2 → y ≤ x ∧ ∀ z, IsMember T z → z ≤ x → z ≤ y) ∧
      (md.rnd = 3 → x ≤ y ∧ ∀ z, IsMember T z → x ≤ z → y ≤ z) ∧
      (md.rnd = 5 → ∀ lo hi, IsMember T lo → IsMember T hi → lo ≤ |x| → |x| < hi → (∀ z, IsMember T z → z ≤ lo ∨ hi ≤ z) →
        |y| = if hi ≤ |x| + (r : Rat) / 65536 * (hi - lo) then hi else lo)

/-- Results beyond the largest finite value, infinities, NaN, and negative values of a type without a sign (R67, R68). -/
def Sys2Proof.Claims.RoundsBeyond : Prop :=
  ∀ (T n d r : Nat) (neg : Bool) (md : Mode) (x big : Rat), T ≤ 6 → 0 < d → r < 65536 → largest T big →
    rat (.fin neg n d) = some x →
    let res := roundTo (.fin neg n d) T md r
    let most := if neg then -big else big
    (T = 6 → x < 0 → res = (0, flagNV)) ∧
    ((T = 6 → neg = false) → (md.sat = 1 ∨ T = 5 ∨ T = 6) → big < |x| → rat (valueOf T res.1) = some most ∧ res.2 &&& flagNX = flagNX) ∧
    ((T = 6 → neg = false) → 2 * big ≤ |x| → res.2 &&& (flagOF ||| flagNX) = flagOF ||| flagNX ∧ (md.sat = 1 → res.2 &&& flagSC = flagSC) ∧
      (md.sat ≠ 1 → res.2 &&& flagSC = 0 ∧ (T = 3 → res.1 = if md.nan = 1 then 0 else 0x7F) ∧
        (T ≤ 2 ∨ T = 4 → if md.rnd = 1 ∨ (md.rnd = 2 ∧ neg = false) ∨ (md.rnd = 3 ∧ neg = true) then rat (valueOf T res.1) = some most
          else valueOf T res.1 = .inf neg))) ∧
    (T ≤ 2 ∨ T = 4 → md.sat ≠ 1 → md.rnd = 0 →
      valueOf T (roundTo (.inf neg) T md r).1 = .inf neg ∧ (roundTo (.inf neg) T md r).2 = 0) ∧
    (md.sat = 1 → (T = 6 → neg = false) →
      rat (valueOf T (roundTo (.inf neg) T md r).1) = some most ∧ (roundTo (.inf neg) T md r).2 = flagSC) ∧
    (T ≤ 4 → (roundTo .nan T md r).2 = 0 ∧ if md.nan = 1 then (roundTo .nan T md r).1 = 0 else valueOf T (roundTo .nan T md r).1 = .nan) ∧
    (4 < T → roundTo .nan T md r = (0, flagNV))

/-- A rational value rounds to an integer type: the integer that the mode chooses where the type has it; beyond its range the bound,
with SC, under saturation and in a conversion from a floating type, which also sets NV without saturation, else the integer modulo 2 to
the width; NX says that the integer is not the value (R65, R69, R70). -/
def Sys2Proof.Claims.RoundsInteger : Prop :=
  ∀ (T n d r : Nat) (neg : Bool) (md : Mode) (x : Rat), isInt T = true → 0 < d → r < 65536 → rat (.fin neg n d) = some x →
    let res := roundTo (.fin neg n d) T md r
    let clamps : Prop := md.sat ≠ 0 ∨ md.conv = true
    ∃ y : Int,
      (md.rnd = 0 ∨ md.rnd = 4 → |(y : Rat) - x| ≤ 1 / 2 ∧ (|(y : Rat) - x| = 1 / 2 → if md.rnd = 0 then y % 2 = 0 else |x| < |(y : Rat)|)) ∧
      (md.rnd = 1 → |(y : Rat)| ≤ |x| ∧ |x| < |(y : Rat)| + 1 ∧ 0 ≤ (y : Rat) * x) ∧
      (md.rnd = 2 → (y : Rat) ≤ x ∧ x < (y : Rat) + 1) ∧ (md.rnd = 3 → x ≤ (y : Rat) ∧ (y : Rat) < x + 1) ∧
      (md.rnd = 5 → |(y : Rat)| ≤ |x| + (r : Rat) / 65536 ∧ |x| + (r : Rat) / 65536 < |(y : Rat)| + 1 ∧ 0 ≤ (y : Rat) * x) ∧
      (res.2 &&& flagNX = flagNX ↔ (y : Rat) ≠ x) ∧
      (intMin T ≤ y → y ≤ intMax T → intValue T res.1 = y ∧ res.2 &&& (flagSC ||| flagNV) = 0) ∧
      (y < intMin T ∨ intMax T < y →
        (clamps → intValue T res.1 = (if y < intMin T then intMin T else intMax T) ∧ res.2 &&& flagSC = flagSC ∧
          (res.2 &&& flagNV = flagNV ↔ md.sat = 0)) ∧
        (¬clamps → (res.1 : Int) = y % 2 ^ width T ∧ res.2 &&& (flagSC ||| flagNV) = 0))

/-- Rounding to an element type (R65, R67 to R70). -/
def Sys2Proof.Claims.Rounding : Prop := RoundsFloat ∧ RoundsBeyond ∧ RoundsInteger

/-- Scales of element e: block scale and band scale of its register, as the PXS mode has them (R43, R281). -/
def Sys2Proof.Claims.scales (mode : Nat) (v : VReg) (e : Nat) (blk band : Rat) : Prop :=
  (if mode = 0 then rat (valueOf 6 (v.elem 8 (e / 8))) = some blk else blk = 1) ∧
  (if mode = 1 then band = 1 else rat (valueOf 1 (v.elem 16 2048)) = some band)

/-- One element of VCVT: the source's value, times its scales where the source is scaled, divided by them where the destination is, taken
as a product where they are 0, is rounded once (R78, R281). -/
def Sys2Proof.Claims.ConvertsElement : Prop :=
  ∀ (D S mode e bits r : Nat) (md : Mode) (v : VReg) (x blk band : Rat), mode ≤ 2 → ¬(isScaled S = true ∧ isScaled D = true) →
    rat (valueOf S bits) = some x → scales mode v e blk band →
    ∃ y, (cvtElem D S mode md v e bits r).1 = (roundTo y D { md with conv := isInt D && !isInt S } r).1 ∧
      rat y = some (if isScaled S then x * blk * band else if isScaled D ∧ blk * band ≠ 0 then x / (blk * band)
        else if isScaled D then 0 else x)

/-- One block of VQNT whose active elements are finite, under a finite band scale that is not 0: the scale is 0 for a block of zeros, else the
least e3m5 value that is at least a sixth of the greatest magnitude, or the greatest such value; each code is the element divided by the
scale, rounded to e2m1 with saturation. A band scale that is 0, infinite or NaN gives scale 0 and codes +0 with NV (R79, R282). -/
def Sys2Proof.Claims.QuantizesBlock : Prop :=
  ∀ (x : Hd) (f : V4) (act : Nat → Bool) (band : Machine.Num) (b : Nat),
    let es := ((List.range 8).map fun j => 8 * b + j).filter act
    (es = [] → quantBlock x f act band b = none) ∧
    (es ≠ [] → (rat band = none ∨ rat band = some 0) → (∀ n d, band ≠ .root n d) →
      quantBlock x f act band b = some (0, es.map fun e => (e, (0, flagNV)))) ∧
    ∀ (w : Rat) (val : Nat → Rat), rat band = some w → w ≠ 0 → es ≠ [] →
      (∀ e ∈ es, ∃ v, rat (valueOf f.ty.toNat (runSrc x f.ty.toNat f.va e)) = some v ∧ val e = v / w) →
      ∃ sc cs scale, quantBlock x f act band b = some (sc, cs) ∧ sc < 256 ∧ rat (valueOf 6 sc) = some scale ∧
        ((∀ e ∈ es, val e = 0) → sc = 0) ∧ ((∃ e ∈ es, 189 < |val e|) → sc = 0xFF) ∧
        ((∀ e ∈ es, |val e| ≤ 189) → (∀ e ∈ es, |val e| ≤ 6 * scale) ∧
          ∀ c t, c < 256 → rat (valueOf 6 c) = some t → (∀ e ∈ es, |val e| ≤ 6 * t) → scale ≤ t) ∧
        cs.map (fun c => c.1) = es ∧
        ∀ c ∈ cs, ∃ q, rat q = some (if scale = 0 then 0 else val c.1 / scale) ∧
          c.2.1 = (roundTo q 5 { rnd := (modeOf f.pfx).rnd, sat := 1, nan := 0, conv := false } (x.rand (modeOf f.pfx) c.1)).1

/-- VCVT: each selected element of the narrow side's count is the source's value, scaled, rounded to the destination's type. VQNT: the
scales and the codes of the blocks with a selected element. -/
def Sys2Proof.Claims.ConversionForms : Prop :=
  ∀ (f : V4) (s s1 : State) (hs : Bool) (k : Task) (e : Entry) (r : List Entry) (vals : List CtqEntry),
    (AtHead (.vcvt f) s 1 hs k e r vals s1 → isVReg f.vd = true →
      let x := seen (.vcvt f) s s1 k hs e vals
      let D := f.ty.toNat
      let S := f.vc.toNat
      let sc := if isVReg f.vb then k.rv f.vb.toNat else VReg.empty
      ∃ v fl, Issues (.vcvt f) s s1 1 hs (withV k v) e r (held k e fl) ∧
        (∀ n, (n < f.vd.toNat ∨ f.vd.toNat + cvtRun D S ≤ n) → get VReg.empty v n = k.rv n) ∧ ∀ j, j < elems (narrowOf D S) →
        j / elems D < cvtRun D S →
        (get VReg.empty v (f.vd.toNat + j / elems D)).elem (width D) (j % elems D) =
          if x.active f.pfx f.mask (narrowOf D S) j
          then (cvtElem D S (scaleMode f.pfx) (modeOf f.pfx) sc j (runSrc x S f.va j) (x.rand (modeOf f.pfx) j)).1 % 2 ^ width D
          else (k.rv (f.vd.toNat + j / elems D)).elem (width D) (j % elems D)) ∧
    (AtHead (.vqnt f) s 1 hs k e r vals s1 → isVReg f.vd = true → f.vd ≠ f.vc →
      let x := seen (.vqnt f) s s1 k hs e vals
      let band := if scaleMode f.pfx = 1 then ofInt 1 else bandOf (k.rv f.vb.toNat)
      let block (b : Nat) := quantBlock x f (x.active f.pfx f.mask 5) band b
      ∃ v fl, Issues (.vqnt f) s s1 1 hs (withV k v) e r (held k e fl) ∧
        (∀ n, n ≠ f.vd.toNat → n ≠ f.vc.toNat → get VReg.empty v n = k.rv n) ∧
        (∀ j, j < 16384 → x.active f.pfx f.mask 5 j = false →
          (get VReg.empty v f.vd.toNat).elem 4 j = (k.rv f.vd.toNat).elem 4 j) ∧
        (∀ b, b < 2048 → (get VReg.empty v f.vc.toNat).elem 8 b =
          match block b with | some p => p.1 % 2 ^ 8 | none => (k.rv f.vc.toNat).elem 8 b) ∧
        ∀ b, b < 2048 → ∀ p, block b = some p → ∀ c ∈ p.2, (get VReg.empty v f.vd.toNat).elem 4 c.1 = c.2.1 % 2 ^ 4)

/-- Rounding to an element type, the element of a VCVT and the block of a VQNT, and the two instructions. Special operands of a run in
VCVT and VQNT are read as log 18 says. -/
def Obligations.Conversions : Prop := Rounding ∧ ConvertsElement ∧ QuantizesBlock ∧ ConversionForms

namespace Sys2Proof.Claims

/-! ### Steps of the device

A table of steps has a row for each case of a step: the step, the condition on the state, and what holds of the state after (t) given
the state before (s). -/

/-- Every row of a table completes: under its condition the step answers a next state, and the row says which. -/
def Completes (T : Instr → (State → Prop) → (State → State → Prop) → Prop) : Prop :=
  ∀ (i : Instr) (pre : State → Prop) (post : State → State → Prop) (s : State), T i pre post → pre s → ∃ t, exec i s = .next t ∧ post s t

/-- s with task t replaced. -/
def setT (s : State) (t : Nat) (k : Task) : State := { s with tasks := ins s.tasks t k }

/-- s with queue q of a set of task t replaced. -/
def setRq (s : State) (t : Nat) (k : Task) (hs : Bool) (q : Nat) (r : RQ) : State := setT s t (k.withSet hs ((k.set hs).setRq q r))

/-- The entry signals channel q to b (R36, R37). -/
def tokenTo (i : Issued) (q b : Nat) : Bool :=
  (b == nbrA q && i.entry.instr.tok.getLsbD 1) || (b == nbrB q && i.entry.instr.tok.getLsbD 3)

/-- The fault that the head e of queue q raises (R347, R350). -/
def headFault (e : Entry) (q : Nat) (cause : Byte) (await : Nat) : FaultRec :=
  { cause := cause, addr := e.pc, data := 0, src := q + 1, await := await, pos := e.pos }

/-- TEND has issued, and with the entries r left in queue q of the set the ordinary queues have drained (R172). -/
def drainsNow (k : Task) (hs : Bool) (q : Nat) (r : List Issued) : Bool :=
  k.hasEnded && !k.inTrap &&
    ((if q ≤ 2 then k.withSet hs ((k.set hs).setRq q { (k.set hs).rq q with issued := r }) else k).ord).allDone

/-- The entry's own work is over (R226, R242). -/
def worked (s : State) (t : Nat) (k : Task) (i : Issued) : Prop :=
  i.busy = false ∧ i.holding = false ∧ ∀ p ∈ i.fills, (s.tslot k.coreKey p).state = .filling →
    (s.tslot k.coreKey p).owner = t → (s.tslot k.coreKey p).filler ≠ i.entry.pos

/-- The entry relinquishes no name as it completes (R233, R242). -/
def namesNone (i : Issued) : Prop := ∀ f, i.entry.instr = .tunpark f → i.skipped = true

/-- Issued entries, tiles and names on their way (R36, R159, R178, R217, R242). -/
inductive EntryStep : Instr → (State → Prop) → (State → State → Prop) → Prop
  | complete (t q : Nat) (hs : Bool) (k : Task) (i : Issued) (r : List Issued) : EntryStep (.entryComplete t q hs)
      (fun s => find s.tasks t = some k ∧ q ≤ 2 ∧ ((k.set hs).rq q).issued = i :: r ∧ worked s t k i ∧ namesNone i ∧
        (∀ b, b ≤ 2 → tokenTo i q b = true → (k.set hs).chan q b < 63) ∧
        drainsNow k hs q r = false)
      fun s u => ∃ qs, u = setT s t ({ k with fflags := k.fflags ||| i.flags }.withSet hs qs) ∧
        qs.rq q = { (k.set hs).rq q with issued := r } ∧ (∀ p, p ≤ 2 → p ≠ q → qs.rq p = (k.set hs).rq p) ∧
        qs.rtq = (k.set hs).rtq ++ i.push.toList ∧ qs.nrq = (k.set hs).nrq ∧
        ∀ a b, a ≤ 2 → b ≤ 2 → qs.chan a b = (k.set hs).chan a b + if a = q ∧ tokenTo i q b = true then 1 else 0
  | overflow (t q : Nat) (hs : Bool) (k : Task) (i : Issued) (r : List Issued) : EntryStep (.entryComplete t q hs)
      (fun s => find s.tasks t = some k ∧ q ≤ 2 ∧ ((k.set hs).rq q).issued = i :: r ∧ worked s t k i ∧ namesNone i ∧
        (∃ b, b ≤ 2 ∧ tokenTo i q b = true ∧ 63 ≤ (k.set hs).chan q b) ∧
        drainsNow k hs q r = false)
      fun s u => ∃ qs, u = setT s t ({ k with fflags := k.fflags ||| i.flags }.withSet hs qs) ∧
        qs.rq q = { (k.set hs).rq q with issued := r, halted := true,
                                           late := ((k.set hs).rq q).late ++ [headFault i.entry q 0x1B 0] } ∧
        ∀ a b, a ≤ 2 → b ≤ 2 → qs.chan a b = (k.set hs).chan a b +
          if a = q ∧ tokenTo i q b = true ∧ (k.set hs).chan q b < 63 then 1 else 0
  | drained (t q : Nat) (k : Task) (i : Issued) : EntryStep (.entryComplete t q false)
      (fun s => find s.tasks t = some k ∧ q ≤ 2 ∧ (k.ord.rq q).issued = [i] ∧ worked s t k i ∧ drainsNow k false q [] = true)
      fun s u => (u.task t).fflags = k.fflags ||| i.flags ∧ (u.task t).ord.allDone = true ∧ (u.task t).ord.nrq = [] ∧
        (u.task t).ord.rtq = [] ∧ (u.task t).ord.tok = [] ∧ (∀ p, (u.task t).ord.ctq p = []) ∧
        (∀ nm ∈ k.ord.nrq, u.blockOf (s.ascOf k) nm = none) ∧ ∀ a, u.byte a = s.byte a
  | holdEnd (t q : Nat) (hs : Bool) (k : Task) : EntryStep (.unitHoldingEnd t q hs)
      (fun s => find s.tasks t = some k ∧
        ∃ i ∈ ((k.set hs).rq q).issued, i.holding = true ∧ (i.busy = true → i.entry.instr.isMma = false))
      fun s u => ∃ (l : List Issued) (i : Issued) (r : List Issued), ((k.set hs).rq q).issued = l ++ i :: r ∧ i.holding = true ∧
        (i.busy = true → i.entry.instr.isMma = false) ∧
        u = { setRq s t k hs q { (k.set hs).rq q with issued := l ++ { i with holding := false } :: r } with tick := s.tick + 1 }
  | stall (t q : Nat) (hs : Bool) (k : Task) (e : Entry) (r : List Entry) : EntryStep (.queueStall t q hs)
      (fun s => find s.tasks t = some k ∧ ((k.set hs).rq q).entries = e :: r ∧ k.headsRun hs = true ∧ ((k.set hs).rq q).open = true ∧
        ((k.set hs).rq q).bound ≠ 0 ∧ ((k.set hs).rq q).bound.toNat ≤ ((k.set hs).rq q).stall)
      fun s u => u = setRq s t k hs q { (k.set hs).rq q with
        fault := some (headFault e q 0x20 ((k.set hs).rq q).await) }
  | name (t : Nat) (hs : Bool) (k : Task) (x : NameOut) (r : List NameOut) : EntryStep (.namePush t hs)
      (fun s => find s.tasks t = some k ∧ (k.set hs).names = x :: r ∧
        (∀ a ∈ k.stqOut, (match a with | .write _ _ w _ => w ≠ x.wid | _ => True)) ∧ drainsNow k hs 3 [] = false)
      fun s u => u = setT s t (k.withSet hs { k.set hs with names := r, nrq := (k.set hs).nrq ++ [x.name] })
  | fill (c p : Nat) : EntryStep (.tileFillComplete c p) (fun s => (s.tslot c p).state = .filling ∧
      ∀ a ∈ (s.task (s.tslot c p).owner).ldqOut, a.posOf = some (s.tslot c p).filler → ∀ w ∈ wanted a, w.1 / 65536 ≠ p + 1)
      fun s u => u = s.setTslot c p { s.tslot c p with state := .live }

/-- s with unit u of core c replaced. -/
def setUnit (s : State) (c u : Nat) (x : Machine.PUnit) : State := s.setCore c { s.core c with units := put Machine.PUnit.empty (s.core c).units u x }

/-- The passing of units between tasks (R225, R358). -/
inductive UnitStep : Instr → (State → Prop) → (State → State → Prop) → Prop
  | save (c u claimant v : Nat) (k : Task) : UnitStep (.unitSaveComplete c u)
      (fun s => (u < 16 ∨ 80 ≤ u) ∧ get Machine.PUnit.empty (s.core c).units u = { holder := some v, pass := .saving claimant } ∧
        find s.tasks v = some k ∧ (u = 12 → k.inMatrix = false) ∧ (s.task claimant).saved.contains u = false)
      fun s t => ∃ l, t = setT (setUnit s c u { holder := some claimant, pass := .idle }) v { k with saved := l } ∧
        ∀ w, w ∈ l ↔ w = u ∨ w ∈ k.saved
  | restore (c u claimant : Nat) (k : Task) : UnitStep (.unitRestoreComplete c u)
      (fun s => (u < 16 ∨ 80 ≤ u) ∧ (get Machine.PUnit.empty (s.core c).units u).pass = .restoring claimant ∧ find s.tasks claimant = some k)
      fun s t => ∃ l, t = setT (setUnit s c u { holder := some claimant, pass := .idle }) claimant { k with saved := l } ∧
        ∀ w, w ∈ l ↔ w ≠ u ∧ w ∈ k.saved
  | saveTile (c p claimant : Nat) : UnitStep (.unitSaveComplete c (16 + p))
      (fun s => p < 64 ∧ (get Machine.PUnit.empty (s.core c).units (16 + p)).pass = .saving claimant ∧ (s.tslot c p).state = .live ∧
        (s.tslot c p).owner ≠ claimant ∧ noReads s (s.tslot c p).owner (p - (s.task (s.tslot c p).owner).partBase))
      fun s t => t.tslot c p = { TSlot.empty with gen := ((s.tslot c p).gen + 1) % 256 } ∧
        (t.core c).savedTiles = (s.core c).savedTiles ++
          [{ task := (s.tslot c p).owner, slot := p - (s.task (s.tslot c p).owner).partBase,
             tile := { s.tslot c p with state := .saved } }] ∧
        get Machine.PUnit.empty (t.core c).units (16 + p) = Machine.PUnit.empty ∧ t = { s with cores := t.cores }
  | restoreTile (c p claimant : Nat) (y : SavedTile) : UnitStep (.unitRestoreComplete c (16 + p))
      (fun s => p < 64 ∧ (get Machine.PUnit.empty (s.core c).units (16 + p)).pass = .restoring claimant ∧ (s.tslot c p).state = .empty ∧
        (s.core c).savedTiles = [y] ∧ y.task = claimant ∧ (s.task claimant).partBase + y.slot = p)
      fun s t => t.tslot c p = { y.tile with state := .live, gen := (s.tslot c p).gen } ∧ (t.core c).savedTiles = [] ∧
        get Machine.PUnit.empty (t.core c).units (16 + p) = Machine.PUnit.empty ∧ t = { s with cores := t.cores }

/-- Steps around the slice of the current task (R95, R153, R155, R347, R350, R355, R357, R375). -/
inductive SliceStep : Instr → (State → Prop) → (State → State → Prop) → Prop
  | route (k : Task) (i : Instr) (q : Nat) : SliceStep .route
      (fun s => find s.tasks s.cur = some k ∧ s.turn = .slice ∧ k.phase = .running ∧ k.missing = none ∧ k.yieldLeft = 0 ∧
        s.fetchUnit k = .unit i ∧ i.home = some q ∧ i.check k = none ∧ k.hazard [i.captures.2.1, i.captures.2.2] = false ∧
        (k.qset.rq q).entries.length < (k.qset.rq q).depth)
      fun s t => exec i s = .next t ∧ ((t.task s.cur).qset.rq q).entries.length = (k.qset.rq q).entries.length + 1
  | fill (k : Task) (l : Nat) : SliceStep .icacheFill
      (fun s => find s.tasks s.cur = some k ∧ k.missing = some l ∧ ∀ a, s.imageAt k l = some a → s.heldAt a = false)
      fun s t => sampled (setT (s.setCore k.coreKey { s.core k.coreKey with icache := (l :: (s.core k.coreKey).icache).take 4096 }) s.cur
        { k with missing := none }) t
  | yieldEnd (k : Task) : SliceStep .yieldEnd (fun s => find s.tasks s.cur = some k ∧ k.yieldLeft = 1)
      fun s t => t = setT s s.cur { k with yieldLeft := 0 }
  | bound (k : Task) : SliceStep .taskCycleBound
      (fun s => find s.tasks s.cur = some k ∧ (s.packet k.packet).bound ≠ 0 ∧ (s.packet k.packet).bound * 256 ≤ k.cycle)
      fun s t => t = s.fatal s.cur { cause := 0x21, addr := k.pc, data := 0, src := 0, await := 0, pos := 0 }
  | arrival (k : Task) (q : Nat) (f : FaultRec) : SliceStep .routedFaultArrival
      (fun s => find s.tasks s.cur = some k ∧ (k.phase = .running ∨ k.phase = .ended) ∧ q ≤ 2 ∧ (k.qset.rq q).fault = some f ∧
        (k.qset.rq q).late = [] ∧ ∀ p, p < q → (k.qset.rq p).fault = none ∧ (k.qset.rq p).late = [])
      fun s t => t = (setRq s s.cur k k.inTrap q { k.qset.rq q with fault := none }).take s.cur f k.pc
  | lateArrival (k : Task) (q : Nat) (f : FaultRec) (r : List FaultRec) : SliceStep .routedFaultArrival
      (fun s => find s.tasks s.cur = some k ∧ (k.phase = .running ∨ k.phase = .ended) ∧ q ≤ 2 ∧ (k.qset.rq q).late = f :: r ∧
        ∀ p, p < q → (k.qset.rq p).fault = none ∧ (k.qset.rq p).late = [])
      fun s t => t = (setRq s s.cur k k.inTrap q { k.qset.rq q with late := r }).take s.cur f k.pc
  | trap (k : Task) (f : FaultRec) (r : Nat) : SliceStep .trapEntry
      (fun s => find s.tasks s.cur = some k ∧ k.phase = .drainTrap f r ∧ k.drained = true)
      fun s t => t = { setT s s.cur (trapped s k f r) with hif := t.hif } ∧ t.hif = { s.hif with baro := t.hif.baro }
  | switchOut (k : Task) (f : FaultRec) : SliceStep .firmwareSwitchOut
      (fun s => find s.tasks s.cur = some k ∧ k.phase = .drainFw f ∧ k.drained = true)
      fun s t => t = setT s s.cur { k with
        phase := .switchedOut f, mma := k.mma.map fun m => { m with stopped := true, held := false } }
  | resume (k : Task) (f : FaultRec) : SliceStep .firmwareFaultResume
      (fun s => find s.tasks s.cur = some k ∧ k.phase = .switchedOut f)
      fun s t => t = setT s s.cur { k with
        phase := .running, walk := none, mma := if k.inTrap then k.mma else k.mma.map fun m => { m with stopped := false } }
  | fatal (k : Task) (f : FaultRec) : SliceStep .firmwareFaultFatal
      (fun s => find s.tasks s.cur = some k ∧ k.phase = .switchedOut f) fun s t => t = s.fatal s.cur f
  | preEmpt (k : Task) (n b : Nat) (done : Bool) (v : Task) : SliceStep .preEmptionSwitch
      (fun s => find s.tasks s.cur = some k ∧ k.phase = .drainPre n done ∧ find s.tasks n = some v ∧ n ≠ s.cur ∧ k.drained = true ∧
        k.ctx = 0 ∧ v.ctx = 0 ∧ v.phase = .arriving ∧ (s.core k.coreKey).ctxB = CtxSlot.empty ∧
        s.freeRange k.coreKey (partSlots (s.packet v.packet).part) [] = some b)
      fun s t => t = setT (setT (s.setCore k.coreKey { s.core k.coreKey with ctxA := { run := some n, susp := some s.cur } })
          s.cur { k with phase := .suspended done, mma := k.mma.map fun m => { m with stopped := true, held := false } }) n { v with partBase := b, partSize := partSlots (s.packet v.packet).part }

end Sys2Proof.Claims

open Sys2Proof Sys2Proof.Machine Sys2Proof.Claims

/-- An issued entry that has nothing left to do completes, in the order of its queue: its flags, its push and its tokens arrive, and a
token beyond 63 raises token overflow instead; with the last one after TEND the queues' leavings go. A unit's holding ends; a head that has waited for its bound raises queue stall; a name
whose block is written reaches the NRQ; a filled tile is LIVE. -/
def Sys2Proof.Claims.EntriesComplete : Prop := Completes EntryStep

/-- A unit that another task claims is saved for its holder and then the claimant's, and a saved copy goes back before its task uses
the unit. -/
def Sys2Proof.Claims.UnitsPass : Prop := Completes UnitStep

/-- What is issued and on its way: entries, names, tiles and units. Which unit ends its holding first is a free value (log 8). -/
def Obligations.EntrySteps : Prop := EntriesComplete ∧ UnitsPass

/-- The steps around the slice: routing what is fetched, a line filled, the end of a YIELD, the cycle bound, the arrival of a queue's
fault, trap entry after its drain, the switch to the firmware and its two answers, and the switch of pre-emption. The faulting word of the
cycle bound is the model's reading (log 21). That the fault of an issued entry is taken before the head's, and that a fill of a full
instruction cache replaces the line filled first, are the model's choices (log 49, R36/R348 and R153). -/
def Obligations.SliceSteps : Prop := Completes SliceStep

namespace Sys2Proof.Claims

/-! ### From a record to dispatch (R101 to R103, R111, R117 to R122, R130, R137, R418) -/

/-- The packet of a record of a host queue, read at index i. -/
def hostPacket (qu : Queue) (q i : Nat) (bad : Bool) (r : BitVec 1024) : Packet :=
  { Packet.empty with record := r, poisoned := bad, queue := q, qidx := i, home := qu.semf / 256 % 2, func := qu.func, asc := qu.asc,
                      file := qu.semf, prio := r.toNat / 2 ^ 8 % 4 }

/-- s with packet p under the next number. -/
def newPacket (s : State) (p : Packet) : State :=
  { s with lfe := { s.lfe with nextPacket := s.lfe.nextPacket + 1, packets := ins s.lfe.packets s.lfe.nextPacket p } }

/-- First entry of CD1's range of a loop-mode packet that is no gang (R137). -/
def firstOfCD1 (p : Packet) : Nat :=
  match p.levels.find? fun l => l.mark == 3 with
  | some l => (l.extent + 1) / 2 * (p.tickets / l.extent)
  | none => if p.home = 0 then p.tickets else 0

/-- A loop-mode packet that is no gang, dispatched: its tickets lie in the counters of the two dies, of which one under warm reset has
none (R137, R394). -/
def opened (p : Packet) (order : Nat) (out0 out1 : Bool) : Packet :=
  let n := if out0 then 0 else if out1 then p.tickets else firstOfCD1 p
  { p with phase := .dispatched, reserve := false, order := order, lo0 := 0, hi0 := n, lo1 := n, hi1 := p.tickets }

/-- A wait entry of packet p is satisfied; it sees an aborted counter (R116, R118). -/
def satisfied (s : State) (p : Packet) (e : Nat × Nat) : Prop := 0 ≤ (s.sem p.file e.2).toInt ∧ (s.sem p.file e.2).toInt ≤ e.1
def sawAbort (s : State) (p : Packet) (e : Nat × Nat) : Prop := (s.sem p.file e.2).toInt < 0

/-- The packet id completes with a status, the first it has. -/
def Completed (s t : State) (id : Nat) (p : Packet) (status : Nat) : Prop :=
  t = { s with lfe := { s.lfe with order := s.lfe.order + 1,
                                   packets := ins s.lfe.packets id { p with phase := .completing, status := status, order := s.lfe.order } } }

/-- The read that r makes next is over: what it read apart is gone. -/
def readOver (s : State) (r : LfeRead) : State := { s with lfe := { s.lfe with early := s.lfe.early.filter fun e => decide (e.1 ≠ r) } }

/-- No byte of the read that r makes next has been read apart. -/
def whole (s : State) (r : LfeRead) : Prop := ∀ e ∈ s.lfe.early, e.1 ≠ r

/-- Memory as the reader r finds it: a byte that it has read apart is as it was then, poison too, and any other as it stands (R329). -/
def EarlyBytes : Prop :=
  ∀ (s : State) (r : LfeRead) (a : Nat), mapped a = true →
    ((∀ e ∈ s.lfe.early, e.1 = r → e.2.1 ≠ a) → (s.seenBy r).byte a = s.byte a ∧ (s.seenBy r).bad a = s.bad a) ∧
    ∀ (l m : List (LfeRead × Nat × Byte × Bool)) (v : Byte) (p : Bool), s.lfe.early = l ++ (r, a, v, p) :: m →
      (∀ e ∈ m, e.1 = r → e.2.1 ≠ a) → (s.seenBy r).byte a = v ∧ (s.seenBy r).bad a = p

inductive FrontStep : Instr → (State → Prop) → (State → State → Prop) → Prop
  | read (q : Nat) (qu : Queue) (bad : Bool) : FrontStep (.recordRead q)
      (fun s => s.queue q = qu ∧ qu.en = true ∧ qu.readIdx < qu.notified ∧ qu.readIdx ∉ qu.skips ∧
        (s.packetsWith fun p => !p.child && p.queue == q && p.undispatched).length < 4 ∧
        bad = (s.seenBy (.record q)).badIn (qu.qbase + 128 * (qu.readIdx % 2 ^ qu.qlog)) 128 ∧
        s.held (qu.qbase + 128 * (qu.readIdx % 2 ^ qu.qlog)) 128 = false)
      fun s t => sampled ((newPacket (readOver s (.record q)) (hostPacket qu q qu.readIdx bad
          (if bad then 0 else BitVec.ofNat 1024 ((s.seenBy (.record q)).word (qu.qbase + 128 * (qu.readIdx % 2 ^ qu.qlog)) 128)))).setQueue q
          { qu with readIdx := qu.readIdx + 1 }) t
  | readPart (q n which : Nat) (qu : Queue) : FrontStep (.accessPerformed q n ⟨5, which⟩)
      (fun s => s.queue q = qu ∧ qu.en = true ∧ qu.readIdx < qu.notified ∧ qu.readIdx ∉ qu.skips ∧ whole s (.record q) ∧
        (s.packetsWith fun p => !p.child && p.queue == q && p.undispatched).length < 4 ∧
        ∀ j, j < 128 → s.heldAt (qu.qbase + 128 * (qu.readIdx % 2 ^ qu.qlog) + j) = false)
      fun s t => ∃ l, t = { s with lfe := { s.lfe with early := s.lfe.early ++ l } } ∧
        ∀ e, e ∈ l ↔ ∃ j, j < 128 ∧ (which = 0 ∨ which.testBit j = true) ∧
          e = (.record q, qu.qbase + 128 * (qu.readIdx % 2 ^ qu.qlog) + j, s.byte (qu.qbase + 128 * (qu.readIdx % 2 ^ qu.qlog) + j),
            s.bad (qu.qbase + 128 * (qu.readIdx % 2 ^ qu.qlog) + j))
  | skipped (q : Nat) (qu : Queue) : FrontStep (.recordRead q)
      (fun s => s.queue q = qu ∧ qu.en = true ∧ qu.readIdx < qu.notified ∧ qu.readIdx ∈ qu.skips ∧
        (s.packetsWith fun p => !p.child && p.queue == q && p.undispatched).length < 4)
      fun s t => ∃ l, t = (readOver s (.record q)).setQueue q { qu with readIdx := qu.readIdx + 1, skips := l } ∧ ∀ i, i ∈ l ↔ i ∈ qu.skips ∧ i ≠ qu.readIdx
  | refill (d id : Nat) (r : List Nat) (p : Packet) : FrontStep (.childPoolRefill d)
      (fun s => (s.pool d).ring = id :: r ∧ s.poolOcc d < 3584 ∧ find s.lfe.packets id = some p ∧ p.phase = .spilled ∧ (s.pool d).waiting = [] ∧
        s.held ((s.pool d).spill + 128 * ((s.pool d).spillHead % 2 ^ (s.pool d).slog)) 128 = false ∧
        s.lateIn ((s.pool d).spill + 128 * ((s.pool d).spillHead % 2 ^ (s.pool d).slog)) 128 = false ∧
        s.badIn ((s.pool d).spill + 128 * ((s.pool d).spillHead % 2 ^ (s.pool d).slog)) 128 = false)
      fun s t => sampled ((s.setPool d { s.pool d with ring := r, spillHead := (s.pool d).spillHead + 1 }).setPacket id
        { p with
          phase := .held, poisoned := false,
          record := BitVec.ofNat 1024 (s.word ((s.pool d).spill + 128 * ((s.pool d).spillHead % 2 ^ (s.pool d).slog)) 128) }) t
  | malformed (p : Packet) : FrontStep .packetHead
      (fun s => find s.lfe.packets s.cur = some p ∧ p.phase = .held ∧ s.mayHead p = true ∧ p.status = 0 ∧
        (p.poisoned = true ∨ headBad p = true))
      fun s t => Completed s t s.cur p 4
  | passes (p : Packet) : FrontStep .packetHead
      (fun s => find s.lfe.packets s.cur = some p ∧ p.phase = .held ∧ s.mayHead p = true ∧ p.poisoned = false ∧ headBad p = false ∧
        (p.barrier = true → (s.earlier p).all Packet.completed = true) ∧ ∀ e ∈ p.waits, satisfied s p e)
      fun s t => t.packet s.cur = { p with phase := .passed } ∧ ∀ n, n ≠ s.cur → find t.lfe.packets n = find s.lfe.packets n
  | aborted (p : Packet) : FrontStep .packetHead
      (fun s => find s.lfe.packets s.cur = some p ∧ p.phase = .held ∧ s.mayHead p = true ∧ p.poisoned = false ∧ headBad p = false ∧
        (p.barrier = true → (s.earlier p).all Packet.completed = true) ∧ p.status = 0 ∧ ∃ e ∈ p.waits, sawAbort s p e)
      fun s t => t.packet s.cur = { p with phase := .completing, status := 2, order := s.lfe.order }
  | waits (p : Packet) : FrontStep .packetHead
      (fun s => find s.lfe.packets s.cur = some p ∧ p.phase = .held ∧ s.mayHead p = true ∧ p.poisoned = false ∧ headBad p = false ∧
        (p.barrier = true → (s.earlier p).all Packet.completed = true) ∧ (∀ e ∈ p.waits, ¬ sawAbort s p e) ∧
        ∃ e ∈ p.waits, ¬ satisfied s p e)
      fun s t => t = s.setPacket s.cur { p with phase := .waiting }
  | notResident (p : Packet) : FrontStep .residencyCheck
      (fun s => find s.lfe.packets s.cur = some p ∧ p.phase = .passed ∧ p.status = 0 ∧
        ((s.rslot p.slot).state ≠ .resident ∨ (s.rslot p.slot).func ≠ p.func ∨ (s.rslot p.slot).gen ≠ p.gen))
      fun s t => Completed s t s.cur p 3
  | resident (p : Packet) : FrontStep .residencyCheck
      (fun s => find s.lfe.packets s.cur = some p ∧ p.phase = .passed ∧ p.status = 0 ∧ (s.rslot p.slot).state = .resident ∧
        (s.rslot p.slot).func = p.func ∧ (s.rslot p.slot).gen = p.gen)
      fun s t => if s.postBad p = true then Completed s t s.cur p 4 else t = s.setPacket s.cur { p with phase := .ready }
  | dispatch (p : Packet) : FrontStep .dispatch
      (fun s => find s.lfe.packets s.cur = some p ∧ s.packetsWith (s.mayDispatch p.home) = [(s.cur, p)] ∧ p.table = false ∧
        s.slotStands p = true ∧ p.cluster = false ∧ p.tickets ≠ 0 ∧ (p.child = false ∨ (s.pool p.home).waiting = []))
      fun s t => t.packet s.cur = opened p s.lfe.order (s.underReset 0) (s.underReset 1) ∧ t = { s with lfe := t.lfe }
  | dispatchEmpty (p : Packet) : FrontStep .dispatch
      (fun s => find s.lfe.packets s.cur = some p ∧ s.packetsWith (s.mayDispatch p.home) = [(s.cur, p)] ∧ p.table = false ∧
        s.slotStands p = true ∧ p.tickets = 0 ∧ p.status = 0 ∧ (p.child = false ∨ (s.pool p.home).waiting = []))
      fun s t => (t.packet s.cur).phase = .completing ∧ (t.packet s.cur).status = 0 ∧ t = { s with lfe := t.lfe }
  | array (p : Packet) (w : Walker) (l : List Byte) : FrontStep .walkerRead
      (fun s => find s.lfe.packets s.cur = some p ∧ p.walker = some w ∧ p.phase = .dispatched ∧ p.stop = false ∧ w.held = false ∧
        w.failed = none ∧ w.record = none ∧ w.haveArray = false ∧ w.next < p.rcount ∧
        (s.seenBy (.table s.cur)).readChunks p.asc p.base p.arrayChunks = .bytes l ∧ ∀ e ∈ (words4 l).take p.ecount, e.toNat / 2 ^ 9 = 0)
      fun s t => sampled ((readOver s (.table s.cur)).setPacket s.cur
        { p with walker := some { w with haveArray := true, entries := (words4 l).take p.ecount, bad := false } }) t
  | record (p : Packet) (w : Walker) (l : List Byte) : FrontStep .walkerRead
      (fun s => find s.lfe.packets s.cur = some p ∧ p.walker = some w ∧ p.phase = .dispatched ∧ p.stop = false ∧ w.held = false ∧
        w.failed = none ∧ w.record = none ∧ w.haveArray = true ∧ w.next < p.rcount ∧
        (s.seenBy (.table s.cur)).readChunks p.asc (p.base + 16 * (p.arrayChunks + w.next)) 1 = .bytes l ∧ p.recordBad (wordOfBytes l) = false)
      fun s t => sampled ((readOver s (.table s.cur)).setPacket s.cur { p with walker := some { w with record := some (BitVec.ofNat 128 (wordOfBytes l)) } }) t
  | badRecord (p : Packet) (w : Walker) (l : List Byte) : FrontStep .walkerRead
      (fun s => find s.lfe.packets s.cur = some p ∧ p.walker = some w ∧ p.phase = .dispatched ∧ p.stop = false ∧ w.held = false ∧
        w.failed = none ∧ w.record = none ∧ w.haveArray = true ∧ w.next + 1 < p.rcount ∧ p.status = 0 ∧
        (s.seenBy (.table s.cur)).readChunks p.asc (p.base + 16 * (p.arrayChunks + w.next)) 1 = .bytes l ∧ p.recordBad (wordOfBytes l) = true ∧
        wordOfBytes l / 2 ^ 124 % 2 = 1 ∧ (s.packetsWith fun v => v.phase == .waiting) = [])
      fun s t => (t.packet s.cur).status = 4 ∧ (t.packet s.cur).tasks = p.tasks ∧
        (t.sem p.file (wordOfBytes l / 2 ^ 116 % 256)).toInt < 0 ∧ ∃ v, (t.packet s.cur).walker = some v ∧ v.next = w.next + 1
  | absent (p : Packet) (w : Walker) : FrontStep .walkerRead
      (fun s => find s.lfe.packets s.cur = some p ∧ p.walker = some w ∧ p.phase = .dispatched ∧ p.stop = false ∧ w.held = false ∧
        w.failed = none ∧ w.record = none ∧ w.haveArray = true ∧ w.next < p.rcount ∧
        (s.seenBy (.table s.cur)).readChunks p.asc (p.base + 16 * (p.arrayChunks + w.next)) 1 = .absent)
      fun s t => sampled ((readOver s (.table s.cur)).setPacket s.cur { p with walker := some { w with held := true } }) t
  | answer (id : Nat) (p : Packet) (w : Walker) : FrontStep (.walkerTranslationFaultAnswer id true)
      (fun s => find s.lfe.packets id = some p ∧ p.walker = some w ∧ p.phase = .dispatched ∧ w.held = true)
      fun s t => t = s.setPacket id { p with walker := some { w with held := false } }
  | fatal (id : Nat) (p : Packet) (w : Walker) : FrontStep (.walkerTranslationFaultAnswer id false)
      (fun s => find s.lfe.packets id = some p ∧ p.walker = some w ∧ p.phase = .dispatched ∧ w.held = true ∧ w.failed = none ∧
        p.status = 0 ∧ (s.packetsWith fun v => v.phase == .waiting) = [])
      fun _ t => (t.packet id).status = 4 ∧ ∃ v, (t.packet id).walker = some v ∧ v.failed = some 0x28 ∧ v.held = false

/-! ### Placing and retirement (R98, R99, R138, R139, R142, R143, R152, R377) -/

/-- The own counter of die d of a loop-mode packet, and the other's: from where, to where. -/
def own (p : Packet) (d : Nat) : Nat × Nat := if d = 0 then (p.lo0, p.hi0) else (p.lo1, p.hi1)

/-- The packet with the counters of die d and of the other as given. -/
def counters (p : Packet) (d : Nat) (a b : Nat × Nat) : Packet :=
  if d = 0 then { p with lo0 := a.1, hi0 := a.2, lo1 := b.1, hi1 := b.2 } else { p with lo1 := a.1, hi1 := a.2, lo0 := b.1, hi0 := b.2 }

/-- The task that takes ticket q of packet id on core c. -/
def newTask (id c ctx base size q : Nat) : Task :=
  { Task.empty with die := c / 96, core := c % 96, ctx := ctx, packet := id, ticket := q, partBase := base, partSize := size }

/-- Core c is served next on its die, by packet p, which is no gang, in context ctx with the partition at base (R142 to R146). -/
def IsServed (s : State) (c id : Nat) (p : Packet) (ctx base : Nat) : Prop :=
  c < 192 ∧ s.preempts (c / 96) = none ∧ s.asker (c / 96) = some c ∧ (∃ s1, s.select 0 (c / 96) (s.asks c) = some (id, s1)) ∧
    find s.lfe.packets id = some p ∧ p.cluster = false ∧ s.seat c (partSlots p.part) = some (ctx, base)

/-- Core c waits at the walker of packet p, whose next record is r; l: the requests there that a context still stands for, of which n is
the one that the walker serves next (R139, R141). -/
def AtWalker (s : State) (c id : Nat) (p : Packet) (w : Walker) (r : BitVec 128) (l : List (Nat × Nat)) (n : Nat × Nat) : Prop :=
  c < 192 ∧ s.askedBy c = some id ∧ find s.lfe.packets id = some p ∧ p.table = true ∧ p.walker = some w ∧ w.record = some r ∧
    l = (w.asks.filter fun a => s.sits a.2 id p) ∧ nextAsk p.home l = some n

/-- Task k begins with record r of the table, the n-th (R101). -/
def OfRecord (k : Task) (r : BitVec 128) (n : Nat) : Prop :=
  k.ticket = n ∧ get 0 k.i 0 = BitVec.ofNat 64 (r.toNat % 2 ^ 16) ∧ get 0 k.i 1 = BitVec.ofNat 64 (r.toNat / 2 ^ 32 % 2 ^ 32) ∧
    get 0 k.i 2 = BitVec.ofNat 64 (r.toNat / 2 ^ 16 % 2 ^ 16) ∧ get 0 k.i 3 = BitVec.ofNat 64 n ∧
    get 0 k.p 15 = BitVec.ofNat 64 (r.toNat / 2 ^ 64 % 2 ^ 52) ∧
    k.esem = if r.toNat / 2 ^ 124 % 2 = 1 then some (r.toNat / 2 ^ 116 % 2 ^ 8) else none

/-- Task k holds context ctx of core c in t, and packet id counts it. -/
def Placed (s t : State) (c id ctx : Nat) (k : Task) (p : Packet) : Prop :=
  find t.tasks s.nextTask = some k ∧ t.nextTask = s.nextTask + 1 ∧
    (if ctx = 0 then (t.core c).ctxA else (t.core c).ctxB) = { run := some s.nextTask, susp := none } ∧
    t.packet id = { p with tasks := p.tasks + 1, firstPulled := true }

/-- Packet p once its walker has handed out the record of expert e. -/
def handedOut (p : Packet) (w : Walker) (e : Nat) (asks : List (Nat × Nat)) : Packet :=
  { p with walker := some { w with asks := asks, next := w.next + 1, record := none, served := e :: w.served, handed := e :: w.handed } }

/-- The place of level n of packet p in ticket q: its iterations, the level of the highest rank the fastest (R99). -/
def iteration (p : Packet) (n q : Nat) : Nat :=
  q / prodNat ((p.levels.filter fun l => l.spatial && decide ((p.level n).rank < l.rank)).map Level.extent) % (p.level n).extent

/-- Task k of packet p at its first instruction; w is its kernel's entry in the kernel table that its slot's load read (R87, R88, R152). -/
def begun (k : Task) (p : Packet) (w order : Nat) : Task :=
  { k with phase := .running, started := order, pc := windowBase p.slot + w % 2 ^ 32,
           ord := QSet.empty (w / 2 ^ 32 % 2 ^ 8 + 1) (w / 2 ^ 40 % 2 ^ 8 + 1) (w / 2 ^ 48 % 2 ^ 8 + 1) }

inductive PlaceStep : Instr → (State → Prop) → (State → State → Prop) → Prop
  | pull (c id ctx base lo hi : Nat) (p : Packet) : PlaceStep (.ticketRequest c)
      (fun s => IsServed s c id p ctx base ∧ p.table = false ∧ p.walker = none ∧ own p (c / 96) = (lo, hi) ∧ lo < hi)
      fun s t => Placed s t c id ctx (newTask id c ctx base (partSlots p.part) lo)
        (counters p (c / 96) (lo + 1, hi) (own p (1 - c / 96)))
  | steal (c id ctx base lo hi : Nat) (p : Packet) : PlaceStep (.ticketRequest c)
      (fun s => IsServed s c id p ctx base ∧ s.otherFirst (c / 96) id = false ∧ p.table = false ∧ p.walker = none ∧
        (own p (c / 96)).2 ≤ (own p (c / 96)).1 ∧
        own p (1 - c / 96) = (lo, hi) ∧ lo < hi)
      fun s t => Placed s t c id ctx (newTask id c ctx base (partSlots p.part) (hi - max 1 ((hi - lo) / 2)))
        (counters p (c / 96) (hi - max 1 ((hi - lo) / 2) + 1, hi) (lo, hi - max 1 ((hi - lo) / 2)))
  | handout (c id ctx base : Nat) (p : Packet) (w : Walker) (r : BitVec 128) : PlaceStep (.walkerRecordHandout id c)
      (fun s => IsServed s c id p ctx base ∧ p.table = true ∧ p.walker = some w ∧ w.record = some r ∧ w.next + 1 < p.rcount ∧
        w.asks = [] ∧ c / 96 = p.home ∧ ∀ e ∈ s.reservations (c / 96), e.2 ≠ id)
      fun s t => ∃ k, Placed s t c id ctx k (handedOut p w (r.toNat % 2 ^ 16) []) ∧ OfRecord k r w.next
  | claim (c id ctx base : Nat) (p : Packet) (w : Walker) : PlaceStep (.walkerRecordHandout id c)
      (fun s => IsServed s c id p ctx base ∧ p.table = true ∧ p.walker = some w ∧ w.record = none ∧
        ∀ e ∈ s.reservations (c / 96), e.2 ≠ id)
      fun s t => ∃ l, t.packet id = { p with walker := some { w with asks := l } } ∧ (s.time, c) ∈ l ∧
        (∀ a ∈ l, a ∈ w.asks ∨ a = (s.time, c)) ∧ t = { s with lfe := t.lfe }
  | next (c id ctx base : Nat) (p : Packet) (w : Walker) (r : BitVec 128) (l : List (Nat × Nat)) (n : Nat) :
      PlaceStep (.walkerRecordHandout id c)
      (fun s => AtWalker s c id p w r l (n, c) ∧ w.next + 1 < p.rcount ∧ (n ≠ s.time ∨ c / 96 = p.home) ∧
        s.seat c (partSlots p.part) = some (ctx, base))
      fun s t => ∃ k, Placed s t c id ctx k (handedOut p w (r.toNat % 2 ^ 16) (l.erase (n, c))) ∧ OfRecord k r w.next
  | turn (c id : Nat) (p : Packet) (w : Walker) (r : BitVec 128) (l : List (Nat × Nat)) (n : Nat × Nat) :
      PlaceStep (.walkerRecordHandout id c)
      (fun s => AtWalker s c id p w r l n ∧ n.2 ≠ c)
      fun s t => t = s.setPacket id { p with walker := some { w with asks := l } }
  | arrive (k : Task) (p : Packet) : PlaceStep .ticketArrival
      (fun s => find s.tasks s.cur = some k ∧ k.phase = .arriving ∧ k.partSize ≠ 0 ∧ find s.lfe.packets k.packet = some p ∧
        p.cluster = false ∧ p.table = false ∧ levelsBad p = false)
      fun s t => ∃ pv iv, t = setT s s.cur { k with p := pv, i := iv, phase := .starting } ∧
        (∀ n, n < 10 → get 0 pv n = BitVec.ofNat 64 (p.record.toNat / 2 ^ (384 + 64 * n) % 2 ^ 64)) ∧
        get 0 pv 10 = BitVec.ofNat 64 (windowBase p.slot + 2 ^ 34) ∧ get 0 pv 11 = BitVec.ofNat 64 (windowBase p.slot + 2 ^ 32) ∧
        get 0 pv 12 = BitVec.ofNat 64 ((if p.child then 2 ^ 44 else p.queue * 2 ^ 32) + p.qidx % 2 ^ 32) ∧
        get 0 pv 13 = BitVec.ofNat 64 (k.member * 2 ^ 33 + k.die * 2 ^ 32 + k.ticket) ∧ get 0 pv 14 = BitVec.ofNat 64 p.tickets ∧
        get 0 pv 15 = 0 ∧
        ∀ n, n < 4 → get 0 iv n = BitVec.ofNat 64 (
          if (p.level n).mark = 0 then 0 else if (p.level n).mark = 1 then (p.level n).extent + (p.level n).step * 65536
          else iteration p n k.ticket * (p.level n).step)
  | start (k : Task) (p : Packet) : PlaceStep .taskStart
      (fun s => find s.tasks s.cur = some k ∧ k.phase = .starting ∧ find s.lfe.packets k.packet = some p ∧ p.cluster = false)
      fun s t => t = setT { s with lfe := { s.lfe with order := s.lfe.order + 1 } } s.cur
        (begun k p (s.kernelEntry p.slot p.kernel) s.lfe.order)
  | retire (k : Task) (p : Packet) (n : Nat) (s1 : State) : PlaceStep .taskRetire
      (fun s => find s.tasks s.cur = some k ∧ (k.phase = .ended ∨ k.phase = .suspended true) ∧ s.mayRetire s.cur k = true ∧
        s.settle s.cur = (n, s1) ∧ s1.kept s.cur { k with residue := k.residue + n } = false ∧ find s.lfe.packets k.packet = some p ∧
        (k.residue + n = 0 ∨ s.strictOf p = false) ∧ k.esem = none)
      fun s t => find t.tasks s.cur = none ∧
        t.packet k.packet = { p with tasks := p.tasks - 1, retired := p.retired + 1, resid := min (p.resid + (k.residue + n)) (2 ^ 32 - 1) }
  | strict (k : Task) (p : Packet) (n : Nat) (s1 : State) : PlaceStep .taskRetire
      (fun s => find s.tasks s.cur = some k ∧ k.phase = .ended ∧ s.mayRetire s.cur k = true ∧ s.settle s.cur = (n, s1) ∧
        s1.kept s.cur { k with residue := k.residue + n } = false ∧ find s.lfe.packets k.packet = some p ∧ p.cluster = false ∧
        p.status = 0 ∧ k.residue + n ≠ 0 ∧ s.strictOf p = true ∧ k.esem = none)
      fun s t => find t.tasks s.cur = none ∧ (t.packet k.packet).status = 5 ∧ (t.packet k.packet).cause = 0x13

/-! ### Completion (R107, R112 to R116, R123, R132, R365, R378) -/

/-- Bytes 8 to 31 of a completion record (R112). -/
def recordBody (p : Packet) (time : Nat) : Nat :=
  p.qidx % 2 ^ 32 + (if p.status = 5 then p.who * 2 ^ 38 + p.cause.toNat * 2 ^ 56 else if p.status = 6 ∧ p.cluster then p.who % 4 * 2 ^ 38
    else 0) +
    p.retired % 2 ^ 32 * 2 ^ 64 + p.resid * 2 ^ 96 + time % 2 ^ 64 * 2 ^ 128

/-- Bytes 0 to 7, PHASE by R107. -/
def recordHead (p : Packet) (clog : Nat) : Nat :=
  (1 - p.cidx / 2 ^ clog % 2) + p.queue % 2048 * 2 + (if p.child then 2 ^ 12 else 0) + p.status * 2 ^ 24 + p.slot * 2 ^ 32 + p.tag * 2 ^ 40

def bodyAddr (s : State) (p : Packet) : Nat := (s.queue p.queue).cbase + 32 * (p.cidx % 2 ^ (s.queue p.queue).clog)

inductive DoneStep : Instr → (State → Prop) → (State → State → Prop) → Prop
  | over (p : Packet) : DoneStep .packetComplete
      (fun s => find s.lfe.packets s.cur = some p ∧ p.phase = .dispatched ∧ p.tasks = 0 ∧ p.commands = 0 ∧ p.walker = none ∧
        (∀ e ∈ s.ce.late, e.1 ≠ s.cur) ∧ p.hi0 ≤ p.lo0 ∧ p.hi1 ≤ p.lo1)
      fun s t => (t.packet s.cur) = { p with phase := .completing, order := s.lfe.order }
  | issue (p : Packet) : DoneStep .packetComplete
      (fun s => find s.lfe.packets s.cur = some p ∧ p.phase = .completing ∧ p.child = false ∧ p.qidx ∉ (s.queue p.queue).reads ∧
        (s.lfe.packets.all fun e => e.2.phase != .completing || e.2.queue != p.queue || decide (p.order ≤ e.2.order)) = true ∧
        (s.queue p.queue).cread ≤ (s.queue p.queue).cwrite ∧ (s.queue p.queue).cwrite < 2 ^ 32 ∧
        (s.queue p.queue).cwrite - (s.queue p.queue).cread < 2 ^ (s.queue p.queue).clog)
      fun s t => t = (s.setPacket s.cur { p with phase := .body, cidx := (s.queue p.queue).cwrite }).setQueue p.queue
        { s.queue p.queue with cwrite := ((s.queue p.queue).cwrite + 1) % 2 ^ 32 }
  | full (p : Packet) : DoneStep .packetComplete
      (fun s => find s.lfe.packets s.cur = some p ∧ p.phase = .completing ∧ p.child = false ∧ p.qidx ∉ (s.queue p.queue).reads ∧
        (s.lfe.packets.all fun e => e.2.phase != .completing || e.2.queue != p.queue || decide (p.order ≤ e.2.order)) = true ∧
        (s.queue p.queue).cread ≤ (s.queue p.queue).cwrite ∧ (s.queue p.queue).cwrite < 2 ^ 32 ∧
        2 ^ (s.queue p.queue).clog ≤ (s.queue p.queue).cwrite - (s.queue p.queue).cread)
      fun s t => t = s.setQueue p.queue { s.queue p.queue with cfull := true }
  | body (p : Packet) (time : Nat) (gone : List Nat) : DoneStep .completionBodyPerformed
      (fun s => find s.lfe.packets s.cur = some p ∧ p.phase = .body ∧ p.status ≠ 4 ∧ s.heldAt (bodyAddr s p) = false ∧
        (p.partly = some (time, gone) ∨ p.partly = none ∧ time = s.time ∧ gone = []))
      fun s t => sampled ((s.setPacket s.cur { p with phase := .header, partly := none }).perform
        ((cellsAt (bodyAddr s p + 8) (bytesOf 24 (recordBody p time))).filter fun c => decide (c.1 ∉ gone))) t
  | bodyPart (id n which : Nat) (p : Packet) : DoneStep (.accessPerformed id n ⟨7, which⟩)
      (fun s => find s.lfe.packets id = some p ∧ p.phase = .body ∧ p.status ≠ 4 ∧ p.partly = none ∧
        ∀ j, j < 32 → s.heldAt (bodyAddr s p + j) = false)
      fun s t => ∃ l, t = (s.setPacket id { p with partly := some (s.time, l) }).perform
          ((cellsAt (bodyAddr s p + 8) (bytesOf 24 (recordBody p s.time))).filter fun c => decide (c.1 ∈ l)) ∧
        ∀ a, a ∈ l ↔ ∃ j, j < 24 ∧ a = bodyAddr s p + 8 + j ∧ (which = 0 ∨ which.testBit j = true)
  | header (p : Packet) : DoneStep .completionHeaderPerformed
      (fun s => find s.lfe.packets s.cur = some p ∧ p.phase = .header ∧ s.heldAt (bodyAddr s p) = false ∧ p.poisoned = false ∧ p.signals = [] ∧ p.intr = true ∧
        p.noIntr = false ∧ (s.queue p.queue).scan = [] ∧ (s.queue p.queue).resetting = false ∧
        (s.lfe.queues.all fun e => !e.2.resetting) = true ∧
        (s.lfe.packets.all fun e => e.2.queue != p.queue || decide (p.order ≤ e.2.order) || (e.2.phase != .body && e.2.phase != .header)) = true)
      fun s t => sampled ((s.perform (cellsAt (bodyAddr s p) (bytesOf 8 (recordHead p (s.queue p.queue).clog)))).setPacket s.cur
        { p with phase := .signalled, sigs := 0 }) t
  | interrupt (p : Packet) : DoneStep .interruptEvent
      (fun s => find s.lfe.packets s.cur = some p ∧ p.phase = .signalled ∧ p.done = false ∧ p.sigs = 0 ∧ p.intr = true ∧
        p.noIntr = false ∧ p.poisoned = false ∧ (s.func p.func).hold = 0 ∧
        (s.vector p.func p.vector).pbit = false ∧ (s.vector p.func p.vector).masked = false ∧ (s.hif.funcs.all fun e => !e.2.flr) = true)
      fun s t => (t.vector p.func p.vector).sent = (s.vector p.func p.vector).sent + 1 ∧ (t.vector p.func p.vector).pending = 0 ∧
        ((find t.lfe.packets s.cur).all fun v => v.done) = true
  | expiry (fn v : Nat) : DoneStep (.interruptHoldOffExpiry fn v)
      (fun s => (s.vector fn v).pending ≠ 0 ∧ (s.vector fn v).since + (s.func fn).hold * 256 ≤ s.time)
      fun s t => t = s.setVector fn v (if (s.vector fn v).masked then { s.vector fn v with pending := 0, pbit := true }
        else { s.vector fn v with pending := 0, sent := (s.vector fn v).sent + 1 })
  | unmask (fn v : Nat) : DoneStep (.vectorUnmask fn v) (fun _ => True)
      fun s t => t = s.setVector fn v { s.vector fn v with
        masked := false, pbit := false, sent := (s.vector fn v).sent + if (s.vector fn v).pbit then 1 else 0 }
  | signal (n : Nat) (g : Sig) : DoneStep (.semaphoreSignal n)
      (fun s => s.lfe.signals[n]? = some g ∧ g.packet = none ∧ g.abort = false ∧ 0 ≤ (s.sem g.file g.counter).toInt ∧
        0 ≤ (s.sem g.file g.counter).toInt + g.delta ∧ (s.sem g.file g.counter).toInt + g.delta < 2 ^ 31)
      fun s t => (t.sem g.file g.counter).toInt = (s.sem g.file g.counter).toInt + g.delta ∧
        t.lfe.signals = s.lfe.signals.eraseIdx n ∧ ∀ a, t.byte a = s.byte a
  | below (n : Nat) (g : Sig) : DoneStep (.semaphoreSignal n)
      (fun s => s.lfe.signals[n]? = some g ∧ g.packet = none ∧ g.abort = false ∧ 0 ≤ (s.sem g.file g.counter).toInt ∧
        (s.sem g.file g.counter).toInt + g.delta < 0 ∧ -2 ^ 31 ≤ (s.sem g.file g.counter).toInt + g.delta ∧ s.hif.baro.frozen = false)
      fun s t => (t.sem g.file g.counter).toInt = (s.sem g.file g.counter).toInt + g.delta ∧ t.hif.baro.total = s.hif.baro.total + 1
  | forced (n : Nat) (g : Sig) : DoneStep (.semaphoreSignal n)
      (fun s => s.lfe.signals[n]? = some g ∧ g.packet = none ∧ g.abort = true)
      fun s t => (t.sem g.file g.counter).toInt =
        (if (s.sem g.file g.counter).toInt < 0 then (s.sem g.file g.counter).toInt else -2 ^ 31)

end Sys2Proof.Claims

open Sys2Proof Sys2Proof.Machine Sys2Proof.Claims

/-- The front end: records are read in order, malformed heads and aborted waits complete the packet, a resident slot lets it pass,
dispatch splits its tickets between the dies, and the walker reads a table's records. Bytes that the front end has read apart before a
read are those it takes there (byte events, R329; log 12); where nothing has been read apart the read is that of memory. The rows of the
dispatch speak of packets whose slot still holds their load (log 49 has the others). That held records are counted, however far the read
index stands above the oldest, is log 49 (R111). -/
def Obligations.FrontSteps : Prop := Completes FrontStep ∧ EarlyBytes

/-- Tickets are pulled from the own counter in increasing index and stolen from the top of the other; a task starts with the registers of
its packet and its ticket at its kernel's entry, and leaves when it retires. A request claims a record of a walker, which serves requests
in the order in which they came. Readings of the order of requests: logs 22, 24, 31 and 42; which records count as pending is log 49
(R145), and so is that a kernel is what the load of its slot read (R88). -/
def Obligations.PlaceSteps : Prop := Completes PlaceStep

/-- A packet completes when nothing of it is left; its record is written in two parts, then its signals and its interrupt follow. The body
may be performed in parts, byte by byte. That a packet waits for writes which a hold keeps is log 50; FMEMB of a KILLED gang is the
model's reading of R362 beside R112 (log 48); that LFE_CWRITE advances as the record is issued is log 49 (R108). -/
def Obligations.DoneSteps : Prop := Completes DoneStep

namespace Sys2Proof.Claims

/-! ### Commands of the copy engines (12_copy_engines.md R289 to R322; R204, R283 to R287) -/

/-- The status word of a command (R297). -/
def statusWord (c : Cmd) (count result cause : Nat) : W64 :=
  BitVec.ofNat 64 (count % 2 ^ 32 * 2 ^ 32 + cause * 2 ^ 24 + c.kind * 2 ^ 20 + c.seq % 256 * 2 ^ 12 + c.flags.toNat * 2 ^ 4 + result)

/-- The wait entry of a command is satisfied; its counter is aborted (R116, R294). -/
def cmdReady (s : State) (c : Cmd) : Prop := ∀ e ∈ c.wait, 0 ≤ (s.sem c.file e.2).toInt ∧ (s.sem c.file e.2).toInt ≤ e.1
def cmdAborts (s : State) (c : Cmd) : Prop := ∃ e ∈ c.wait, (s.sem c.file e.2).toInt < 0

/-- The current command is c. -/
def isCmd (s : State) (c : Cmd) : Prop := find s.ce.cmds s.cur = some c

/-- c may leave QUEUED, and no command of its engine that arrived before it may (R291). -/
def isNext (s : State) (c : Cmd) : Prop :=
  s.mayLeave s.cur c = true ∧ ∀ e ∈ s.ce.cmds, e.1 < s.cur → e.2.die = c.die → e.2.engine = c.engine → s.mayLeave e.1 e.2 = false

/-- The current command is a fill that its engine can serve with some bytes in this cycle, and that is not late (R309, R310). -/
def isFill (s : State) (c : Cmd) (bytes : Nat) : Prop :=
  isCmd s c ∧ c.state = .running ∧ c.kind = 4 ∧ 0 < bytes ∧ bytes ≤ s.budget c ∧ c.count < bits (c.d 6) 31 0 ∧
    bits (c.d 6) 31 0 - c.count ≤ (c.start + bits (c.d 6) 63 32 - s.time) * s.budget c ∧
    get 0 s.ce.pfAt (16 * c.die + c.engine) ≠ s.time + 1

/-- The current command is the routing engine's job, with logits still to read; and what reading the next one gives (R285, R287). -/
def readsLogit (s : State) (c : Cmd) : Prop :=
  isCmd s c ∧ c.state = .running ∧ c.kind = 7 ∧ c.phase2 = false ∧ s.job c.die = some s.cur ∧ c.got.length < c.tokens * c.experts
def logitOf (s : State) (c : Cmd) : Run × Nat × Cmd :=
  s.fetchBytes s.cur c false (bits (c.d 8) 1 0) (c.d 3) (c.got.length / c.experts * bits (c.d 8) 63 32 +
    c.got.length % c.experts * (if c.ltype = 0 then 4 else 2) : Nat) (if c.ltype = 0 then 4 else 2)

/-- Invalid logits of a list: those that are not finite (R285, R299). -/
def invalids (l : List Nat) : Nat := (l.filter fun v => (rat (floatValue 0 v)).isNone).length

inductive CommandStep : Instr → (State → Prop) → (State → State → Prop) → Prop
  | dequeue (c : Cmd) : CommandStep .commandDequeue (fun s => isCmd s c ∧ isNext s c ∧ s.checkWaits c = false ∧ s.valuesOk c = true ∧ ¬ cmdAborts s c)
      fun s t => sampled (s.setCmd s.cur { c with state := .waiting }) t
  | aborted (c : Cmd) : CommandStep .commandDequeue
      (fun s => isCmd s c ∧ isNext s c ∧ s.checkWaits c = false ∧ s.valuesOk c = true ∧ cmdAborts s c)
      fun s t => sampled (s.setCmd s.cur { c with state := .aborting }) t
  | illegal (c : Cmd) : CommandStep .commandDequeue (fun s => isCmd s c ∧ isNext s c ∧ s.checkWaits c = false ∧ s.valuesOk c = false)
      fun s t => sampled (s.endCmd s.cur 3 0x03) t
  | start (c : Cmd) : CommandStep .commandStart (fun s => isCmd s c ∧ c.state = .waiting ∧ cmdReady s c ∧ s.placeFree c = true)
      fun s t => t = s.setCmd s.cur { c with state := .running, start := s.time }
  | again (c : Cmd) : CommandStep .commandStart (fun s => isCmd s c ∧ c.state = .resumed ∧ s.placeFree c = true)
      fun s t => t = s.setCmd s.cur { c with state := .running }
  | resume (c : Cmd) : CommandStep .engineFaultResume (fun s => isCmd s c ∧ c.state = .held)
      fun s t => t = s.setCmd s.cur { c with state := if s.placeFree c then .running else .resumed }
  | fatal (c : Cmd) : CommandStep .engineFaultFatal (fun s => isCmd s c ∧ c.state = .held) fun s t => t = s.endCmd s.cur 1 0x28
  | done (c : Cmd) : CommandStep .commandEnd
      (fun s => isCmd s c ∧ c.state = .running ∧ s.remote c = false ∧ (c.work = 0 ∨ c.work = 1 ∨ c.work = 2 ∨ c.work = 5) ∧
        c.total ≤ c.progress ∧ c.flight = [])
      fun s t => t = s.endCmd s.cur 0 0
  | unperformed (c : Cmd) : CommandStep .commandEnd (fun s => isCmd s c ∧ c.state = .running ∧ c.flight ≠ []) fun s t => t = s
  | abort (c : Cmd) : CommandStep .commandEnd (fun s => isCmd s c ∧ c.state = .aborting) fun s t => t = s.endCmd s.cur 4 0x48
  | signal (c : Cmd) : CommandStep .signal (fun s => isCmd s c ∧ c.state = .running ∧ c.work = 6 ∧ s.remote c = false)
      fun s t => t = s.endCmd s.cur 0 0
  | prefetch (c c1 c2 : Cmd) (bytes a b : Nat) : CommandStep (.prefetch bytes)
      (fun s => isFill s c bytes ∧
        (∀ e ∈ s.ce.cmds, e.2.die = c.die → e.2.engine = c.engine → e.2.kind = 4 → e.2.state = .running →
          c.deadline < e.2.deadline ∨ c.deadline = e.2.deadline ∧ (c.seq < e.2.seq ∨ c.seq = e.2.seq ∧ s.cur ≤ e.1)) ∧
        s.reach c false (eaddr c.sform (c.d 3) c.count) = (.at a, c1) ∧
        s.reach c1 false (eaddr c.sform (c.d 3) (c.count + min bytes (bits (c.d 6) 31 0 - c.count) - 1 : Nat)) = (.at b, c2) ∧
        s.heldAt a = false ∧ s.heldAt b = false)
      fun s t => t.ce = { s.ce with
          cmds := ins s.ce.cmds s.cur { c2 with count := c.count + min bytes (bits (c.d 6) 31 0 - c.count) }
          pfAt := put 0 s.ce.pfAt (16 * c.die + c.engine) (s.time + 1) } ∧
        t.mem = s.mem ∧ t.tasks = s.tasks
  | late (c : Cmd) (bytes : Nat) : CommandStep (.prefetch bytes)
      (fun s => isCmd s c ∧ c.state = .running ∧ c.kind = 4 ∧ c.count < bits (c.d 6) 31 0 ∧
        (c.start + bits (c.d 6) 63 32 - s.time) * s.budget c < bits (c.d 6) 31 0 - c.count)
      fun s t => t = s.endCmd s.cur 2 0
  | unmapped (c : Cmd) (bytes : Nat) : CommandStep (.prefetch bytes)
      (fun s => isFill s c bytes ∧ s.served s.cur c = true ∧ ∃ c1, s.reach c false (eaddr c.sform (c.d 3) c.count) = (.absent, c1))
      fun s t => sampled (s.endCmd s.cur 2 0x28) t
  | cancel (c : Cmd) : CommandStep .prefetchDeadlineCancel
      (fun s => isCmd s c ∧ c.state = .running ∧ c.kind = 4 ∧
        (c.start + bits (c.d 6) 63 32 - s.time) * s.budget c < bits (c.d 6) 31 0 - c.count)
      fun s t => t = s.endCmd s.cur 2 0
  | job (c : Cmd) : CommandStep .rte
      (fun s => isCmd s c ∧ c.state = .running ∧ c.kind = 7 ∧ c.phase2 = false ∧ s.job c.die = none ∧
        ∀ e ∈ s.ce.cmds, e.1 ≠ s.cur → e.2.die = c.die → e.2.kind = 7 → e.2.state = .running → e.2.phase2 = false →
          c.start < e.2.start ∨ c.start = e.2.start ∧ s.cur < e.1)
      fun s t => t = s.setJob c.die (some s.cur)
  | logit (c c1 : Cmd) (l : List Nat) (v : Nat) : CommandStep .commandElement
      (fun s => readsLogit s c ∧ logitOf s c = (.ok l, v, c1))
      fun s t => (t.cmd s.cur).got = c.got ++ [if c.ltype = 0 then v else v * 65536] ∧ (t.cmd s.cur).phase2 = false ∧
        (t.cmd s.cur).count = c.count + invalids [if c.ltype = 0 then v else v * 65536] ∧ (t.cmd s.cur).state = .running ∧ t.mem = s.mem
  | logitFault (c c1 : Cmd) (v : Nat) : CommandStep .commandElement
      (fun s => readsLogit s c ∧ c.flight = [] ∧ logitOf s c = (.stop .absent, v, c1))
      fun s t => (t.cmd s.cur).got = c.got.take (c.got.length / c.experts * c.experts) ∧
        (t.cmd s.cur).count = invalids (c.got.take (c.got.length / c.experts * c.experts)) ∧ (t.cmd s.cur).state = .held ∧ t.mem = s.mem
  | routed (d id : Nat) (c : Cmd) : CommandStep (.rtePhase1Complete d)
      (fun s => s.job d = some id ∧ find s.ce.cmds id = some c ∧ c.state = .running ∧ c.kind = 7 ∧ c.phase2 = false ∧
        c.got.length = c.tokens * c.experts)
      fun s t => ∃ c', t = s.setCmd id c' ∧ c'.phase2 = true ∧ c'.out = c.outputs c.picks ∧ c'.progress = bits (c.d 0) 47 16 ∧ c'.dw = c.dw ∧
        c'.count = sumNat (c.picks.map fun p => p.invalid)

/-! ### Elements (R292, R301 to R306, R311, R314) -/

/-- The command c, the current one, does its next element: not remote. -/
def isDoing (s : State) (c : Cmd) (work : Nat) : Prop :=
  isCmd s c ∧ c.state = .running ∧ s.remote c = false ∧ c.work = work ∧ c.progress < c.total

/-- The current command counts one element more; no other command, task or counter changes. -/
def Counted (s t : State) (c : Cmd) : Prop :=
  t.tasks = s.tasks ∧ t.lfe.sems = s.lfe.sems ∧
    (t.cmd s.cur).progress = c.progress + 1 ∧ (t.cmd s.cur).count = c.count + 1 ∧ (t.cmd s.cur).state = .running ∧
    (t.cmd s.cur).dw = c.dw ∧ ∀ n, n ≠ s.cur → find t.ce.cmds n = find s.ce.cmds n

/-- Value v leaves for the addresses pas: a write of the row in flight, which memory has not performed. -/
def Posted (s t : State) (c : Cmd) (pas : List Nat) (v : Nat) : Prop :=
  Counted s t c ∧ t.mem = s.mem ∧ t.poison = s.poison ∧ t.lfe.signals = s.lfe.signals ∧
    (t.cmd s.cur).flight = c.flight ++ [{ row := c.progress / c.rowLen, cells := pas.zip (bytesOf pas.length v) }]

/-- Signals of a row that is whole, if the command signals by rows (R294). -/
def rowSigs (c : Cmd) (whole : Prop) [Decidable whole] : List Sig :=
  if c.byRows = true ∧ whole then c.signals.map fun e => { file := c.file, counter := e.1, delta := e.2, abort := false, packet := none }
  else []

/-- No write of command c that left before the write p, at place n, has to be performed before it (R292, R294). -/
def postFree (c : Cmd) (n : Nat) (p : Post) : Prop :=
  ∀ q ∈ c.flight.take n, c.byRows = true ∧ q.row ≠ p.row ∧ ∀ x ∈ q.cells, ∀ y ∈ p.cells, y.1 ≠ x.1

/-- An element of the stream st of package src waits here (R322). -/
def waitsIn (s : State) (src st : Nat) : Prop := ∃ e ∈ s.ce.inbox, e.1 = src ∧ ∃ c, flitStrm e.2 = some (st, c)

/-- An element of command id and stream st of package src is looked at: none of its stream waits, its command is not refused. -/
def isLanding (s : State) (src id st : Nat) : Prop := ¬ waitsIn s src st ∧ (src, id) ∉ s.ce.refused

/-- What an accumulating write stores (R302, R303): a rounded sum, the greater or the lesser, or bits. -/
def accumulated (c : Cmd) (old x : Nat) : Nat :=
  let ty := bits (c.d 5) 15 12
  let a := valueOf ty old
  let b := valueOf (bits (c.d 5) 19 16) x
  match bits (c.d 5) 11 8 with
  | 0 => (roundTo (addN (bits (c.d 5) 22 20 == 2) a b).1 ty
      { rnd := if isInt ty then 0 else bits (c.d 5) 22 20, sat := bits (c.d 5) 24 23, nan := 0, conv := false } 0).1
  | 1 => (roundTo (minmaxN false false a b) ty Mode.default 0).1
  | 2 => (roundTo (minmaxN true false a b) ty Mode.default 0).1
  | 3 => old &&& x
  | 4 => old ||| x
  | _ => old ^^^ x

/-- The element of a ROTATE: the pair (a, b) by the angle with cosine co and sine si (R306). -/
def rotatedPair (a b co si : Machine.Num) : Nat := (rotated a co (negN b) si).1 + 65536 * (rotated a si b co).1

/-- A SCAN selects the element v: greater than the threshold, NaN never (R204). -/
def above (c : Cmd) (v : Nat) : Bool :=
  !(floatValue (bits (c.d 5) 7 4) v).isNan && !(floatValue 0 (c.d 5 / 2 ^ 32)).isNan &&
    cmpN (floatValue (bits (c.d 5) 7 4) v) (floatValue 0 (c.d 5 / 2 ^ 32)) == .gt

/-- The pair of element i with the bits v (R204). -/
def pairOf (i v : Nat) : Nat := i % 2 ^ 32 + v * 2 ^ 32

/-- The pair of element i has a place in the destination of the SCAN c. -/
def hasPlace (c : Cmd) (i v : Nat) : Prop := ∃ e ∈ c.out, e.2.2.2 = Claims.pairOf i v

/-- First element of its range that a SCAN reads: PROGRESS (R293). -/
def scanFrom (c : Cmd) : Nat := bits (c.d 0) 47 16

/-- The SCAN c has no pair to write: those with a place have left, and each selected element has one, or the cap is reached (R204). -/
def noPair (c : Cmd) : Prop :=
  c.progress = c.out.length ∧ (bits (c.d 6) 63 32 ≤ c.out.length ∨ ∀ i v, c.got[i]? = some v → above c v = true → hasPlace c (scanFrom c + i) v)

/-- The current command is the SCAN c, and runs. -/
def isScan (s : State) (c : Cmd) : Prop := isCmd s c ∧ c.state = .running ∧ c.kind = 3 ∧ c.phase2 = false

/-- Elements of the current command in turn. -/
def doElements (id : Nat) : Nat → State → State
  | 0, s => s
  | n + 1, s => doElements id n (s.stepCmd id)

/-- The instruction runs the current command until an element does not go through, or none is left. -/
inductive IsRun : Instr → (State → Cmd → Prop) → Prop
  | copy : IsRun .copy fun s c => c.work = 0 ∧ s.remote c = false
  | accw : IsRun .accw fun s c => c.work = 1 ∧ s.remote c = false
  | rotate : IsRun .rotate fun _ c => c.work = 2
  | fill : IsRun .fill fun _ c => c.work = 5
  | remoteCopy : IsRun .remoteCopy fun s c => c.rsub = 0 ∧ s.remote c = true
  | remoteAccw : IsRun .remoteAccw fun s c => c.rsub = 1 ∧ s.remote c = true

inductive ElementStep : Instr → (State → Prop) → (State → State → Prop) → Prop
  | copy (c c1 c2 : Cmd) (l pas : List Nat) (x : Nat) : ElementStep .commandElement
      (fun s => isDoing s c 0 ∧ s.fetchBytes s.cur c false c.sform (c.d 3) (c.walkSrc c.progress) c.ssz = (.ok l, x, c1) ∧
        s.reachAll true c.dform (c.d 4) (c.walkDst c.progress) c.dsz c1 = (.ok pas, c2))
      fun s t => Posted s t c pas x
  | accw (c c1 c2 : Cmd) (l pas : List Nat) (x : Nat) : ElementStep .commandElement
      (fun s => isDoing s c 1 ∧ s.fetchBytes s.cur c false c.sform (c.d 3) (c.walkSrc c.progress) c.ssz = (.ok l, x, c1) ∧
        s.reachAll true c.dform (c.d 4) (c.walkDst c.progress) c.dsz c1 = (.ok pas, c2) ∧ pas.any s.bad = false ∧
        pas.any s.heldAt = false ∧ s.blocked s.cur c2 true pas = false)
      fun s t => Counted s t c ∧ (t.cmd s.cur).flight = c.flight ∧
        (t.cmd s.cur).flags = c.flags ||| (accumulate (bits (c.d 5) 11 8) (bits (c.d 5) 15 12) (bits (c.d 5) 19 16) (bits (c.d 5) 22 20)
          (bits (c.d 5) 24 23) (wordOfBytes (pas.map s.byte)) x).2 ∧
        t.lfe.signals = s.lfe.signals ++ rowSigs c ((c.progress + 1) % c.rowLen = 0) ∧
        t.mem = (s.perform (pas.zip (bytesOf pas.length (accumulated c (wordOfBytes (pas.map s.byte)) x)))).mem ∧
        t.poison = (s.perform (pas.zip (bytesOf pas.length (accumulated c (wordOfBytes (pas.map s.byte)) x)))).poison
  | performed (id n : Nat) (c : Cmd) (p : Post) : ElementStep (.accessPerformed id n ⟨3, 0⟩)
      (fun s => find s.ce.cmds id = some c ∧ c.flight[n]? = some p ∧ postFree c n p ∧ (∀ e ∈ p.cells, s.heldAt e.1 = false) ∧
        s.blocked id c true (p.cells.map fun e => e.1) = false)
      fun s t => t.mem = (s.perform p.cells).mem ∧ t.poison = (s.perform p.cells).poison ∧ t.tasks = s.tasks ∧
        t.ce = { s.ce with cmds := ins s.ce.cmds id { c with flight := c.flight.eraseIdx n } } ∧
        t.lfe.signals = s.lfe.signals ++
          rowSigs c ((p.row + 1) * c.rowLen ≤ c.progress ∧ ∀ q ∈ c.flight.eraseIdx n, q.row ≠ p.row)
  | chunks (id n which : Nat) (c : Cmd) (p : Post) : ElementStep (.accessPerformed id n ⟨3, which⟩)
      (fun s => find s.ce.cmds id = some c ∧ c.flight[n]? = some p ∧ postFree c n p ∧ (∀ e ∈ p.cells, s.heldAt e.1 = false) ∧
        ∀ l, s.blocked id c true l = false)
      fun s t => ∃ f : Nat → Bool, (∀ a b, a / 8 = b / 8 → f a = f b) ∧ t.mem = (s.perform (p.cells.filter fun e => f e.1)).mem ∧
        ((p.cells.any fun e => !f e.1) = true →
          t.ce = { s.ce with cmds := ins s.ce.cmds id { c with
            flight := c.flight.set n { p with cells := p.cells.filter fun e => !f e.1 } } } ∧ t.lfe.signals = s.lfe.signals)
  | rotate (c c1 c2 c3 : Cmd) (l m pas : List Nat) (ab cs : Nat) : ElementStep .commandElement
      (fun s => isDoing s c 2 ∧
        s.fetchBytes s.cur c false c.sform (c.d 3) (c.progress / c.pairs * bits (c.d 8) 31 0 + 4 * (c.progress % c.pairs) : Nat) 4 = (.ok l, ab, c1) ∧
        s.fetchBytes s.cur c1 true (bits (c.d 5) 5 4) (c.d 6)
          (8 * ((strideOf (c.d 5) true).natAbs * c.pairs + c.progress % c.pairs) : Nat) 8 = (.ok m, cs, c2) ∧
        s.reachAll true c.dform (c.d 4) (c.progress / c.pairs * bits (c.d 8) 63 32 + 4 * (c.progress % c.pairs) : Nat) 4 c2 = (.ok pas, c3))
      fun s t => Posted s t c pas (rotatedPair (floatValue 1 (ab % 65536)) (floatValue 1 (ab / 65536)) (floatValue 0 (cs % 2 ^ 32))
        (if strideOf (c.d 5) true < 0 then negN (floatValue 0 (cs / 2 ^ 32)) else floatValue 0 (cs / 2 ^ 32)))
  | fill (c c1 : Cmd) (pas : List Nat) : ElementStep .commandElement
      (fun s => isDoing s c 5 ∧ s.reachAll true c.dform (c.d 4) (c.walkDst c.progress) c.dsz c = (.ok pas, c1))
      fun s t => Posted s t c pas (c.d 3)
  | held (c c1 : Cmd) : ElementStep .commandElement
      (fun s => isDoing s c 5 ∧ c.flight = [] ∧
        s.reachAll true c.dform (c.d 4) (c.walkDst c.progress) c.dsz c = (.stop .absent, c1))
      fun s t => sampled (s.setCmd s.cur { c1 with state := .held }) t
  | remote (c c1 : Cmd) (l : List Nat) (x : Nat) : ElementStep .commandElement
      (fun s => isCmd s c ∧ c.state = .running ∧ s.sendWaits s.cur c = false ∧ s.remote c = true ∧ c.rsub = 0 ∧ c.progress < c.total ∧
        s.fetchBytes s.cur c false c.sform (c.d 3) (c.walkSrc c.progress) c.ssz = (.ok l, x, c1))
      fun s t => t.ce.outbox = s.ce.outbox ++ [(bits (c.d 4) 63 52,
          .write s.cur c.func ((16 * c.die + c.engine) * 16 + c.cls) (((c.d 4 % 2 ^ 52 : Nat) + c.walkDst c.progress) % 2 ^ 64).toNat (bytesOf c.ssz x))] ∧
        (t.cmd s.cur).progress = c.progress + 1 ∧ t.mem = s.mem
  | remoteSignal (c : Cmd) (e : Nat × Nat × Nat × Int) : ElementStep .remoteSignal
      (fun s => isCmd s c ∧ c.state = .running ∧ s.remote c = true ∧ c.rsub = 2 ∧ c.sent = false ∧ c.rsig = [e])
      fun s t => t = { s with ce := { s.ce with
          outbox := s.ce.outbox ++ [(bits (c.d 10) 63 52, .rsig s.cur c.func (bits (c.d 10) 40 32) (BitVec.ofNat 21 (bits (c.d 10) 20 0)))]
          cmds := ins s.ce.cmds s.cur { c with sent := true } } }
  | scanned (c c1 : Cmd) (l : List Nat) (v : Nat) : ElementStep .commandElement
      (fun s => isScan s c ∧ noPair c ∧ scanFrom c + c.got.length < bits (c.d 6) 31 0 ∧
        s.fetchBytes s.cur c true c.sform (c.d 3) ((scanFrom c + c.got.length) * (if bits (c.d 5) 7 4 = 0 then 4 else 2) : Nat)
          (if bits (c.d 5) 7 4 = 0 then 4 else 2) = (.ok l, v, c1))
      fun s t => (t.cmd s.cur).got = c.got ++ [v] ∧ (t.cmd s.cur).count = c.count + (if above c v then 1 else 0) ∧
        (t.cmd s.cur).out = c.out ∧ (t.cmd s.cur).flight = c.flight ∧ (t.cmd s.cur).state = .running ∧ t.mem = s.mem
  | scanPair (c c1 : Cmd) (i v : Nat) (pas : List Nat) : ElementStep .commandElement
      (fun s => isScan s c ∧ c.progress = c.out.length ∧ bits (c.d 6) 31 0 ≤ scanFrom c + c.got.length ∧ c.out.length < bits (c.d 6) 63 32 ∧
        c.got[i]? = some v ∧ above c v = true ∧ ¬hasPlace c (scanFrom c + i) v ∧
        s.reachAll true c.dform (c.d 4) (8 * c.out.length : Nat) 8 c = (.ok pas, c1))
      fun s t => (t.cmd s.cur).progress = c.progress + 1 ∧ (t.cmd s.cur).count = c.count ∧ t.mem = s.mem ∧
        ∃ j w, c.got[j]? = some w ∧ above c w = true ∧ ¬hasPlace c (scanFrom c + j) w ∧
          (t.cmd s.cur).out = c.out ++ [(1, 8 * c.out.length, 8, Claims.pairOf (scanFrom c + j) w)] ∧
          (t.cmd s.cur).flight = c.flight ++ [{ row := 0, cells := pas.zip (bytesOf pas.length (Claims.pairOf (scanFrom c + j) w)) }]
  | scanFault (c c1 : Cmd) (v : Nat) : ElementStep .commandElement
      (fun s => isScan s c ∧ noPair c ∧ c.flight = [] ∧ scanFrom c + c.got.length < bits (c.d 6) 31 0 ∧
        s.fetchBytes s.cur c true c.sform (c.d 3) ((scanFrom c + c.got.length) * (if bits (c.d 5) 7 4 = 0 then 4 else 2) : Nat)
          (if bits (c.d 5) 7 4 = 0 then 4 else 2) = (.stop .absent, v, c1))
      fun s t => c1.count = c.count ∧ sampled ((s.setCmd s.cur c1).endCmd s.cur 1 0x28) t
  | none (c : Cmd) : ElementStep .scan
      (fun s => isScan s c ∧ noPair c ∧ bits (c.d 6) 31 0 ≤ scanFrom c + c.got.length)
      fun s t => t = s
  | pair (c c1 : Cmd) (w o n v : Nat) (pas : List Nat) : ElementStep .scan
      (fun s => isScan s c ∧ noPair { c with progress := 1 } ∧ bits (c.d 6) 31 0 ≤ scanFrom c + c.got.length ∧
        c.out = [(w, o, n, v)] ∧ c.progress = 0 ∧ s.reachAll true c.dform (c.d 4) (o : Nat) n c = (.ok pas, c1))
      fun s t => (t.cmd s.cur).flight = c.flight ++ [{ row := 0, cells := pas.zip (bytesOf pas.length v) }] ∧
        (t.cmd s.cur).progress = 1 ∧ t.mem = s.mem
  | scanEnds (c : Cmd) : ElementStep .commandEnd
      (fun s => isScan s c ∧ noPair c ∧ bits (c.d 6) 31 0 ≤ scanFrom c + c.got.length ∧ c.flight = [])
      fun s t => t = s.endCmd s.cur 0 0
  | arrives (src id fn st va : Nat) (b : List Byte) (pas : List Nat) (d : Cmd) :
      ElementStep (.fabricFlitArrival src (.write id fn st va b))
      (fun s => isLanding s src id st ∧ s.bound (Config.binding src fn - 1) va b.length = (.ok pas, d) ∧ pas.any s.heldAt = false ∧
        (va + b.length - 1) / 8 ≤ va / 8 ∧ ∀ e ∈ s.ce.landed, e.1 = src → e.2.1 ≠ st)
      fun s t => Config.binding src fn ≠ 0 →
        t.mem = (s.perform (pas.zip b)).mem ∧ t.ce = { s.ce with outbox := s.ce.outbox ++ [(src, .ack id 1 0)] }
  | wide (src id fn st va : Nat) (b : List Byte) (pas : List Nat) (d : Cmd) : ElementStep (.fabricFlitArrival src (.write id fn st va b))
      (fun s => isLanding s src id st ∧ s.bound (Config.binding src fn - 1) va b.length = (.ok pas, d) ∧
        va / 8 < (va + b.length - 1) / 8)
      fun s t => Config.binding src fn ≠ 0 → t = { s with ce := { s.ce with inbox := s.ce.inbox ++ [(src, .write id fn st va b)] } }
  | adds (src id fn st va : Nat) (op ty sty rnd sat : BitVec 4) (x : W64) (pas : List Nat) (d : Cmd) :
      ElementStep (.fabricFlitArrival src (.accumulate id fn st va op ty sty rnd sat x))
      (fun s => isLanding s src id st ∧ s.bound (Config.binding src fn - 1) va (width ty.toNat / 8) = (.ok pas, d) ∧
        pas.any s.heldAt = false ∧ pas.any s.bad = false)
      fun s t => Config.binding src fn ≠ 0 →
        t.mem = (s.perform (pas.zip (bytesOf pas.length (accumulate op.toNat ty.toNat sty.toNat rnd.toNat sat.toNat
          (wordOfBytes (pas.map s.byte)) x.toNat).1))).mem ∧
        t.ce = { s.ce with outbox := s.ce.outbox ++ [(src, .ack id 1
          (accumulate op.toNat ty.toNat sty.toNat rnd.toNat sat.toNat (wordOfBytes (pas.map s.byte)) x.toNat).2)] }
  | behind (src id fn st va : Nat) (b : List Byte) : ElementStep (.fabricFlitArrival src (.write id fn st va b))
      (fun s => waitsIn s src st ∧ (src, id) ∉ s.ce.refused)
      fun s t => t = { s with ce := { s.ce with inbox := s.ce.inbox ++ [(src, .write id fn st va b)] } }
  | elementHeld (src id fn st va : Nat) (b : List Byte) (pas : List Nat) (d : Cmd) :
      ElementStep (.fabricFlitArrival src (.write id fn st va b))
      (fun s => isLanding s src id st ∧ s.bound (Config.binding src fn - 1) va b.length = (.ok pas, d) ∧ pas.any s.heldAt = true)
      fun s t => Config.binding src fn ≠ 0 → t = { s with ce := { s.ce with inbox := s.ce.inbox ++ [(src, .write id fn st va b)] } }
  | unbound (src id fn st va : Nat) (b : List Byte) : ElementStep (.fabricFlitArrival src (.write id fn st va b))
      (fun s => isLanding s src id st)
      fun s t => Config.binding src fn = 0 →
        t.ce.outbox = s.ce.outbox ++ [(src, .nack id 0x0A)] ∧ t.ce.refused = (src, id) :: s.ce.refused ∧ t.mem = s.mem ∧
        ∀ e, e ∈ t.ce.inbox ↔ e ∈ s.ce.inbox ∧ (e.1 = src → ∀ x, flitStrm e.2 = some x → x.2 ≠ id)
  | afterRefusal (src id fn st va : Nat) (b : List Byte) : ElementStep (.fabricFlitArrival src (.write id fn st va b))
      (fun s => (src, id) ∈ s.ce.refused) fun s t => t = s
  | ack (src id n : Nat) (fl : BitVec 6) (c : Cmd) : ElementStep (.fabricFlitArrival src (.ack id n fl))
      (fun s => find s.ce.cmds id = some c ∧ c.rowsig = false)
      fun s t => t = s.setCmd id { c with acked := c.acked + n, flags := c.flags ||| fl }
  | nack (src id : Nat) (x : Byte) (c : Cmd) : ElementStep (.fabricFlitArrival src (.nack id x))
      (fun s => find s.ce.cmds id = some c ∧ (c.state = .running ∨ c.state = .held ∨ c.state = .resumed) ∧ s.remote c = true)
      fun s t => t = s.endCmd id 1 x.toNat

end Sys2Proof.Claims

open Sys2Proof Sys2Proof.Machine Sys2Proof.Claims

/-- The life of a command: it leaves QUEUED in order, starts when its wait is satisfied, is held and answered, and ends; a fill is
served or cancelled; the routing engine takes the jobs in order. -/
def Sys2Proof.Claims.CommandLife : Prop := Completes CommandStep

/-- A command of a task with no other in its stream and no signals ends: its entry is pushed with the status word, its packet has one
command less, and takes the cause of a fatal end. -/
def Sys2Proof.Claims.CommandEnds : Prop :=
  ∀ (s : State) (id result cause : Nat) (c : Cmd) (k : Task) (p : Packet), find s.ce.cmds id = some c → find s.tasks c.task = some k →
    find s.lfe.packets c.packet = some p → c.nr = false → c.signals = [] → c.kind ≤ 3 → p.status = 0 → cause < 256 →
    (∀ e ∈ s.ce.cmds, e.2.task = c.task → e.2.engine = c.engine → e.1 = id) → (s.hif.funcs.all fun e => !e.2.flr) = true →
    find (s.endCmd id result cause).ce.cmds id = none ∧
      ((s.endCmd id result cause).packet c.packet).commands = p.commands - 1 ∧
      ((s.endCmd id result cause).packet c.packet).status = (if result = 1 ∨ result = 3 then 5 else 0) ∧
      (result = 1 ∨ result = 3 → ((s.endCmd id result cause).packet c.packet).cause.toNat = cause) ∧
      get [] ((s.endCmd id result cause).task c.task).results c.engine = get [] k.results c.engine ++
        [{ seq := c.seq, word := statusWord c c.count result cause, range := c.wrote }]

/-- The commands of the copy engines, from their engine's queue to their end. When a fill is accepted is the model's reading (log 26). The
check of PROGRESS for ROTATE and SCAN, what the elements of an RTE job are, and which of two fills with one deadline and one number is
served are log 49 (R293, R301, R309). -/
def Obligations.CommandSteps : Prop := CommandLife ∧ CommandEnds

/-- One element of each kind of command, and the elements that leave for and arrive from another package. -/
def Sys2Proof.Claims.ElementsDone : Prop := Completes ElementStep

/-- COPY, ACCW, ROTATE, FILL and the REMOTE forms do the elements of their command one after the other, until one does not go through
or none is left. -/
def Sys2Proof.Claims.CommandRuns : Prop :=
  ∀ (i : Instr) (f : State → Cmd → Prop) (s : State) (c : Cmd), IsRun i f → isCmd s c → f s c → c.state = .running →
    ∃ n, exec i s = .next (doElements s.cur (n + 1) s) ∧
      ((doElements s.cur (n + 1) s).cmd s.cur).place = ((doElements s.cur n s).cmd s.cur).place ∧
      ∀ m, m < n → ((doElements s.cur (m + 1) s).cmd s.cur).place ≠ ((doElements s.cur m s).cmd s.cur).place

/-- The elements of commands: one of each kind, and the run of them. The binding of a sender is an opaque constant (log 25). That ACCW
checks W only, and which writes a read waits for, are the model's readings (log 27). That a remote ACCW's flags come back with its
acknowledgement and go to the FLAGS of the command is the model's reading (log 43). -/
def Obligations.ElementSteps : Prop := ElementsDone ∧ CommandRuns

namespace Sys2Proof.Claims

/-! ### The host (05_launching.md R108 to R110, R114, R116, R124, R127, R129; 06_placing.md R147, R148; 08_memory_sites.md R188;
14_interruptions.md R361, R364 to R366; 15_retirement_and_health.md R385, R394) -/

/-- Function fn reaches queue q (R108). -/
def owns (s : State) (fn q : Nat) : Prop := q < 2048 ∧ (fn = 0 ∨ (s.queue q).func = fn)

/-- A write whose register then reads as v; nothing else than f says changes. -/
def ReadsBack (t : State) (fn off v : Nat) : Prop := t.readReg fn off = BitVec.ofNat 64 v

inductive HostStep : Instr → (State → Prop) → (State → State → Prop) → Prop
  | qbase (fn q : Nat) (v : W64) : HostStep (.registerWrite fn (0x00100000 + 128 * q + 0x08) v) (fun s => owns s fn q)
      fun s t => ReadsBack t fn (0x00100000 + 128 * q + 0x08) (v.toNat % 2 ^ 48) ∧ t = { s with lfe := t.lfe }
  | cbase (fn q : Nat) (v : W64) : HostStep (.registerWrite fn (0x00100000 + 128 * q + 0x10) v) (fun s => owns s fn q)
      fun s t => ReadsBack t fn (0x00100000 + 128 * q + 0x10) (v.toNat % 2 ^ 48) ∧ t = { s with lfe := t.lfe }
  | qstat (fn q : Nat) (v : W64) : HostStep (.registerWrite fn (0x00100000 + 128 * q + 0x48) v) (fun s => owns s fn q)
      fun s t => ∀ n, (t.readReg fn (0x00100000 + 128 * q + 0x48)).getLsbD n =
        ((s.readReg fn (0x00100000 + 128 * q + 0x48)).getLsbD n && !v.getLsbD n)
  | foreignQueue (fn q o : Nat) (v : W64) : HostStep (.registerWrite fn (0x00100000 + 128 * q + o) v)
      (fun s => q < 2048 ∧ o < 128 ∧ fn ≠ 0 ∧ (s.queue q).func ≠ fn) fun s t => t = s
  | notPhysical (fn off : Nat) (v : W64) : HostStep (.registerWrite fn off v)
      (fun _ => fn ≠ 0 ∧ 0x00140000 ≤ off ∧ off < 2 ^ 32 ∧ ¬ (0x00200000 ≤ off ∧ off < 0x00280000) ∧
        ¬ (0x00310000 ≤ off ∧ off < 0x00314000)) fun s t => t = s
  | weight (f : Nat) (v : W64) : HostStep (.registerWrite 0 (0x00301000 + 8 * f) v) (fun _ => f < 64)
      fun _ t => ReadsBack t 0 (0x00301000 + 8 * f) (if v.toNat % 2 ^ 16 = 0 then 1 else v.toNat % 2 ^ 16)
  | share (d : Nat) (v : W64) : HostStep (.registerWrite 0 (0x00302000 + 8 * d) v) (fun _ => d ≤ 1)
      fun s t => if 32 < v.toNat % 64 then t = s else ReadsBack t 0 (0x00302000 + 8 * d) (v.toNat % 64)
  | swap (n : Nat) (v : W64) : HostStep (.registerWrite 0 (0x00400008 + 64 * n) v) (fun _ => n < 8)
      fun _ t => ReadsBack t 0 (0x00400008 + 64 * n)
        (v.toNat / 2 ^ 16 % 2 * 2 ^ 16 + v.toNat / 2 ^ 8 % 2 ^ 8 * 2 ^ 8 + v.toNat % 2 ^ 4)
  | strip (d : Nat) (v : W64) : HostStep (.registerWrite 0 (0x00500000 + 8 * d) v) (fun _ => d ≤ 1 ∧ 8 ≤ v.toNat % 16)
      fun _ t => ReadsBack t 0 (0x00500000 + 8 * d) (v.toNat / 2 ^ 16 % 2 * 2 ^ 16 + v.toNat % 16)
  | budget (n : Nat) (v : W64) : HostStep (.registerWrite 0 (0x00600000 + 8 * n) v) (fun _ => n < 32)
      fun _ t => ReadsBack t 0 (0x00600000 + 8 * n) (v.toNat % 2 ^ 16)
  | moderation (f : Nat) (v : W64) : HostStep (.registerWrite 0 (0x00700010 + 64 * f) v) (fun _ => f < 64)
      fun _ t => ReadsBack t 0 (0x00700010 + 64 * f) (v.toNat % 2 ^ 32)
  | pool (d : Nat) (v : W64) : HostStep (.registerWrite 0 (0x00300000 + 64 * d) v)
      (fun s => d ≤ 1 ∧ 256 ≤ v.toNat % 2 ^ 12 ∧ v.toNat % 2 ^ 12 ≤ 3584 ∧ (s.pool d).ring = [] ∧
        (v.getLsbD 16 = true → 4 ≤ v.toNat / 2 ^ 17 % 2 ^ 5 ∧ v.toNat / 2 ^ 17 % 2 ^ 5 ≤ 16))
      fun _ t => ReadsBack t 0 (0x00300000 + 64 * d)
        (v.toNat / 2 ^ 17 % 2 ^ 5 * 2 ^ 17 + v.toNat / 2 ^ 16 % 2 * 2 ^ 16 + v.toNat % 2 ^ 12)
  | mailbox (fn : Nat) (v : W64) : HostStep (.registerWrite fn (2 ^ 32) v)
      (fun _ => v.getLsbD 0 = true ∧ 4 ≤ v.toNat / 2 ^ 4 % 2 ^ 4 ∧ v.toNat / 2 ^ 4 % 2 ^ 4 ≤ 12)
      fun s t => t = s.setFunc fn { s.func fn with mbEn := true, mbLog := v.toNat / 2 ^ 4 % 2 ^ 4 } ∧
        t.readMailbox fn 0 = BitVec.ofNat 64 (v.toNat / 2 ^ 4 % 2 ^ 4 * 2 ^ 4 + 1)
  | requestBase (fn : Nat) (v : W64) : HostStep (.registerWrite fn (2 ^ 32 + 8) v) (fun _ => True)
      fun s t => t = s.setFunc fn { s.func fn with mbQbase := v.toNat % 2 ^ 48 } ∧ (t.readMailbox fn 8).toNat = v.toNat % 2 ^ 48
  | responseBase (fn : Nat) (v : W64) : HostStep (.registerWrite fn (2 ^ 32 + 0x10) v) (fun _ => True)
      fun s t => t = s.setFunc fn { s.func fn with mbRbase := v.toNat % 2 ^ 48 } ∧ (t.readMailbox fn 0x10).toNat = v.toNat % 2 ^ 48
  | mask (fn vec : Nat) (v : W64) : HostStep (.registerWrite fn (2 ^ 33 + 16 * vec + 12) v) (fun _ => vec < 2048 ∧ v.getLsbD 0 = true)
      fun s t => t = s.setVector fn vec { s.vector fn vec with masked := true }
  | enable (fn q : Nat) (v : W64) (n : Queue) : HostStep (.queueEnable fn q v)
      (fun s => owns s fn q ∧ v.getLsbD 0 = true ∧ (s.queue q).en = false ∧ (s.queue q).resetting = false ∧
        n = { s.queue q with asc := v.toNat / 2 ^ 40 % 2 ^ 12, func := if fn = 0 then v.toNat / 2 ^ 34 % 2 ^ 6 else (s.queue q).func,
                             semf := v.toNat / 2 ^ 25 % 2 ^ 9, clog := v.toNat / 2 ^ 20 % 2 ^ 5, qlog := v.toNat / 2 ^ 15 % 2 ^ 5 } ∧
        4 ≤ n.qlog ∧ n.qlog ≤ 16 ∧ 4 ≤ n.clog ∧ n.clog ≤ 16 ∧ n.qbase % min (2 ^ n.qlog * 128) 65536 = 0 ∧
        n.cbase % min (2 ^ n.clog * 32) 65536 = 0 ∧ get 0 s.hif.ownFile n.semf = n.func ∧ get 0 s.hif.ownAsc n.asc = n.func)
      fun s t => t = s.setQueue q { n with en := true, notified := 0, readIdx := 0, cwrite := 0, cread := 0, skips := [] }
  | refuse (fn q : Nat) (v : W64) : HostStep (.queueEnable fn q v)
      (fun s => owns s fn q ∧ v.getLsbD 0 = true ∧ (s.queue q).en = false ∧
        (v.toNat / 2 ^ 15 % 2 ^ 5 < 4 ∨ 16 < v.toNat / 2 ^ 15 % 2 ^ 5 ∨ v.toNat / 2 ^ 20 % 2 ^ 5 < 4 ∨ 16 < v.toNat / 2 ^ 20 % 2 ^ 5))
      fun s t => t = s.setQueue q { s.queue q with cfgerr := true }
  | reset (fn q : Nat) (v : W64) : HostStep (.queueReset fn q v)
      (fun s => owns s fn q ∧ v.getLsbD 0 = false ∧ (s.queue q).en = true ∧ (s.queue q).configured fn v = s.queue q)
      fun s t => (t.queue q).en = false ∧ t.tasks = s.tasks ∧ t.mem = s.mem ∧
        ∀ n p, find s.lfe.packets n = some p → p.queue = q → p.child = false → p.undispatched = true →
          (t.packet n).phase = .completing ∧ (t.packet n).status = mergeStatus p.status 1
  | notify (fn q : Nat) (v : W64) : HostStep (.queueNotify fn q v)
      (fun s => owns s fn q ∧ (s.func fn).posted = [] ∧ (fn = 0 ∨ (s.func fn).en = true ∧ (s.func fn).flr = false) ∧
        (s.queue q).en = true ∧ s.hif.health ≠ .storm ∧ (v.toNat % 2 ^ 32 + 2 ^ 32 - (s.queue q).readIdx % 2 ^ 32) % 2 ^ 32 ≤ 2 ^ (s.queue q).qlog)
      fun s t => ∃ n, t = s.setQueue q { s.queue q with notified := n } ∧ (s.queue q).readIdx ≤ n ∧
        n ≤ (s.queue q).readIdx + 2 ^ (s.queue q).qlog ∧ n % 2 ^ 32 = v.toNat % 2 ^ 32
  | range (fn q : Nat) (v : W64) : HostStep (.queueNotify fn q v)
      (fun s => owns s fn q ∧ (s.func fn).posted = [] ∧ (fn = 0 ∨ (s.func fn).en = true ∧ (s.func fn).flr = false) ∧
        (s.queue q).en = true ∧ s.hif.health ≠ .storm ∧ 2 ^ (s.queue q).qlog < (v.toNat % 2 ^ 32 + 2 ^ 32 - (s.queue q).readIdx % 2 ^ 32) % 2 ^ 32)
      fun s t => t = s.setQueue q { s.queue q with nrange := true }
  | dropped (fn q : Nat) (v : W64) : HostStep (.queueNotify fn q v)
      (fun s => owns s fn q ∧ (s.func fn).posted = [] ∧ (fn ≠ 0 ∧ ((s.func fn).en = false ∨ (s.func fn).flr = true) ∨
        (s.queue q).en = false ∨ s.hif.health = .storm))
      fun s t => t = s.setFunc fn { s.func fn with ndrop := (s.func fn).ndrop + 1 }
  | notifyBehind (fn q : Nat) (v : W64) : HostStep (.queueNotify fn q v) (fun s => (s.func fn).posted ≠ [])
      fun s t => t = s.setFunc fn { s.func fn with posted := (s.func fn).posted ++ [.notify q v] }
  | withdraw (fn q id : Nat) (v : W64) (p : Packet) : HostStep (.withdrawal fn q v)
      (fun s => owns s fn q ∧ (fn = 0 ∨ (s.func fn).en = true ∧ (s.func fn).flr = false) ∧ (s.queue q).busy = false ∧
        (s.func fn).posted = [] ∧ (s.queue q).notified ≤ (s.queue q).readIdx ∧ v.toNat % 2 ^ 24 ≠ 0 ∧ s.lfe.packets = [(id, p)] ∧ p.queue = q ∧ p.phase = .held ∧
        p.tag = v.toNat % 2 ^ 24 ∧ p.poisoned = false ∧ p.status = 0)
      fun _ t => (t.packet id).phase = .completing ∧ (t.packet id).status = 1 ∧ (t.queue q).busy = true ∧ (t.queue q).wcount = 1
  | withdrawNone (fn q : Nat) (v : W64) : HostStep (.withdrawal fn q v)
      (fun s => owns s fn q ∧ (fn = 0 ∨ (s.func fn).en = true ∧ (s.func fn).flr = false) ∧ (s.queue q).busy = false ∧
        (s.func fn).posted = [] ∧ v.toNat % 2 ^ 24 = 0)
      fun s t => t = s.setQueue q { s.queue q with count := 0 }
  | withdrawLater (fn q : Nat) (v : W64) : HostStep (.withdrawal fn q v)
      (fun s => owns s fn q ∧ (fn = 0 ∨ (s.func fn).en = true ∧ (s.func fn).flr = false) ∧ (s.func fn).posted = [] ∧ (s.queue q).busy = true)
      fun s t => t = s.setQueue q { s.queue q with heldW := (s.queue q).heldW ++ [v.toNat % 2 ^ 24] }
  | withdrawBehind (fn q : Nat) (v : W64) : HostStep (.withdrawal fn q v) (fun s => (s.func fn).posted ≠ [])
      fun s t => t = s.setFunc fn { s.func fn with posted := (s.func fn).posted ++ [.withdraw q v] }
  | consumed (fn q : Nat) (v : W64) : HostStep (.lfeCreadWrite fn q v) (fun s => owns s fn q)
      fun s t => t = s.setQueue q { s.queue q with cread := v.toNat % 2 ^ 32 }
  | counter (fn f n : Nat) (v : W32) : HostStep (.semaphoreWrite fn f n v)
      (fun s => f < 512 ∧ n < 256 ∧ (s.func fn).posted = [] ∧ (fn = 0 ∨ get 0 s.hif.ownFile f = fn))
      fun s t => t.sem f n = v ∧ t.mem = s.mem ∧ ∀ g m, g < 512 → m < 256 → (g ≠ f ∨ m ≠ n) → t.sem g m = s.sem g m
  | counterBehind (fn f n : Nat) (v : W32) : HostStep (.semaphoreWrite fn f n v) (fun s => (s.func fn).posted ≠ [])
      fun s t => t = s.setFunc fn { s.func fn with posted := (s.func fn).posted ++ [.sem f n v] }
  | foreignCounter (fn f n : Nat) (v : W32) : HostStep (.semaphoreWrite fn f n v)
      (fun s => (s.func fn).posted = [] ∧ fn ≠ 0 ∧ get 0 s.hif.ownFile f ≠ fn) fun s t => t = s
  | kill (fn q id : Nat) (v : W64) (p : Packet) : HostStep (.lfeKill fn q v)
      (fun s => owns s fn q ∧ (s.func fn).posted = [] ∧ v.getLsbD 32 = true ∧ (s.func fn).flr = false ∧ s.lfe.packets = [(id, p)] ∧
        p.child = false ∧ p.queue = q ∧ p.qidx % 2 ^ 32 = v.toNat % 2 ^ 32 ∧ p.phase = .dispatched ∧ p.status = 0 ∧ p.cluster = false)
      fun _ t => (t.packet id).stop = true ∧ (t.packet id).status = 6 ∧
        ∀ n k, find t.tasks n = some k → k.packet = id → k.fw = true
  | killWaiting (fn q id : Nat) (v : W64) (p : Packet) : HostStep (.lfeKill fn q v)
      (fun s => owns s fn q ∧ (s.func fn).posted = [] ∧ v.getLsbD 32 = true ∧ (s.func fn).flr = false ∧ s.lfe.packets = [(id, p)] ∧
        p.child = false ∧ p.queue = q ∧ p.qidx % 2 ^ 32 = v.toNat % 2 ^ 32 ∧ p.undispatched = true ∧ p.status = 0 ∧
        (s.queue q).notified ≤ (s.queue q).readIdx)
      fun _ t => (t.packet id).phase = .completing ∧ (t.packet id).status = 6
  | killBehind (fn q : Nat) (v : W64) : HostStep (.lfeKill fn q v) (fun s => (s.func fn).posted ≠ [])
      fun s t => t = s.setFunc fn { s.func fn with posted := (s.func fn).posted ++ [.kill q v] }
  | flr (f : Nat) : HostStep (.functionLevelReset 0 f) (fun s => 0 < f ∧ f < 64 ∧ (s.func f).flr = false ∧
        ∀ e ∈ s.tasks, e.2.packet < s.lfe.nextPacket)
      fun _ t => ∀ n k, find t.tasks n = some k → k.fw = true ∨ (t.packet k.packet).func ≠ f
  | requests (fn : Nat) (v : W64) : HostStep (.mailboxNotify fn v)
      (fun s => (s.func fn).mbEn = true ∧ s.hif.health ≠ .storm ∧ (s.func fn).posted = [] ∧
        (fn = 0 ∨ (s.func fn).en = true ∧ (s.func fn).flr = false) ∧
        (v.toNat % 2 ^ 32 + 2 ^ 32 - (s.func fn).mbRead % 2 ^ 32) % 2 ^ 32 ≤ 2 ^ (s.func fn).mbLog)
      fun s t => ∃ n, t = s.setFunc fn { s.func fn with mbNotified := n } ∧ n % 2 ^ 32 = v.toNat % 2 ^ 32 ∧
        (s.func fn).mbRead ≤ n ∧ n ≤ (s.func fn).mbRead + 2 ^ (s.func fn).mbLog
  | noRequests (fn : Nat) (v : W64) : HostStep (.mailboxNotify fn v)
      (fun s => (s.func fn).posted = [] ∧ (s.hif.health = .storm ∨ fn ≠ 0 ∧ ((s.func fn).en = false ∨ (s.func fn).flr = true)))
      fun s t => t = s.setFunc fn { s.func fn with ndrop := (s.func fn).ndrop + 1 }
  | requestsBehind (fn : Nat) (v : W64) : HostStep (.mailboxNotify fn v) (fun s => (s.func fn).posted ≠ [])
      fun s t => t = s.setFunc fn { s.func fn with posted := (s.func fn).posted ++ [.mailbox v] }

/-- A function whose host may write memory (R110, R364, R366). -/
def mayPostMem (s : State) (fn : Nat) : Prop := fn < 64 ∧ (fn = 0 ∨ (s.func fn).en = true ∧ (s.func fn).flr = false)

/-! ### Resets and the barograph (R382, R383, R392 to R394) -/

inductive ResetStep : Instr → (State → Prop) → (State → State → Prop) → Prop
  | cold : ResetStep (.packageColdReset 0) (fun _ => True)
      fun s t => t = { State.reset with fabno := s.fabno, tick := s.tick, hif := { State.reset.hif with leaf := s.hif.leaf } }
  | warm (d : Nat) : ResetStep (.dieWarmReset 0 d) (fun s => d ≤ 1 ∧ s.underReset d = false)
      fun _ t => t.underReset d = true ∧ (∀ n k, find t.tasks n = some k → k.die = d → k.fw = true) ∧
        (∀ n c, find t.ce.cmds n = some c → c.die ≠ d) ∧
        (∀ f n, f < 256 → n < 256 → (t.sem (256 * d + f) n).toInt < 0) ∧
        ∀ c, c < 96 → (t.core (96 * d + c)).tlb = [] ∧ (t.core (96 * d + c)).icache = []
  | complete (d : Nat) : ResetStep (.dieWarmResetComplete d)
      (fun s => d ≤ 1 ∧ s.underReset d = true ∧ s.time ≤ (if d = 0 then s.hif.resetAt0 else s.hif.resetAt1) + 2 ^ 22)
      fun s t => t.underReset d = false ∧ t = { s with hif := t.hif }
  | tooLate (d : Nat) : ResetStep (.dieWarmResetComplete d)
      (fun s => d ≤ 1 ∧ (if d = 0 then s.hif.resetAt0 else s.hif.resetAt1) + 2 ^ 22 < s.time) fun s t => t = s
  | timeout (d : Nat) : ResetStep (.dieWarmResetTimeout d) (fun s => d ≤ 1 ∧ s.underReset d = true ∧ s.hif.health ≠ .storm ∧
        (if d = 0 then s.hif.resetAt0 else s.hif.resetAt1) + 2 ^ 22 < s.time)
      fun _ t => t.hif.health = .storm ∧ t.hif.baro.frozen = true ∧ ∀ n k, find t.tasks n = some k → k.fw = true
  | inTime (d : Nat) : ResetStep (.dieWarmResetTimeout d)
      (fun s => s.time ≤ (if d = 0 then s.hif.resetAt0 else s.hif.resetAt1) + 2 ^ 22) fun s t => t = s
  | freeze : ResetStep (.barographFreeze 0) (fun _ => True)
      fun s t => t = { s with hif := { s.hif with baro := { s.hif.baro with frozen := true } } }
  | unfreeze : ResetStep (.barographUnfreeze 0) (fun _ => True)
      fun s t => t = { s with hif := { s.hif with baro := { s.hif.baro with frozen := false } } }

end Sys2Proof.Claims

open Sys2Proof Sys2Proof.Machine Sys2Proof.Claims

/-- Host writes: registers that read back as written, writes that are refused or discarded, queues, notifies, withdrawals, counters,
kills and function-level reset. -/
def Sys2Proof.Claims.HostWrites : Prop := Completes HostStep

/-- A host's posted memory writes and the notifies, withdrawals, kills and counter writes behind them are performed in order: the oldest
first, a memory write once no page of it is held. -/
def Sys2Proof.Claims.PostedWrites : Prop :=
  (∀ (s : State) (fn a : Nat) (l : List Byte) (r : List Move), s.agenda = .hostWrite fn a l :: r → mayPostMem s fn → a + l.length ≤ 2 ^ 48 →
    step s = .next ({ s with agenda := r }.setFunc fn { s.func fn with posted := (s.func fn).posted ++ [HostOp.mem (cellsAt a l)] })) ∧
  ∀ (s : State) (fn : Nat) (r : List Move), s.agenda = .hostPerform fn 0 :: r →
    let u (l : List HostOp) := { s with agenda := r }.setFunc fn { s.func fn with posted := l }
    (∀ cells l, (s.func fn).posted = .mem cells :: l → (∀ c ∈ cells, s.heldAt c.1 = false) →
      ∃ t, step s = .next t ∧ sampled ((u l).perform cells) t) ∧
    (∀ cells l, (s.func fn).posted = .mem cells :: l → (∃ c ∈ cells, s.heldAt c.1 = true) → step s = .next { s with agenda := r }) ∧
    (∀ q v l, (s.func fn).posted = .notify q v :: l → step s = .next ((u l).notify fn q v)) ∧
    (∀ q v l, (s.func fn).posted = .withdraw q v :: l → step s = .next ((u l).withdrawal fn q v)) ∧
    (∀ q v l, (s.func fn).posted = .kill q v :: l → step s = .next ((u l).killWrite fn q v)) ∧
    (∀ v l, (s.func fn).posted = .mailbox v :: l → step s = .next ((u l).mailboxNotify fn v)) ∧
    ∀ f n v l, (s.func fn).posted = .sem f n v :: l → f < 512 → n < 256 → fn = 0 ∨ get 0 s.hif.ownFile f = fn →
      ∃ t, step s = .next t ∧ t.sem f n = v ∧ t.mem = s.mem ∧ (t.func fn).posted = l

/-- The host's writes of registers and of memory. Readings of the register space are logs 28 and 40, and reads under a hold log 50.
Outside the ranges of its own files' LFE_SEMVAL and of LFE_KILL a virtual function's write above its queues changes nothing. -/
def Obligations.HostSteps : Prop := HostWrites ∧ PostedWrites

/-- Cold reset leaves the reset state, fabric number and leaf count apart; a warm reset ends a die's tasks and commands, aborts its
counters and empties its TLBs and caches; one that does not end within 2^22 cycles moves the package to storm; the barograph freezes and
unfreezes. That the fabric number stays is the model's choice (log 2). So are the zeros of memory after a cold reset, whose contents R394
leaves undefined (log 1), and the values of registers for which no table gives one (log 5). -/
def Obligations.ResetSteps : Prop := Completes ResetStep

namespace Sys2Proof.Claims

/-! ### The mailbox (04_describing_work.md R84 to R88; 08_memory_sites.md R187, R193, R195, R199; 15_retirement_and_health.md R385 to
R392) -/

/-- The oldest request of function fn has these bytes and this code (R385, R387). -/
def asks (s : State) (fn w code : Nat) : Prop := s.request fn = some w ∧ w / 2 % 2 ^ 15 = code

/-- The slot of function fn's next response is not held, and no earlier response of the function waits (R185, R206, R385). -/
def mayReply (s : State) (fn : Nat) : Prop :=
  s.heldAt ((s.func fn).mbRbase + 64 * ((s.func fn).mbResp % 2 ^ (s.func fn).mbLog)) = false ∧ ∀ r ∈ s.hif.replies, r.1.fn ≠ fn

/-- The request is read. -/
def taken (s : State) (fn : Nat) : State := s.setFunc fn { s.func fn with mbRead := (s.func fn).mbRead + 1 }

/-- The response to request w: TAG, STATUS, CODE and PHASE (R107, R385). -/
def reply (s : State) (fn w status : Nat) : State :=
  let f := s.func fn
  (s.setFunc fn { f with mbResp := f.mbResp + 1 }).perform (cellsAt (f.mbRbase + 64 * (f.mbResp % 2 ^ f.mbLog)) (bytesOf 64
    (w / 2 ^ 48 % 2 ^ 16 * 2 ^ 48 + status * 2 ^ 40 + w / 2 % 2 ^ 15 * 2 + (1 - f.mbResp / 2 ^ f.mbLog % 2))))

/-- What the firmware owes for request w. -/
def owed (fn w : Nat) : Owed := { fn := fn, tag := w / 2 ^ 48 % 2 ^ 16, code := w / 2 % 2 ^ 15 }

/-- Bytes b to b + n - 1 of a request. -/
def at' (w b n : Nat) : Nat := w / 2 ^ (8 * b) % 2 ^ (8 * n)

/-- The requests: code, and whether only the physical function may make it (R386, R387). -/
inductive IsRequest : Instr → Nat → Nat → Bool → Prop
  | load (fn : Nat) : IsRequest (.loadSlot fn) fn 1 false
  | unload (fn : Nat) : IsRequest (.unloadSlot fn) fn 2 false
  | revoke (fn : Nat) : IsRequest (.revokeRange fn) fn 3 false
  | quota (fn : Nat) : IsRequest (.setArenaQuota fn) fn 4 true
  | right (fn : Nat) : IsRequest (.siteRight fn) fn 5 true
  | assign (fn : Nat) : IsRequest (.assignResource fn) fn 6 true
  | pins (fn : Nat) : IsRequest (.clearPins fn) fn 7 false
  | stage (fn : Nat) (ok : Bool) (v : W64) : IsRequest (.stageFirmwareImage fn ok v) fn 8 true
  | start (fn : Nat) : IsRequest (.startFirmwareHandOver fn) fn 9 true
  | discard (fn : Nat) : IsRequest (.discardStagedImage fn) fn 10 true
  | report (fn : Nat) : IsRequest (.attestationReport fn) fn 11 false
  | key (fn : Nat) : IsRequest (.readIdentityPublicKey fn) fn 12 false

/-- A firmware idle point of core c (R389). -/
def idlePoint (s : State) (c : Nat) : Prop :=
  (∀ e ∈ s.tasks, e.2.coreKey = c → ∀ x, e.2.phase ≠ .switchedOut x) ∧ (∀ e ∈ s.hif.slots, e.2.owed = []) ∧
    (∀ e ∈ s.hif.revs, e.2.owed = none) ∧ s.hif.replies = [] ∧ (∀ e ∈ s.ce.cmds, e.2.state = .held → e.2.die ≠ c / 96) ∧
    (∀ e ∈ s.lfe.packets, ∀ w, e.2.walker = some w → w.held = true → e.2.home ≠ c / 96) ∧
    ∀ k, find s.tasks c = some k → k.ord.allDone = true ∧ k.hnd.allDone = true ∧ performed k.stqOut = true

inductive MailStep : Instr → (State → Prop) → (State → State → Prop) → Prop
  | unknown (i : Instr) (fn w c : Nat) (pf : Bool) (h : IsRequest i fn c pf) : MailStep i
      (fun s => s.request fn = some w ∧ mayReply s fn ∧ (w / 2 % 2 ^ 15 = 0 ∨ 12 < w / 2 % 2 ^ 15))
      fun s t => sampled (reply (taken s fn) fn w 2) t
  | waiting (i : Instr) (fn w c : Nat) (pf : Bool) (h : IsRequest i fn c pf) : MailStep i
      (fun s => s.request fn = some w ∧ ¬ mayReply s fn ∧ (w / 2 % 2 ^ 15 = 0 ∨ 12 < w / 2 % 2 ^ 15))
      fun s t => sampled { taken s fn with hif := { (taken s fn).hif with replies := s.hif.replies ++ [(owed fn w, 2)] } } t
  | notYours (i : Instr) (fn w c : Nat) (h : IsRequest i fn c true) : MailStep i
      (fun s => asks s fn w c ∧ mayReply s fn ∧ fn ≠ 0) fun s t => sampled (reply (taken s fn) fn w 1) t
  | load (fn w n : Nat) (im tm we : List Nat) : MailStep (.loadSlot fn)
      (fun s => asks s fn w 1 ∧ loadBad w = false ∧ n = at' w 8 1 ∧ get 0 s.hif.ownSlot n = fn ∧ get 0 s.hif.ownAsc (at' w 10 2) = fn ∧
        (s.rslot n).state = .invalid ∧
        (taken s fn).frames (at' w 10 2) false (at' w 16 8) ((at' w 24 8 + 65535) / 65536) = .ok im ∧
        (taken s fn).frames (at' w 10 2) false (at' w 32 8) ((at' w 40 8 + 65535) / 65536) = .ok tm ∧
        (taken s fn).frames (at' w 10 2) (at' w 9 1 == 1) (at' w 48 8) ((at' w 56 8 + 65535) / 65536) = .ok we)
      fun s t => ∃ r, sampled ((taken s fn).setRslot n r) t ∧ r.state = .loading ∧ r.gen = ((s.rslot n).gen + 1) % 256 ∧ r.func = fn ∧
        r.image = im ∧ r.tmpl = tm ∧ r.weights = we ∧ r.isize = at' w 24 8 ∧ r.tmplLen = at' w 40 8 ∧
        r.writable = (at' w 9 1 == 1) ∧ r.kernels = [] ∧ r.owed = [owed fn w]
  | loadWaits (fn w n : Nat) : MailStep (.loadSlot fn)
      (fun s => asks s fn w 1 ∧ loadBad w = false ∧ n = at' w 8 1 ∧ get 0 s.hif.ownSlot n = fn ∧ get 0 s.hif.ownAsc (at' w 10 2) = fn ∧
        (s.rslot n).state = .invalid ∧
        (taken s fn).frames (at' w 10 2) false (at' w 16 8) ((at' w 24 8 + 65535) / 65536) = .waits ∧ at' w 40 8 = 0 ∧ at' w 56 8 = 0)
      fun s t => t = s
  | loaded (n : Nat) (r : RSlot) (fn w : Nat) : MailStep (.slotLoadComplete n)
      (fun s => s.rslot n = r ∧ r.state = .loading ∧ r.owed = [owed fn w] ∧ s.heldAt (r.image.headD 0) = false ∧ mayReply s fn ∧
        r.mapOk = true ∧ s.badIn (r.image.headD 0) 2048 = false ∧
        ∀ k, k < 64 → s.tableEntry n k = 0 ∨ kernelBad (s.tableEntry n k) r.isize = false)
      fun s t => sampled (reply (s.setRslot n { r with
          state := .resident, owed := [], kcnt := ((List.range 64).filter fun k => s.tableEntry n k != 0).length,
          kernels := (List.range 64).map fun k => BitVec.ofNat 256 (s.tableEntry n k) }) fn w 0) t
  | loadHeld (n : Nat) (r : RSlot) : MailStep (.slotLoadComplete n)
      (fun s => s.rslot n = r ∧ r.state = .loading ∧ s.heldAt (r.image.headD 0) = true) fun s t => t = s
  | badLoad (n : Nat) (r : RSlot) (k : Nat) : MailStep (.slotLoadComplete n)
      (fun s => s.rslot n = r ∧ r.state = .loading ∧ s.heldAt (r.image.headD 0) = false ∧ k < 64 ∧ s.tableEntry n k ≠ 0 ∧
        kernelBad (s.tableEntry n k) r.isize = true)
      fun _ t => t.rslot n = { RSlot.empty with gen := r.gen, func := r.func }
  | unloadNone (fn w : Nat) : MailStep (.unloadSlot fn)
      (fun s => asks s fn w 2 ∧ mayReply s fn ∧ restZero w [(8, 1)] = true ∧ get 0 s.hif.ownSlot (at' w 8 1) = fn ∧
        (s.rslot (at' w 8 1)).state = .invalid)
      fun s t => sampled (reply (taken s fn) fn w 0) t
  | unload (fn w : Nat) : MailStep (.unloadSlot fn)
      (fun s => asks s fn w 2 ∧ restZero w [(8, 1)] = true ∧ get 0 s.hif.ownSlot (at' w 8 1) = fn ∧
        (s.rslot (at' w 8 1)).state = .resident ∧ (s.lfe.packets.all fun e => e.2.slot != at' w 8 1 || !e.2.alive) = true)
      fun s t => (t.rslot (at' w 8 1)).state = .invalid ∧ (t.rslot (at' w 8 1)).gen = (s.rslot (at' w 8 1)).gen
  | unloading (fn w : Nat) : MailStep (.unloadSlot fn)
      (fun s => asks s fn w 2 ∧ restZero w [(8, 1)] = true ∧ get 0 s.hif.ownSlot (at' w 8 1) = fn ∧
        (s.rslot (at' w 8 1)).state = .resident ∧ (s.lfe.packets.any fun e => e.2.slot == at' w 8 1 && e.2.alive) = true)
      fun s t => t.rslot (at' w 8 1) = { s.rslot (at' w 8 1) with state := .unloading, owed := [owed fn w] }
  | revoke (fn w : Nat) : MailStep (.revokeRange fn)
      (fun s => asks s fn w 3 ∧ rangeBad w = false ∧ get 0 s.hif.ownAsc (at' w 8 2) = fn)
      fun s t => t.mem = s.mem ∧ t.hif.nextRev = s.hif.nextRev + 1 ∧ (find t.hif.revs s.hif.nextRev).isSome ∧
        ∀ n k, find t.tasks n = some k → ∀ r, (k.rh r).v = true → (k.rh r).block = false → (k.rh r).asc = at' w 8 2 →
          (k.rh r).va < at' w 16 8 + at' w 24 8 → (k.rh r).va + (k.rh r).size ≤ at' w 16 8
  | revoked (n fn w : Nat) (v : Revocation) : MailStep (.revocationComplete n)
      (fun s => find s.hif.revs n = some v ∧ v.owed = some (owed fn w) ∧ v.cmds = [] ∧ v.writes = [] ∧ mayReply s fn)
      fun s t => sampled (reply { s with hif := { s.hif with revs := del s.hif.revs n } } fn w 0) t
  | revoking (n m : Nat) (v : Revocation) (a b : Nat) (k : Task) : MailStep (.revocationComplete n)
      (fun s => find s.hif.revs n = some v ∧ (some m, a, b) ∈ v.writes ∧ find s.tasks m = some k ∧ k.touching a b = true)
      fun s t => t = s
  | quota (w i : Nat) : MailStep (.setArenaQuota 0)
      (fun s => asks s 0 w 4 ∧ mayReply s 0 ∧ restZero w [(8, 3), (12, 4)] = true ∧ ascBad w 8 = false ∧ i = at' w 10 1 ∧ i ≤ 7 ∧ (s.site i).arena ≠ [])
      fun s t => sampled (reply ((taken s 0).setSite i { s.site i with quota := put 0 (s.site i).quota (at' w 8 2) (at' w 12 4) }) 0 w 0) t
  | right (w i : Nat) : MailStep (.siteRight 0)
      (fun s => asks s 0 w 5 ∧ mayReply s 0 ∧ restZero w [(8, 4)] = true ∧ ascBad w 8 = false ∧ i = at' w 10 1 ∧ i ≤ 7 ∧ at' w 11 1 ≤ 1)
      fun s t => ∃ l, sampled (reply ((taken s 0).setSite i { s.site i with rights := l }) 0 w 0) t ∧
        ∀ a, a ∈ l ↔ if a = at' w 8 2 then at' w 11 1 = 1 else a ∈ (s.site i).rights
  | assignQueue (w : Nat) : MailStep (.assignResource 0)
      (fun s => asks s 0 w 6 ∧ mayReply s 0 ∧ restZero w [(8, 1), (10, 3)] = true ∧ at' w 8 1 = 0 ∧ at' w 10 2 < 2048 ∧ at' w 12 1 < 64 ∧
        (s.queue (at' w 10 2)).en = false ∧ (s.queue (at' w 10 2)).resetting = false)
      fun s t => sampled (reply ((taken s 0).setQueue (at' w 10 2) { s.queue (at' w 10 2) with func := at' w 12 1 }) 0 w 0) t
  | assignFile (w : Nat) : MailStep (.assignResource 0)
      (fun s => asks s 0 w 6 ∧ restZero w [(8, 1), (10, 3)] = true ∧ at' w 8 1 = 1 ∧ at' w 10 2 < 512 ∧ at' w 12 1 < 64)
      fun s t => t.hif.ownFile = put 0 s.hif.ownFile (at' w 10 2) (at' w 12 1) ∧ t.hif.ownSlot = s.hif.ownSlot ∧
        t.hif.ownAsc = s.hif.ownAsc ∧ t.tasks = s.tasks
  | assignSlot (w : Nat) : MailStep (.assignResource 0)
      (fun s => asks s 0 w 6 ∧ restZero w [(8, 1), (10, 3)] = true ∧ at' w 8 1 = 2 ∧ at' w 10 2 < 256 ∧ at' w 12 1 < 64 ∧
        (s.rslot (at' w 10 2)).state = .invalid)
      fun s t => t.hif.ownSlot = put 0 s.hif.ownSlot (at' w 10 2) (at' w 12 1) ∧
        t.rslot (at' w 10 2) = { s.rslot (at' w 10 2) with func := at' w 12 1 } ∧ t.hif.ownFile = s.hif.ownFile ∧ t.tasks = s.tasks
  | pins (fn w : Nat) (l : List Nat) : MailStep (.clearPins fn)
      (fun s => asks s fn w 7 ∧ mayReply s fn ∧ rangeBad w = false ∧ get 0 s.hif.ownAsc (at' w 8 2) = fn ∧
        (taken s fn).rangeOf (at' w 8 2) (fun _ => true) 65536 (at' w 16 8) (at' w 24 8 / 65536) = .ok l)
      fun s t => sampled (reply ((taken s fn).unpin l) fn w 0) t ∧ ∀ a ∈ l, ∀ i, i ≤ 7 → a < 2 ^ 41 → siteOf a = some i →
        a % 2 ^ 38 / 65536 ∉ (t.site i).pins
  | stage (w : Nat) (v : W64) : MailStep (.stageFirmwareImage 0 true v)
      (fun s => asks s 0 w 8 ∧ restZero w [(16, 16)] = true ∧ at' w 16 8 % 4096 = 0 ∧ at' w 24 8 % 4096 = 0 ∧ 4096 ≤ at' w 24 8 ∧
        at' w 24 8 ≤ 2 ^ 28 ∧ mapped (at' w 16 8) = true ∧ mapped (at' w 16 8 + at' w 24 8 - 1) = true ∧ s.hif.fwState = .idle ∧
        at' w 16 8 + at' w 24 8 ≤ 2 ^ 48 ∧ ∀ a, at' w 16 8 ≤ a → a < at' w 16 8 + at' w 24 8 → s.heldAt a = false)
      fun s t => t.hif.fwState = .staged ∧ t.hif.active = s.hif.active ∧ ∃ m, t.hif.staged = some m ∧ m.version = v ∧
        m.addr = at' w 16 8 ∧ m.len = at' w 24 8 ∧
        m.hash = BitVec.ofNat 256 (wordOfBytes (sha256 ((taken s 0).bytes (at' w 16 8) (at' w 24 8))))
  | imageBeyond (w : Nat) (ok : Bool) (v : W64) : MailStep (.stageFirmwareImage 0 ok v)
      (fun s => asks s 0 w 8 ∧ mayReply s 0 ∧ 2 ^ 48 < at' w 16 8 + at' w 24 8) fun s t => sampled (reply (taken s 0) 0 w 2) t
  | unsigned (w : Nat) (v : W64) : MailStep (.stageFirmwareImage 0 false v)
      (fun s => asks s 0 w 8 ∧ mayReply s 0 ∧ restZero w [(16, 16)] = true ∧ at' w 16 8 % 4096 = 0 ∧ at' w 24 8 % 4096 = 0 ∧ 4096 ≤ at' w 24 8 ∧
        at' w 24 8 ≤ 2 ^ 28 ∧ mapped (at' w 16 8) = true ∧ mapped (at' w 16 8 + at' w 24 8 - 1) = true ∧ s.hif.fwState = .idle ∧
        at' w 16 8 + at' w 24 8 ≤ 2 ^ 48 ∧ ∀ a, at' w 16 8 ≤ a → a < at' w 16 8 + at' w 24 8 → s.heldAt a = false)
      fun s t => sampled (reply (taken s 0) 0 w 4) t
  | switch (w : Nat) : MailStep (.startFirmwareHandOver 0) (fun s => asks s 0 w 9 ∧ restZero w [] = true ∧ s.hif.fwState = .staged)
      fun s t => t.hif.fwState = .switching ∧ t.hif.fwOwed = some (owed 0 w) ∧ t.hif.staged = s.hif.staged ∧ t.mem = s.mem
  | discard (w : Nat) : MailStep (.discardStagedImage 0) (fun s => asks s 0 w 10 ∧ restZero w [] = true ∧ s.hif.fwState = .staged)
      fun s t => t.hif.fwState = .idle ∧ t.hif.staged = none ∧ t.hif.active = s.hif.active
  | coreSwitch (c : Nat) : MailStep (.firmwareIdlePointSwitch c)
      (fun s => c < 192 ∧ idlePoint s c ∧ s.hif.fwState = .switching ∧ (s.core c).fwSwitched = false ∧
        s.time ≤ s.hif.fwSince + 2 ^ 24 ∧ ∃ d, d < 192 ∧ d ≠ c ∧ (s.core d).fwSwitched = false)
      fun s t => t = { s with tasks := del s.tasks c }.setCore c { s.core c with fwSwitched := true, fwOld := none }
  | coreLate (c : Nat) : MailStep (.firmwareIdlePointSwitch c)
      (fun s => c < 192 ∧ idlePoint s c ∧ s.hif.fwState = .switching ∧ (s.core c).fwSwitched = false ∧
        s.hif.fwSince + 2 ^ 24 < s.time ∧ s.hif.health ≠ .storm)
      fun s t => t.hif.fwState = .idle ∧ t.hif.active = s.hif.active ∧ t.hif.staged = none ∧ t.hif.health = .overcast
  | coreBack (c : Nat) : MailStep (.firmwareIdlePointSwitch c)
      (fun s => c < 192 ∧ idlePoint s c ∧ s.hif.fwState ≠ .switching ∧ (s.core c).fwOld ≠ none)
      fun s t => t = { s with tasks := del s.tasks c }.setCore c { s.core c with fwOld := none }
  | notIdle (c : Nat) : MailStep (.firmwareIdlePointSwitch c) (fun s => ¬ idlePoint s c) fun s t => t = s
  | commit (c : Nat) (m : FwImage) : MailStep (.firmwareIdlePointSwitch c)
      (fun s => c < 192 ∧ idlePoint s c ∧ s.hif.fwState = .switching ∧ (s.core c).fwSwitched = false ∧
        s.time ≤ s.hif.fwSince + 2 ^ 24 ∧ (∀ d, d < 192 → d ≠ c → (s.core d).fwSwitched = true) ∧ s.hif.staged = some m)
      fun _ t => t.hif.fwState = .idle ∧ t.hif.active = m ∧ t.hif.staged = none ∧ ∀ d, (t.core d).fwSwitched = false
  | rollBack (c : Nat) : MailStep (.firmwareSwitchTimeout c)
      (fun s => s.hif.fwState = .switching ∧ (s.core c).fwSwitched = false ∧ s.hif.fwSince + 2 ^ 24 < s.time ∧ s.hif.health ≠ .storm)
      fun s t => t.hif.fwState = .idle ∧ t.hif.active = s.hif.active ∧ t.hif.staged = none ∧ t.hif.health = .overcast ∧
        ∀ d, (t.core d).fwSwitched = false ∧ ((s.core d).fwSwitched = true → (t.core d).fwOld = s.hif.staged)
  | inTime (c : Nat) : MailStep (.firmwareSwitchTimeout c) (fun s => s.time ≤ s.hif.fwSince + 2 ^ 24) fun s t => t = s
  | report (fn w : Nat) (l : List Nat) : MailStep (.attestationReport fn)
      (fun s => asks s fn w 11 ∧ mayReply s fn ∧ restZero w [(8, 34), (48, 8)] = true ∧ ascBad w 40 = false ∧ at' w 48 8 % 4 = 0 ∧
        get 0 s.hif.ownAsc (at' w 40 2) = fn ∧ s.hif.leaf < 2 ^ 20 ∧
        (taken s fn).rangeOf (at' w 40 2) (fun x => x.w) 1 (at' w 48 8) 2964 = .ok l ∧ l.any s.heldAt = false)
      fun s t => ∃ u, sampled (reply u fn w 0) t ∧ u.hif.leaf = s.hif.leaf + 1 ∧ u.mem = (s.perform (l.zip ((taken s fn).signedReport (at' w 8 32)))).mem
  | noLeaf (fn w : Nat) : MailStep (.attestationReport fn)
      (fun s => asks s fn w 11 ∧ mayReply s fn ∧ restZero w [(8, 34), (48, 8)] = true ∧ ascBad w 40 = false ∧ at' w 48 8 % 4 = 0 ∧
        get 0 s.hif.ownAsc (at' w 40 2) = fn ∧ 2 ^ 20 ≤ s.hif.leaf)
      fun s t => sampled (reply (taken s fn) fn w 4) t
  | key (fn w : Nat) (l : List Nat) : MailStep (.readIdentityPublicKey fn)
      (fun s => asks s fn w 12 ∧ mayReply s fn ∧ restZero w [(40, 2), (48, 8)] = true ∧ ascBad w 40 = false ∧ at' w 48 8 % 4 = 0 ∧
        get 0 s.hif.ownAsc (at' w 40 2) = fn ∧ (taken s fn).rangeOf (at' w 40 2) (fun x => x.w) 1 (at' w 48 8) 56 = .ok l ∧
        l.any s.heldAt = false)
      fun s t => ∃ u, sampled (reply u fn w 0) t ∧
        sampled ((taken s fn).perform (l.zip ([0, 0, 0, 8, 0, 0, 0, 3] ++ (List.range 48).map Config.publicKey))) u

/-! ### Sites, memory errors, strips and ports (R185 to R187, R196, R206, R272, R273, R381, R383, R417) -/

inductive SiteStep : Instr → (State → Prop) → (State → State → Prop) → Prop
  | draining (i : Nat) : SiteStep (.handoverDraining i) (fun s => i ≤ 7 ∧ (s.site i).hstate = .revoking ∧
        (∀ e ∈ s.tasks, ∀ a ∈ e.2.slice ++ e.2.ldqOut ++ e.2.stqOut, Access.inSite i a = false) ∧
        (∀ e ∈ s.ce.late, ∀ c ∈ e.2, siteOf c.1 ≠ some i) ∧ ∀ e ∈ s.ce.cmds, e.2.state = .ended ∨ ∀ p ∈ e.2.pages, siteOf p.2.1 ≠ some i)
      fun s t => t = s.setSite i { s.site i with hstate := .draining }
  | writingBack (i : Nat) : SiteStep (.handoverWritingBack i) (fun s => i ≤ 7 ∧ (s.site i).hstate = .draining ∧ (s.site i).hot = false)
      fun s t => t = s.setSite i { s.site i with hstate := .writingBack }
  | switching (i : Nat) : SiteStep (.handoverSwitching i) (fun s => i ≤ 7 ∧ (s.site i).hstate = .writingBack ∧ (s.site i).hot = false)
      fun s t => t = s.setSite i { s.site i with hstate := .switching }
  | over (i : Nat) (h : HandOver) : SiteStep (.handoverComplete i)
      (fun s => i ≤ 7 ∧ (s.site i).hstate = .switching ∧ (s.site i).hand = some h ∧ 0 ≤ (s.sem h.file h.counter).toInt ∧
        0 ≤ (s.sem h.file h.counter).toInt + h.delta ∧ (s.sem h.file h.counter).toInt + h.delta < 2 ^ 31)
      fun s t => t.site i = { s.site i with hstate := .none, hand := none, owner := 1 - (s.site i).owner } ∧
        (t.sem h.file h.counter).toInt = (s.sem h.file h.counter).toInt + h.delta ∧ ∀ a, t.byte a = s.byte a
  | swap (i g n : Nat) : SiteStep (.swap i g)
      (fun s => i ≤ 7 ∧ g < 786432 ∧ (s.site i).enable = true ∧ (s.site i).hot = false ∧ (s.site i).swapping = none ∧
        g ∉ (s.site i).swapped ∧ (s.site i).swapSlot g = some n)
      fun s t => t = s.setSite i { s.site i with swapping := some (g, n) }
  | swapped (i g n : Nat) : SiteStep (.swapComplete i)
      (fun s => i ≤ 7 ∧ (s.site i).swapping = some (g, n) ∧ (s.site i).hot = false ∧ n ≤ 4 ∧ (s.site i).frame g n ≠ 0 ∧
        (s.site i).isPinned g ((s.site i).fastSlot g) = false ∧
        ∃ f, f ≤ 4 ∧ (s.site i).frame g f = 0 ∧ ∀ m, m < f → (s.site i).frame g m ≠ 0)
      fun s t => t = (s.setSite i (t.site i)) ∧ (t.site i).frame g n = 0 ∧ (t.site i).swapping = none ∧
        (t.site i).swapCnt = (s.site i).swapCnt + 1 ∧ (t.site i).frame g ((s.site i).fastSlot g) = (s.site i).frame g n ∧
        ∀ m, m ≤ 4 → m ≠ n → m ≠ (s.site i).fastSlot g → (t.site i).frame g m = (s.site i).frame g m
  | pinnedMeanwhile (i g n : Nat) : SiteStep (.swapComplete i)
      (fun s => (s.site i).swapping = some (g, n) ∧ (s.site i).hot = false ∧ (s.site i).isPinned g ((s.site i).fastSlot g) = true)
      fun s t => t = s.setSite i { s.site i with swapping := none }
  | decay (i : Nat) : SiteStep (.decayPeriod i) (fun s => i ≤ 7 ∧ (s.site i).decayAt + 2 ^ (16 + (s.site i).decay) ≤ s.time)
      fun s t => ∃ l, t = s.setSite i { s.site i with
          shadow := l, swapped := [], decayAt := (s.site i).decayAt + 2 ^ (16 + (s.site i).decay) } ∧
        ((sortedFrom 0 0 (s.site i).shadow) = true → ∀ n, get 0 l n = get 0 (s.site i).shadow n >>> 1)
  | early (i : Nat) : SiteStep (.decayPeriod i) (fun s => s.time < (s.site i).decayAt + 2 ^ (16 + (s.site i).decay)) fun s t => t = s
  | hold (i : Nat) : SiteStep (.selfRefreshEntry i) (fun s => i ≤ 7 ∧ (s.site i).hot = false)
      fun s t => t = s.setSite i { s.site i with
        hot := true, holdCnt := min 255 ((s.site i).holdCnt + 1), holdAt := s.time, timedOut := false }
  | release (i : Nat) : SiteStep (.selfRefreshExit i) (fun s => i ≤ 7 ∧ (s.site i).hot = true ∧ s.time ≤ (s.site i).holdAt + 1879700)
      fun s t => t = s.setSite i { s.site i with hot := false }
  | releaseLate (i : Nat) : SiteStep (.selfRefreshExit i) (fun s => i ≤ 7 ∧ (s.site i).hot = true ∧
        (s.site i).holdAt + 1879700 < s.time ∧ (s.site i).timedOut = true ∧ firstOfCycle s)
      fun s t => t.site i = { s.site i with hot := false } ∧ t.hif.baro.total = s.hif.baro.total + 1 ∧
        (get 0 t.hif.baro.ring s.hif.baro.head).toNat / 2 ^ 108 % 2 ^ 20 = 0x05 * 2 ^ 12 + i
  | longHold (i : Nat) : SiteStep (.thermalHoldTimeout i) (fun s => i ≤ 7 ∧ (s.site i).hot = true ∧ (s.site i).timedOut = false ∧
        (s.site i).holdAt + 1879700 < s.time ∧ s.hif.health ≠ .storm)
      fun s t => t.hif.health = .overcast ∧ t.site i = { s.site i with timedOut := true } ∧ t.mem = s.mem
  | uncorrected (pa n : Nat) : SiteStep (.uncorrectableMemoryError pa n)
      (fun s => s.stands pa = true ∧ (∀ a, pa ≤ a → a < pa + n → reserved a = false ∧ s.stands a = true) ∧ s.hif.baro.frozen = false)
      fun s t => (∀ a, t.byte a = s.byte a ∧ t.bad a = (s.bad a || (decide (pa ≤ a) && decide (a < pa + n)))) ∧
        t.hif.baro.total = s.hif.baro.total + 1 ∧ t.tasks = s.tasks
  | inTable (pa n : Nat) : SiteStep (.uncorrectableMemoryError pa n)
      (fun s => s.stands pa = true ∧ (∃ a, pa ≤ a ∧ a < pa + n ∧ reserved a = true) ∧ s.hif.health ≠ .storm)
      fun _ t => t.hif.health = .storm ∧ t.hif.baro.frozen = true
  | noByte (pa n : Nat) : SiteStep (.uncorrectableMemoryError pa n) (fun s => s.stands pa = false) fun s t => t = s
  | corrected (i pa : Nat) : SiteStep (.correctedMemoryError i pa)
      (fun s => i ≤ 7 ∧ s.stands pa = true ∧ siteOf pa = some i ∧ (∀ t, (s.site i).correctedAt = some t → t + 2 ^ 20 ≤ s.time) ∧ s.hif.baro.frozen = false)
      fun s t => t.site i = { s.site i with corrected := 0, correctedAt := some s.time } ∧ t.hif.baro.total = s.hif.baro.total + 1 ∧
        t.mem = s.mem
  | counted (i pa : Nat) : SiteStep (.correctedMemoryError i pa)
      (fun s => i ≤ 7 ∧ s.stands pa = true ∧ siteOf pa = some i ∧ (s.hif.baro.frozen = true ∨ ∃ t, (s.site i).correctedAt = some t ∧ s.time < t + 2 ^ 20))
      fun s t => t = s.setSite i { s.site i with corrected := (s.site i).corrected + 1 }
  | strip (c : Nat) : SiteStep (.testStrip c)
      (fun s => (if c < 96 then s.hif.strip0 else s.hif.strip1) = true ∧
        2 ^ (if c < 96 then s.hif.ilog0 else s.hif.ilog1) ≤ (s.core c).mmas ∧ (s.core c).strip = false ∧
        ∀ e ∈ s.tasks, e.2.coreKey = c → e.2.inMatrix = false)
      fun s t => t = s.setCore c { s.core c with strip := true }
  | passes (c : Nat) (m : W16) : SiteStep (.testStripComplete c m)
      (fun s => (s.core c).strip = true ∧ m &&& ~~~(s.core c).fenced = 0)
      fun s t => t = s.setCore c { s.core c with strip := false, mmas := 0, lastPass := s.time }
  | fails (c : Nat) (m : W16) : SiteStep (.testStripComplete c m)
      (fun s => (s.core c).strip = true ∧ m &&& ~~~(s.core c).fenced ≠ 0 ∧ s.hif.health ≠ .storm ∧
        ((List.range 16).filter fun n => ((s.core c).fenced ||| m).getLsbD n).length ≤ 8)
      fun s t => (t.core c).fenced = (s.core c).fenced ||| m ∧ (t.core c).out = (s.core c).out ∧ (t.core c).mmas = 0 ∧
        t.hif.health = .overcast ∧ t.tasks = s.tasks
  | withdrawn (c : Nat) (m : W16) : SiteStep (.testStripComplete c m)
      (fun s => (s.core c).strip = true ∧ m &&& ~~~(s.core c).fenced ≠ 0 ∧ s.hif.health ≠ .storm ∧
        8 < ((List.range 16).filter fun n => ((s.core c).fenced ||| m).getLsbD n).length)
      fun _ t => (t.core c).out = true ∧ t.hif.health = .overcast ∧ ∀ n k, find t.tasks n = some k → k.coreKey = c → k.fw = true
  | retrain (p : Nat) : SiteStep (.fabricLinkRetrain p) (fun s => p < 96 ∧ firstOfCycle s)
      fun s t => t.hif.baro.total = s.hif.baro.total + 1 ∧ t.hif.health = s.hif.health ∧
        (get 0 t.hif.baro.ring s.hif.baro.head).toNat / 2 ^ 108 % 2 ^ 20 = 0x07 * 2 ^ 12 + p % 2 ^ 12
  | lost (p : Nat) : SiteStep (.fabricPortLost p) (fun s => p < 96 ∧ p ∉ s.ce.lost ∧ s.hif.health ≠ .storm)
      fun s t => t.hif.health = .overcast ∧ t.ce = { s.ce with lost := p :: s.ce.lost } ∧ t.tasks = s.tasks

end Sys2Proof.Claims

open Sys2Proof Sys2Proof.Machine Sys2Proof.Claims

/-- The mailbox: every request's answer and effect, the completion of loads and revocations, and the hand-over of firmware from image to
image, committed once the last core has switched and rolled back where one does not. Statuses between the rules' lines are the model's
reading (log 30), and so are the waits of responses under a hold (log 50) and what an idle point of a core asks of the package (log 46).
The type words 8 and 3 and the byte order of a public key are PRESUMED from RFC 8554 (log 15). That ISIZE and KCNT of a slot whose load
failed read 0, that a poisoned byte of a table fails the load, and that the slot keeps the table as read, are log 49 (R86, R88). -/
def Obligations.MailboxSteps : Prop := Completes MailStep

/-- The hand-over of a site through its states, swaps, decay and thermal holds; memory errors, test strips and fabric ports. Shadow bytes
are halved once every decay period of 2^(16 + DECAY) cycles. The fields of a strip's record are the model's reading (log 29); when the
first decay period begins, and that an uncorrectable error may name host memory, are the model's choices (log 49, R186/R188 and R12). -/
def Obligations.SiteSteps : Prop := Completes SiteStep

/-- The units of a relinquished block are free again, and its context has its quota back, once no access to it and no command that
captured its name is left. -/
def Sys2Proof.Claims.BlockFreed : Prop :=
  ∀ (s : State) (i c n : Nat) (u : AUnit), i ≤ 7 → get AUnit.none (s.site i).arena (unitKey c n) = u → u.leaving = true →
    s.handing i = false → u.size = 4096 ∨ u.size = 16384 ∨ u.size = 65536 →
    (∀ e ∈ s.tasks, ∀ a ∈ e.2.slice ++ e.2.ldqOut ++ e.2.stqOut, a.touches (arenaAddr i c n) u.size = false) →
    (∀ e ∈ s.ce.late, ∀ x ∈ e.2, x.1 < arenaAddr i c n ∨ arenaAddr i c n + u.size ≤ x.1) →
    (∀ e ∈ s.ce.cmds, e.2.state = .ended ∨ mkName i c n ((u.gen + 255) % 256) ∉ e.2.names) →
    ∃ t, exec (.nameBlockFree i c n) s = .next t ∧ t = s.setSite i (t.site i) ∧
      (∀ j, j < u.size / 4096 → (get AUnit.none (t.site i).arena (unitKey c (n + j))).free = true ∧
        (get AUnit.none (t.site i).arena (unitKey c (n + j))).gen = (get AUnit.none (s.site i).arena (unitKey c (n + j))).gen) ∧
      (∀ m, (∀ j, j < u.size / 4096 → m ≠ unitKey c (n + j)) →
        get AUnit.none (t.site i).arena m = get AUnit.none (s.site i).arena m) ∧
      get 0 (t.site i).used u.asc = get 0 (s.site i).used u.asc - u.size / 4096

/-- The blocks of the arenas by name: the handle that XLTN makes, the end of the name by NREL, and the block's units free again. Where the
block of a name lies is the model's choice (log 17). -/
def Obligations.NameBlocks : Prop := XltnBlock ∧ NrelReleases ∧ TendReleases ∧ BlockFreed

/-! ### Encoding, the step, memory, reset -/

/-- WEIGHT of a task's function, and how many of the last 64 slots of its core went to context x (R368). -/
def Sys2Proof.Claims.weightFn (s : State) (k : Task) : Nat := (s.func (s.packet k.packet).func).weight
def Sys2Proof.Claims.slotsOf (s : State) (k : Task) (x : Nat) : Nat :=
  ((s.core k.coreKey).slotLog.filter fun y => y == x).length

/-- NOP: its one word, the words of its major that are none (illegal encoding, 0x01), a prefix bound to it (orphan prefix, 0x02), and its
effect, which is that fetch goes on (R27). That the faulting word of an orphan prefix is the prefix is the model's choice (log 49, R46).
-/
def Obligations.NopWord : Prop :=
  decodeWords [0xFC] = .ok .nop 4 ∧
  (∀ (l : List Nat) (n : Nat), (∀ w ∈ l, w < 2 ^ 32) → decodeWords l = .ok .nop n → l.head? = some 0xFC ∧ n = 4) ∧
  (∀ m, 0 < m → m < 2 ^ 24 → decodeWords [0xFC + 256 * m] = .ok (.illegalEncoding .reserved 0) 4) ∧
  (∀ w p, w < 2 ^ 32 → w % 4 = 2 → decPfx w = .ok p → decodeWords [w, 0xFC] = .ok .orphanPrefix 8) ∧
  (∀ (s : State) (k : Task), Ready s k [] → exec .nop s = .next (upd s (go k 4))) ∧
  ∀ (s : State) (k : Task), find s.tasks s.cur = some k →
    exec (.illegalEncoding .reserved 0) s = faults s k 0x01 k.pc 0 ∧ exec .orphanPrefix s = faults s k 0x02 k.pc 0

/-- Words written out from the encodings of R26 to R43 decode to the instructions they stand for: scalar, transfer, queue, site,
wide, memory, vector, tile and matrix forms, a prefix, and a word that is no instruction. -/
def Obligations.DecodedWords : Prop :=
  decodeWords [0xFF810408] = .ok (.addi 4 4 (-8)) 4 ∧
  decodeWords [0xFFD00530] = .ok (.bne 5 0 (-3)) 4 ∧
  decodeWords [0x04014244] = .ok (.brtNz 2 5) 4 ∧
  decodeWords [0x0001415C] = .ok (.cqp 1 5) 4 ∧
  decodeWords [0x0C80C960] = .ok (.hchk 9 3 8) 4 ∧
  decodeWords [0x14614060] = .ok (.shand 5 6) 4 ∧
  decodeWords [0x0131096C] = .ok (.cegoT 9 4 3) 4 ∧
  decodeWords [0x01000190] = .ok (.srd 1 16) 4 ∧
  decodeWords [0x04000A05, 0x00051100] = .ok (.lih 10 0x00051100) 8 ∧
  decodeWords [0x84324709, 0x00000010] = .ok (.ldw { pfx := none, cls := 2, h := 3, xo := 9, x := 7, imm := 16 }) 8 ∧
  decodeWords [0x00014115, 0x48000000] = .ok (.cqpm 1 5 0 1 4 0) 8 ∧
  decodeWords [0x0000001D, 0x00030006] = .ok (.fenceC 3 6) 8 ∧
  decodeWords [0x00000242, 0x05130941, 0x00311018] = .ok (.vadd { pfx := some (.pxm 0 1 1), tok := 9, mask := 3, ty := 1, vd := 5,
                                                                  va := 6, vb := 785, vc := 0 }) 12 ∧
  decodeWords [0x20002061, 0x003E0F08] = .ok (.vgath { pfx := none, tok := 0, mask := 0, ty := 0, cls := 0, h := 2, xo := 4, v := 30,
                                                       tail := 31 }) 8 ∧
  decodeWords [0x31050269, 0x0002040E] = .ok (.tfetch { pfx := none, tok := 2, ta := 5, c := 0, hint := 0, cls := 1, h := 3, xa := 7,
                                                        xb := 8, n12 := 16, tr := 0 }) 8 ∧
  decodeWords [0x0C000471, 0x00400002] = .ok (.mma { pfx := none, tok := 4, acc := 0, hint := 0, ta := 0, ac := 1, tb := 1, bc := 1,
                                                     va := 0, vb := 0, mask := 1, ty := 0 }) 8 ∧
  decodeWords [0] = .ok (.illegalEncoding .opcode 0) 4

/-- Every well-formed instruction with words decodes from its own words: no bit of an encoding is dropped. -/
def Obligations.RoundTrip : Prop :=
  ∀ i : Instr, i.wf = true → i.hasWords = true → decodeWords (encode i) = .ok i (4 * (encode i).length)

/-- The issue slots of a core (R149, R368). A user context that alone has a unit to issue takes the slot; of two with functions of one
WEIGHT the one that did not take the last user slot takes it, else the one with fewer of the last 64 slots for its WEIGHT; context F
takes a slot that no user context can use, but one that a user context could use only within SHARE, at a bundle start or behind a routed
instruction. A slot taken changes the core's log of slots alone. -/
def Sys2Proof.Claims.SlotRules : Prop :=
  ∀ (s : State) (t : Nat) (k : Task), find s.tasks t = some k →
    (k.fw = false → (s.readyUsers k.coreKey).length ≤ 1 → s.mayTake t k = true) ∧
    (∀ a b, k.fw = false → s.readyUsers k.coreKey = [a, b] → (t, k) = a ∨ (t, k) = b → a.2.ctx = 0 → b.2.ctx = 1 →
      (weightFn s a.2 = weightFn s b.2 →
        (s.mayTake t k = true ↔ k.ctx ≠ ((s.core k.coreKey).slotLog.find? fun x => decide (x < 2)).getD 1)) ∧
      (weightFn s a.2 ≠ weightFn s b.2 → slotsOf s k 0 * weightFn s b.2 < slotsOf s k 1 * weightFn s a.2 →
        (s.mayTake t k = true ↔ k.ctx = 0)) ∧
      (weightFn s a.2 ≠ weightFn s b.2 → slotsOf s k 1 * weightFn s a.2 < slotsOf s k 0 * weightFn s b.2 →
        (s.mayTake t k = true ↔ k.ctx = 1))) ∧
    (k.fw = true → s.readyUsers k.coreKey = [] → s.mayTake t k = true) ∧
    (∀ u, k.fw = true → s.readyUsers k.coreKey = [u] →
      (s.mayTake t k = true ↔ (u.2.pc % 16 = 0 ∨ (s.core k.coreKey).lastRouted = true) ∧
        (((s.core k.coreKey).slotLog.take 63).filter fun y => y == 2).length <
          if k.coreKey < 96 then s.lfe.share0 else s.lfe.share1)) ∧
    ∀ i, s.slotTaken k i = s.setCore k.coreKey { s.core k.coreKey with
        slotLog := ((if k.fw then (if s.readyUsers k.coreKey = [] then 3 else 2) else k.ctx) :: (s.core k.coreKey).slotLog).take 64
        lastRouted := if k.fw then (s.core k.coreKey).lastRouted else i.home.isSome }

/-- A step runs the instruction that stands at the pc of the task whose turn it is and takes its issue slot, the head of the queue whose
turn it is, or the step of the device that is due; an empty agenda is filled. Moves and the agenda are the model's way to hold who moves
next (log 7); what counts as ready for a slot is log 20. That every routed instruction, tile and matrix ones too, counts as the routed
vector instruction of R149 is the model's choice (log 49). -/
def Obligations.StepRunsDecoded : Prop :=
  (∀ (s : State) (t len w : Nat) (i : Instr) (r : List Move) (k : Task), s.agenda = .issue t :: r → find s.tasks t = some k →
    k.phase = .running → k.missing = none → k.yieldLeft = 0 → s.fetch k k.pc = some w → s.lineNeeded k k.pc w = none →
    decodeUnit (k.pc % 8 == 4) w (s.fetch k (k.pc + 4)) (s.fetch k (k.pc + 8)) = .ok i len →
    s.fetchBad k k.pc = false → (4 < len → s.fetchBad k (k.pc + 4) = false) → (8 < len → s.fetchBad k (k.pc + 8) = false) →
    let u := { s with agenda := r, cur := t, turn := .slice }
    let goes : Bool := hasIssued t k (exec i (u.setTask t { k with waitQ := some 3 }))
    (goes = true → { s with agenda := r }.mayTake t k = true → step s = exec i (u.slotTaken k i)) ∧
    (goes = true → { s with agenda := r }.mayTake t k = false → step s = .next { s with agenda := r }) ∧
    (goes = false → step s = exec i u)) ∧
  (∀ (s : State) (t : Nat) (i : Instr) (r : List Move) (k : Task), s.agenda = .event t .route :: r → find s.tasks t = some k →
    (s.at' t).fetchUnit k = .unit i →
    if i.home.isSome then step s = step { s with agenda := .issue t :: r } else step s = .next { s with agenda := r }) ∧
  (∀ (s : State) (t q : Nat) (hs : Bool) (r : List Move) (k : Task) (e : Entry) (l : List Entry), s.agenda = .head t q hs :: r →
    find s.tasks t = some k → ((k.set hs).rq q).entries = e :: l → e.instr.home = some q →
    step s = exec e.instr { s with agenda := r, cur := t, turn := .head q hs }) ∧
  (∀ (s : State) (n : Nat) (i : Instr) (r : List Move), s.agenda = .event n i :: r → i.hasWords = false → i.wf = true →
    (∀ why d, i ≠ .illegalEncoding why d) → i ≠ .orphanPrefix → i ≠ .route →
    step s = exec i { s with agenda := r, cur := n, turn := .slice }) ∧
  (∀ s : State, s.agenda = [] → step s = .next { s with agenda := s.round }) ∧ SlotRules

/-- Every step keeps memory and its poison in their canonical form. The canonical form is the model's: addresses strictly rising, no byte
equal to what an unlisted address reads as (log 1). -/
def Obligations.StepKeepsMemory : Prop := ∀ s t : State, s.memWf → step s = .next t → t.memWf

/-- The reset state has memory in its canonical form. -/
def Obligations.ResetMemory : Prop := State.reset.memWf

/-- What reset leaves: counters at 0, each die with its four sites and no hand-over, the queues disabled with rings of 16 slots, the
registers at the values their tables give, health clear, and the barograph empty and running. The value of LFE_CPCFG rests on SEN and SLOG
being 0, for which its table gives no reset value: the model's choice (log 5). -/
def Obligations.ResetValues : Prop :=
  (∀ f n, State.reset.sem f n = 0) ∧
  (∀ i, i ≤ 7 → (State.reset.site i).owner = i / 4 ∧ (State.reset.site i).hstate = .none ∧ (State.reset.site i).remap = []) ∧
  (∀ q, q < 2048 → State.reset.readReg 0 (0x00100000 + 128 * q) = BitVec.ofNat 64 (4 * 2 ^ 20 + 4 * 2 ^ 15)) ∧
  (∀ d, d ≤ 1 → State.reset.readReg 0 (0x00300000 + 64 * d) = 3072 ∧ State.reset.readReg 0 (0x00302000 + 8 * d) = 2 ∧
    State.reset.readReg 0 (0x00500000 + 8 * d) = BitVec.ofNat 64 (2 ^ 16 + 12)) ∧
  (∀ f, f < 64 → State.reset.readReg 0 (0x00301000 + 8 * f) = 256) ∧
  (∀ n, n < 8 → State.reset.readReg 0 (0x00400008 + 64 * n) = BitVec.ofNat 64 (2 ^ 16 + 16 * 2 ^ 8 + 8)) ∧
  (∀ n, n < 32 → State.reset.readReg 0 (0x00600000 + 8 * n) = 128) ∧
  State.reset.readReg 0 0x00780008 = 0 ∧ State.reset.readReg 0 0x00780000 = 0
end

