-- ==== Sys2Proof/Laws/Table.lean ====
section
/-! SUPPORT. Laws of the sparse tables: a read after a write, on every table, and the canonical form that every write keeps. -/

namespace Sys2Proof.Machine

variable {α : Type}

theorem find_without (l : Assoc α) (n m : Nat) : find (without l n) m = if m = n then none else find l m := by
  have key : ∀ l : Assoc α, find (l.filter fun p => p.1 != n) m = if m = n then none else find l m := by
    intro l
    induction l with
    | nil => simp [find]
    | cons p r ih =>
      obtain ⟨k, v⟩ := p
      simp only [find, List.filter_cons, bne_iff_ne, ne_eq]
      by_cases hk : k = n <;> by_cases hm : k = m <;> simp_all [find]
  unfold without
  split
  · exact key l
  · rename_i h
    have : l.filter (fun p => p.1 != n) = l := by
      apply List.filter_eq_self.mpr
      intro p hp
      simp only [List.any_eq_true, not_exists, not_and] at h
      simpa using h p hp
    have h2 := key l
    rwa [this] at h2

/-- A read of key m after a write at key n. -/
@[simp] theorem find_ins (l : Assoc α) (n m : Nat) (v : α) : find (ins l n v) m = if m = n then some v else find l m := by
  induction l with
  | nil => simp only [ins, find]; grind
  | cons p r ih => obtain ⟨k, w⟩ := p; simp only [ins]; grind [find]

@[simp] theorem find_del (l : Assoc α) (n m : Nat) : find (del l n) m = if m = n then none else find l m := find_without l n m

theorem get_find (d : α) (l : Assoc α) (n : Nat) : get d l n = (find l n).getD d := by
  induction l with
  | nil => rfl
  | cons p r ih => obtain ⟨k, v⟩ := p; simp only [get, find]; split <;> simp [ih]

/-- A read of key m after a write at key n. -/
@[simp] theorem get_put [DecidableEq α] (d : α) (l : Assoc α) (n m : Nat) (v : α) :
    get d (put d l n v) m = if m = n then v else get d l m := by
  simp only [get_find]
  have key : (find (put d l n v) m).getD d = if m = n then v else (find l m).getD d := by
    induction l with
    | nil => simp only [put]; split <;> grind [find]
    | cons p r ih =>
      obtain ⟨k, w⟩ := p
      have hw := find_without r n m
      simp only [put]
      grind [find]
  exact key

theorem ins_ins (l : Assoc α) (n : Nat) (v w : α) : ins (ins l n v) n w = ins l n w := by
  induction l with
  | nil => simp [ins]
  | cons p r ih => obtain ⟨k, u⟩ := p; simp only [ins]; grind [ins]

/-! ### The canonical form -/

theorem sorted_mono [DecidableEq α] (d : α) (l : Assoc α) (a b : Nat) (h : sortedFrom d b l = true) (hab : a ≤ b) :
    sortedFrom d a l = true := by
  cases l with
  | nil => rfl
  | cons p r => obtain ⟨k, v⟩ := p; simp only [sortedFrom, Bool.and_eq_true, decide_eq_true_eq] at h ⊢; grind

theorem sorted_filter [DecidableEq α] (d : α) (f : Nat × α → Bool) (l : Assoc α) (lo : Nat) (h : sortedFrom d lo l = true) :
    sortedFrom d lo (l.filter f) = true := by
  induction l generalizing lo with
  | nil => rfl
  | cons p r ih =>
    obtain ⟨k, v⟩ := p
    simp only [sortedFrom, Bool.and_eq_true, decide_eq_true_eq] at h
    simp only [List.filter_cons]
    split
    · simp [sortedFrom, h, ih _ h.2]
    · exact sorted_mono d _ lo (k + 1) (ih _ h.2) (by omega)

theorem sorted_without [DecidableEq α] (d : α) (l : Assoc α) (n lo : Nat) (h : sortedFrom d lo l = true) :
    sortedFrom d lo (without l n) = true := by
  unfold without; split
  · exact sorted_filter d _ l lo h
  · exact h

/-- A write keeps the canonical form. -/
theorem sorted_put [DecidableEq α] (d : α) (l : Assoc α) (n lo : Nat) (v : α) (h : sortedFrom d lo l = true) (hn : lo ≤ n) :
    sortedFrom d lo (put d l n v) = true := by
  induction l generalizing lo with
  | nil => simp only [put]; split <;> simp_all [sortedFrom]
  | cons p r ih =>
    obtain ⟨k, w⟩ := p
    simp only [sortedFrom, Bool.and_eq_true, decide_eq_true_eq] at h
    simp only [put]
    split
    · split
      · simp [sortedFrom, h, sorted_without d r n _ h.2]
      · simp_all [sortedFrom]
    · split
      · split
        · exact sorted_mono d _ lo (k + 1) (sorted_without d r n _ h.2) (by omega)
        · simp_all [sortedFrom]
      · simp [sortedFrom, h, ih (k + 1) h.2 (by omega)]

end Sys2Proof.Machine
end

