-- ==== Sys2Proof/Laws/State.lean ====
section
/-! SUPPORT. The updates of the state, field by field: what an update writes reads back, and every other field is as it was. -/

namespace Sys2Proof.Machine

/-! ### setTask -/

@[simp] theorem setTask_mem (s : State) (t : Nat) (k : Task) : (s.setTask t k).mem = s.mem := (rfl)
@[simp] theorem setTask_poison (s : State) (t : Nat) (k : Task) : (s.setTask t k).poison = s.poison := (rfl)
@[simp] theorem setTask_time (s : State) (t : Nat) (k : Task) : (s.setTask t k).time = s.time := rfl
@[simp] theorem setTask_fabno (s : State) (t : Nat) (k : Task) : (s.setTask t k).fabno = s.fabno := rfl
@[simp] theorem setTask_roots (s : State) (t : Nat) (k : Task) : (s.setTask t k).roots = s.roots := rfl
@[simp] theorem setTask_nextTask (s : State) (t : Nat) (k : Task) : (s.setTask t k).nextTask = s.nextTask := rfl
@[simp] theorem setTask_cores (s : State) (t : Nat) (k : Task) : (s.setTask t k).cores = s.cores := rfl
@[simp] theorem setTask_site0 (s : State) (t : Nat) (k : Task) : (s.setTask t k).site0 = s.site0 := rfl
@[simp] theorem setTask_site1 (s : State) (t : Nat) (k : Task) : (s.setTask t k).site1 = s.site1 := rfl
@[simp] theorem setTask_site2 (s : State) (t : Nat) (k : Task) : (s.setTask t k).site2 = s.site2 := rfl
@[simp] theorem setTask_site3 (s : State) (t : Nat) (k : Task) : (s.setTask t k).site3 = s.site3 := rfl
@[simp] theorem setTask_site4 (s : State) (t : Nat) (k : Task) : (s.setTask t k).site4 = s.site4 := rfl
@[simp] theorem setTask_site5 (s : State) (t : Nat) (k : Task) : (s.setTask t k).site5 = s.site5 := rfl
@[simp] theorem setTask_site6 (s : State) (t : Nat) (k : Task) : (s.setTask t k).site6 = s.site6 := rfl
@[simp] theorem setTask_site7 (s : State) (t : Nat) (k : Task) : (s.setTask t k).site7 = s.site7 := rfl
@[simp] theorem setTask_lfe (s : State) (t : Nat) (k : Task) : (s.setTask t k).lfe = s.lfe := rfl
@[simp] theorem setTask_ce (s : State) (t : Nat) (k : Task) : (s.setTask t k).ce = s.ce := rfl
@[simp] theorem setTask_hif (s : State) (t : Nat) (k : Task) : (s.setTask t k).hif = s.hif := rfl
@[simp] theorem setTask_agenda (s : State) (t : Nat) (k : Task) : (s.setTask t k).agenda = s.agenda := rfl
@[simp] theorem setTask_cur (s : State) (t : Nat) (k : Task) : (s.setTask t k).cur = s.cur := rfl
@[simp] theorem setTask_turn (s : State) (t : Nat) (k : Task) : (s.setTask t k).turn = s.turn := rfl
@[simp] theorem setTask_tick (s : State) (t : Nat) (k : Task) : (s.setTask t k).tick = s.tick := rfl

/-! ### setCore -/

@[simp] theorem setCore_mem (s : State) (c : Nat) (v : Core) : (s.setCore c v).mem = s.mem := (rfl)
@[simp] theorem setCore_poison (s : State) (c : Nat) (v : Core) : (s.setCore c v).poison = s.poison := (rfl)
@[simp] theorem setCore_time (s : State) (c : Nat) (v : Core) : (s.setCore c v).time = s.time := rfl
@[simp] theorem setCore_fabno (s : State) (c : Nat) (v : Core) : (s.setCore c v).fabno = s.fabno := rfl
@[simp] theorem setCore_roots (s : State) (c : Nat) (v : Core) : (s.setCore c v).roots = s.roots := rfl
@[simp] theorem setCore_tasks (s : State) (c : Nat) (v : Core) : (s.setCore c v).tasks = s.tasks := rfl
@[simp] theorem setCore_nextTask (s : State) (c : Nat) (v : Core) : (s.setCore c v).nextTask = s.nextTask := rfl
@[simp] theorem setCore_site0 (s : State) (c : Nat) (v : Core) : (s.setCore c v).site0 = s.site0 := rfl
@[simp] theorem setCore_site1 (s : State) (c : Nat) (v : Core) : (s.setCore c v).site1 = s.site1 := rfl
@[simp] theorem setCore_site2 (s : State) (c : Nat) (v : Core) : (s.setCore c v).site2 = s.site2 := rfl
@[simp] theorem setCore_site3 (s : State) (c : Nat) (v : Core) : (s.setCore c v).site3 = s.site3 := rfl
@[simp] theorem setCore_site4 (s : State) (c : Nat) (v : Core) : (s.setCore c v).site4 = s.site4 := rfl
@[simp] theorem setCore_site5 (s : State) (c : Nat) (v : Core) : (s.setCore c v).site5 = s.site5 := rfl
@[simp] theorem setCore_site6 (s : State) (c : Nat) (v : Core) : (s.setCore c v).site6 = s.site6 := rfl
@[simp] theorem setCore_site7 (s : State) (c : Nat) (v : Core) : (s.setCore c v).site7 = s.site7 := rfl
@[simp] theorem setCore_lfe (s : State) (c : Nat) (v : Core) : (s.setCore c v).lfe = s.lfe := rfl
@[simp] theorem setCore_ce (s : State) (c : Nat) (v : Core) : (s.setCore c v).ce = s.ce := rfl
@[simp] theorem setCore_hif (s : State) (c : Nat) (v : Core) : (s.setCore c v).hif = s.hif := rfl
@[simp] theorem setCore_agenda (s : State) (c : Nat) (v : Core) : (s.setCore c v).agenda = s.agenda := rfl
@[simp] theorem setCore_cur (s : State) (c : Nat) (v : Core) : (s.setCore c v).cur = s.cur := rfl
@[simp] theorem setCore_turn (s : State) (c : Nat) (v : Core) : (s.setCore c v).turn = s.turn := rfl
@[simp] theorem setCore_tick (s : State) (c : Nat) (v : Core) : (s.setCore c v).tick = s.tick := rfl

/-! ### setPacket -/

@[simp] theorem setPacket_mem (s : State) (p : Nat) (v : Packet) : (s.setPacket p v).mem = s.mem := (rfl)
@[simp] theorem setPacket_poison (s : State) (p : Nat) (v : Packet) : (s.setPacket p v).poison = s.poison := (rfl)
@[simp] theorem setPacket_time (s : State) (p : Nat) (v : Packet) : (s.setPacket p v).time = s.time := rfl
@[simp] theorem setPacket_fabno (s : State) (p : Nat) (v : Packet) : (s.setPacket p v).fabno = s.fabno := rfl
@[simp] theorem setPacket_roots (s : State) (p : Nat) (v : Packet) : (s.setPacket p v).roots = s.roots := rfl
@[simp] theorem setPacket_tasks (s : State) (p : Nat) (v : Packet) : (s.setPacket p v).tasks = s.tasks := rfl
@[simp] theorem setPacket_nextTask (s : State) (p : Nat) (v : Packet) : (s.setPacket p v).nextTask = s.nextTask := rfl
@[simp] theorem setPacket_cores (s : State) (p : Nat) (v : Packet) : (s.setPacket p v).cores = s.cores := rfl
@[simp] theorem setPacket_site0 (s : State) (p : Nat) (v : Packet) : (s.setPacket p v).site0 = s.site0 := rfl
@[simp] theorem setPacket_site1 (s : State) (p : Nat) (v : Packet) : (s.setPacket p v).site1 = s.site1 := rfl
@[simp] theorem setPacket_site2 (s : State) (p : Nat) (v : Packet) : (s.setPacket p v).site2 = s.site2 := rfl
@[simp] theorem setPacket_site3 (s : State) (p : Nat) (v : Packet) : (s.setPacket p v).site3 = s.site3 := rfl
@[simp] theorem setPacket_site4 (s : State) (p : Nat) (v : Packet) : (s.setPacket p v).site4 = s.site4 := rfl
@[simp] theorem setPacket_site5 (s : State) (p : Nat) (v : Packet) : (s.setPacket p v).site5 = s.site5 := rfl
@[simp] theorem setPacket_site6 (s : State) (p : Nat) (v : Packet) : (s.setPacket p v).site6 = s.site6 := rfl
@[simp] theorem setPacket_site7 (s : State) (p : Nat) (v : Packet) : (s.setPacket p v).site7 = s.site7 := rfl
@[simp] theorem setPacket_ce (s : State) (p : Nat) (v : Packet) : (s.setPacket p v).ce = s.ce := rfl
@[simp] theorem setPacket_hif (s : State) (p : Nat) (v : Packet) : (s.setPacket p v).hif = s.hif := rfl
@[simp] theorem setPacket_agenda (s : State) (p : Nat) (v : Packet) : (s.setPacket p v).agenda = s.agenda := rfl
@[simp] theorem setPacket_cur (s : State) (p : Nat) (v : Packet) : (s.setPacket p v).cur = s.cur := rfl
@[simp] theorem setPacket_turn (s : State) (p : Nat) (v : Packet) : (s.setPacket p v).turn = s.turn := rfl
@[simp] theorem setPacket_tick (s : State) (p : Nat) (v : Packet) : (s.setPacket p v).tick = s.tick := rfl
@[simp] theorem setPacket_lfe_sems (s : State) (p : Nat) (v : Packet) : (s.setPacket p v).lfe.sems = s.lfe.sems := rfl
@[simp] theorem setPacket_lfe_queues (s : State) (p : Nat) (v : Packet) : (s.setPacket p v).lfe.queues = s.lfe.queues := rfl
@[simp] theorem setPacket_lfe_nextPacket (s : State) (p : Nat) (v : Packet) : (s.setPacket p v).lfe.nextPacket = s.lfe.nextPacket := rfl
@[simp] theorem setPacket_lfe_pool0 (s : State) (p : Nat) (v : Packet) : (s.setPacket p v).lfe.pool0 = s.lfe.pool0 := rfl
@[simp] theorem setPacket_lfe_pool1 (s : State) (p : Nat) (v : Packet) : (s.setPacket p v).lfe.pool1 = s.lfe.pool1 := rfl
@[simp] theorem setPacket_lfe_signals (s : State) (p : Nat) (v : Packet) : (s.setPacket p v).lfe.signals = s.lfe.signals := rfl
@[simp] theorem setPacket_lfe_ptr (s : State) (p : Nat) (v : Packet) : (s.setPacket p v).lfe.ptr = s.lfe.ptr := rfl
@[simp] theorem setPacket_lfe_deficit (s : State) (p : Nat) (v : Packet) : (s.setPacket p v).lfe.deficit = s.lfe.deficit := rfl
@[simp] theorem setPacket_lfe_order (s : State) (p : Nat) (v : Packet) : (s.setPacket p v).lfe.order = s.lfe.order := rfl
@[simp] theorem setPacket_lfe_share0 (s : State) (p : Nat) (v : Packet) : (s.setPacket p v).lfe.share0 = s.lfe.share0 := rfl
@[simp] theorem setPacket_lfe_share1 (s : State) (p : Nat) (v : Packet) : (s.setPacket p v).lfe.share1 = s.lfe.share1 := rfl
@[simp] theorem setPacket_lfe_reserved0 (s : State) (p : Nat) (v : Packet) : (s.setPacket p v).lfe.reserved0 = s.lfe.reserved0 := rfl
@[simp] theorem setPacket_lfe_reserved1 (s : State) (p : Nat) (v : Packet) : (s.setPacket p v).lfe.reserved1 = s.lfe.reserved1 := rfl

/-! ### setQueue -/

@[simp] theorem setQueue_mem (s : State) (q : Nat) (v : Queue) : (s.setQueue q v).mem = s.mem := (rfl)
@[simp] theorem setQueue_poison (s : State) (q : Nat) (v : Queue) : (s.setQueue q v).poison = s.poison := (rfl)
@[simp] theorem setQueue_time (s : State) (q : Nat) (v : Queue) : (s.setQueue q v).time = s.time := rfl
@[simp] theorem setQueue_fabno (s : State) (q : Nat) (v : Queue) : (s.setQueue q v).fabno = s.fabno := rfl
@[simp] theorem setQueue_roots (s : State) (q : Nat) (v : Queue) : (s.setQueue q v).roots = s.roots := rfl
@[simp] theorem setQueue_tasks (s : State) (q : Nat) (v : Queue) : (s.setQueue q v).tasks = s.tasks := rfl
@[simp] theorem setQueue_nextTask (s : State) (q : Nat) (v : Queue) : (s.setQueue q v).nextTask = s.nextTask := rfl
@[simp] theorem setQueue_cores (s : State) (q : Nat) (v : Queue) : (s.setQueue q v).cores = s.cores := rfl
@[simp] theorem setQueue_site0 (s : State) (q : Nat) (v : Queue) : (s.setQueue q v).site0 = s.site0 := rfl
@[simp] theorem setQueue_site1 (s : State) (q : Nat) (v : Queue) : (s.setQueue q v).site1 = s.site1 := rfl
@[simp] theorem setQueue_site2 (s : State) (q : Nat) (v : Queue) : (s.setQueue q v).site2 = s.site2 := rfl
@[simp] theorem setQueue_site3 (s : State) (q : Nat) (v : Queue) : (s.setQueue q v).site3 = s.site3 := rfl
@[simp] theorem setQueue_site4 (s : State) (q : Nat) (v : Queue) : (s.setQueue q v).site4 = s.site4 := rfl
@[simp] theorem setQueue_site5 (s : State) (q : Nat) (v : Queue) : (s.setQueue q v).site5 = s.site5 := rfl
@[simp] theorem setQueue_site6 (s : State) (q : Nat) (v : Queue) : (s.setQueue q v).site6 = s.site6 := rfl
@[simp] theorem setQueue_site7 (s : State) (q : Nat) (v : Queue) : (s.setQueue q v).site7 = s.site7 := rfl
@[simp] theorem setQueue_ce (s : State) (q : Nat) (v : Queue) : (s.setQueue q v).ce = s.ce := rfl
@[simp] theorem setQueue_hif (s : State) (q : Nat) (v : Queue) : (s.setQueue q v).hif = s.hif := rfl
@[simp] theorem setQueue_agenda (s : State) (q : Nat) (v : Queue) : (s.setQueue q v).agenda = s.agenda := rfl
@[simp] theorem setQueue_cur (s : State) (q : Nat) (v : Queue) : (s.setQueue q v).cur = s.cur := rfl
@[simp] theorem setQueue_turn (s : State) (q : Nat) (v : Queue) : (s.setQueue q v).turn = s.turn := rfl
@[simp] theorem setQueue_tick (s : State) (q : Nat) (v : Queue) : (s.setQueue q v).tick = s.tick := rfl
@[simp] theorem setQueue_lfe_sems (s : State) (q : Nat) (v : Queue) : (s.setQueue q v).lfe.sems = s.lfe.sems := rfl
@[simp] theorem setQueue_lfe_packets (s : State) (q : Nat) (v : Queue) : (s.setQueue q v).lfe.packets = s.lfe.packets := rfl
@[simp] theorem setQueue_lfe_nextPacket (s : State) (q : Nat) (v : Queue) : (s.setQueue q v).lfe.nextPacket = s.lfe.nextPacket := rfl
@[simp] theorem setQueue_lfe_pool0 (s : State) (q : Nat) (v : Queue) : (s.setQueue q v).lfe.pool0 = s.lfe.pool0 := rfl
@[simp] theorem setQueue_lfe_pool1 (s : State) (q : Nat) (v : Queue) : (s.setQueue q v).lfe.pool1 = s.lfe.pool1 := rfl
@[simp] theorem setQueue_lfe_signals (s : State) (q : Nat) (v : Queue) : (s.setQueue q v).lfe.signals = s.lfe.signals := rfl
@[simp] theorem setQueue_lfe_ptr (s : State) (q : Nat) (v : Queue) : (s.setQueue q v).lfe.ptr = s.lfe.ptr := rfl
@[simp] theorem setQueue_lfe_deficit (s : State) (q : Nat) (v : Queue) : (s.setQueue q v).lfe.deficit = s.lfe.deficit := rfl
@[simp] theorem setQueue_lfe_order (s : State) (q : Nat) (v : Queue) : (s.setQueue q v).lfe.order = s.lfe.order := rfl
@[simp] theorem setQueue_lfe_share0 (s : State) (q : Nat) (v : Queue) : (s.setQueue q v).lfe.share0 = s.lfe.share0 := rfl
@[simp] theorem setQueue_lfe_share1 (s : State) (q : Nat) (v : Queue) : (s.setQueue q v).lfe.share1 = s.lfe.share1 := rfl
@[simp] theorem setQueue_lfe_reserved0 (s : State) (q : Nat) (v : Queue) : (s.setQueue q v).lfe.reserved0 = s.lfe.reserved0 := rfl
@[simp] theorem setQueue_lfe_reserved1 (s : State) (q : Nat) (v : Queue) : (s.setQueue q v).lfe.reserved1 = s.lfe.reserved1 := rfl

/-! ### setSem -/

@[simp] theorem setSem_mem (s : State) (f n : Nat) (v : W32) : (s.setSem f n v).mem = s.mem := (rfl)
@[simp] theorem setSem_poison (s : State) (f n : Nat) (v : W32) : (s.setSem f n v).poison = s.poison := (rfl)
@[simp] theorem setSem_time (s : State) (f n : Nat) (v : W32) : (s.setSem f n v).time = s.time := rfl
@[simp] theorem setSem_fabno (s : State) (f n : Nat) (v : W32) : (s.setSem f n v).fabno = s.fabno := rfl
@[simp] theorem setSem_roots (s : State) (f n : Nat) (v : W32) : (s.setSem f n v).roots = s.roots := rfl
@[simp] theorem setSem_tasks (s : State) (f n : Nat) (v : W32) : (s.setSem f n v).tasks = s.tasks := rfl
@[simp] theorem setSem_nextTask (s : State) (f n : Nat) (v : W32) : (s.setSem f n v).nextTask = s.nextTask := rfl
@[simp] theorem setSem_cores (s : State) (f n : Nat) (v : W32) : (s.setSem f n v).cores = s.cores := rfl
@[simp] theorem setSem_site0 (s : State) (f n : Nat) (v : W32) : (s.setSem f n v).site0 = s.site0 := rfl
@[simp] theorem setSem_site1 (s : State) (f n : Nat) (v : W32) : (s.setSem f n v).site1 = s.site1 := rfl
@[simp] theorem setSem_site2 (s : State) (f n : Nat) (v : W32) : (s.setSem f n v).site2 = s.site2 := rfl
@[simp] theorem setSem_site3 (s : State) (f n : Nat) (v : W32) : (s.setSem f n v).site3 = s.site3 := rfl
@[simp] theorem setSem_site4 (s : State) (f n : Nat) (v : W32) : (s.setSem f n v).site4 = s.site4 := rfl
@[simp] theorem setSem_site5 (s : State) (f n : Nat) (v : W32) : (s.setSem f n v).site5 = s.site5 := rfl
@[simp] theorem setSem_site6 (s : State) (f n : Nat) (v : W32) : (s.setSem f n v).site6 = s.site6 := rfl
@[simp] theorem setSem_site7 (s : State) (f n : Nat) (v : W32) : (s.setSem f n v).site7 = s.site7 := rfl
@[simp] theorem setSem_ce (s : State) (f n : Nat) (v : W32) : (s.setSem f n v).ce = s.ce := rfl
@[simp] theorem setSem_hif (s : State) (f n : Nat) (v : W32) : (s.setSem f n v).hif = s.hif := rfl
@[simp] theorem setSem_agenda (s : State) (f n : Nat) (v : W32) : (s.setSem f n v).agenda = s.agenda := rfl
@[simp] theorem setSem_cur (s : State) (f n : Nat) (v : W32) : (s.setSem f n v).cur = s.cur := rfl
@[simp] theorem setSem_turn (s : State) (f n : Nat) (v : W32) : (s.setSem f n v).turn = s.turn := rfl
@[simp] theorem setSem_tick (s : State) (f n : Nat) (v : W32) : (s.setSem f n v).tick = s.tick := rfl
@[simp] theorem setSem_lfe_queues (s : State) (f n : Nat) (v : W32) : (s.setSem f n v).lfe.queues = s.lfe.queues := rfl
@[simp] theorem setSem_lfe_packets (s : State) (f n : Nat) (v : W32) : (s.setSem f n v).lfe.packets = s.lfe.packets := rfl
@[simp] theorem setSem_lfe_nextPacket (s : State) (f n : Nat) (v : W32) : (s.setSem f n v).lfe.nextPacket = s.lfe.nextPacket := rfl
@[simp] theorem setSem_lfe_pool0 (s : State) (f n : Nat) (v : W32) : (s.setSem f n v).lfe.pool0 = s.lfe.pool0 := rfl
@[simp] theorem setSem_lfe_pool1 (s : State) (f n : Nat) (v : W32) : (s.setSem f n v).lfe.pool1 = s.lfe.pool1 := rfl
@[simp] theorem setSem_lfe_signals (s : State) (f n : Nat) (v : W32) : (s.setSem f n v).lfe.signals = s.lfe.signals := rfl
@[simp] theorem setSem_lfe_ptr (s : State) (f n : Nat) (v : W32) : (s.setSem f n v).lfe.ptr = s.lfe.ptr := rfl
@[simp] theorem setSem_lfe_deficit (s : State) (f n : Nat) (v : W32) : (s.setSem f n v).lfe.deficit = s.lfe.deficit := rfl
@[simp] theorem setSem_lfe_order (s : State) (f n : Nat) (v : W32) : (s.setSem f n v).lfe.order = s.lfe.order := rfl
@[simp] theorem setSem_lfe_share0 (s : State) (f n : Nat) (v : W32) : (s.setSem f n v).lfe.share0 = s.lfe.share0 := rfl
@[simp] theorem setSem_lfe_share1 (s : State) (f n : Nat) (v : W32) : (s.setSem f n v).lfe.share1 = s.lfe.share1 := rfl
@[simp] theorem setSem_lfe_reserved0 (s : State) (f n : Nat) (v : W32) : (s.setSem f n v).lfe.reserved0 = s.lfe.reserved0 := rfl
@[simp] theorem setSem_lfe_reserved1 (s : State) (f n : Nat) (v : W32) : (s.setSem f n v).lfe.reserved1 = s.lfe.reserved1 := rfl

/-! ### setCmd -/

@[simp] theorem setCmd_mem (s : State) (c : Nat) (v : Cmd) : (s.setCmd c v).mem = s.mem := (rfl)
@[simp] theorem setCmd_poison (s : State) (c : Nat) (v : Cmd) : (s.setCmd c v).poison = s.poison := (rfl)
@[simp] theorem setCmd_time (s : State) (c : Nat) (v : Cmd) : (s.setCmd c v).time = s.time := rfl
@[simp] theorem setCmd_fabno (s : State) (c : Nat) (v : Cmd) : (s.setCmd c v).fabno = s.fabno := rfl
@[simp] theorem setCmd_roots (s : State) (c : Nat) (v : Cmd) : (s.setCmd c v).roots = s.roots := rfl
@[simp] theorem setCmd_tasks (s : State) (c : Nat) (v : Cmd) : (s.setCmd c v).tasks = s.tasks := rfl
@[simp] theorem setCmd_nextTask (s : State) (c : Nat) (v : Cmd) : (s.setCmd c v).nextTask = s.nextTask := rfl
@[simp] theorem setCmd_cores (s : State) (c : Nat) (v : Cmd) : (s.setCmd c v).cores = s.cores := rfl
@[simp] theorem setCmd_site0 (s : State) (c : Nat) (v : Cmd) : (s.setCmd c v).site0 = s.site0 := rfl
@[simp] theorem setCmd_site1 (s : State) (c : Nat) (v : Cmd) : (s.setCmd c v).site1 = s.site1 := rfl
@[simp] theorem setCmd_site2 (s : State) (c : Nat) (v : Cmd) : (s.setCmd c v).site2 = s.site2 := rfl
@[simp] theorem setCmd_site3 (s : State) (c : Nat) (v : Cmd) : (s.setCmd c v).site3 = s.site3 := rfl
@[simp] theorem setCmd_site4 (s : State) (c : Nat) (v : Cmd) : (s.setCmd c v).site4 = s.site4 := rfl
@[simp] theorem setCmd_site5 (s : State) (c : Nat) (v : Cmd) : (s.setCmd c v).site5 = s.site5 := rfl
@[simp] theorem setCmd_site6 (s : State) (c : Nat) (v : Cmd) : (s.setCmd c v).site6 = s.site6 := rfl
@[simp] theorem setCmd_site7 (s : State) (c : Nat) (v : Cmd) : (s.setCmd c v).site7 = s.site7 := rfl
@[simp] theorem setCmd_lfe (s : State) (c : Nat) (v : Cmd) : (s.setCmd c v).lfe = s.lfe := rfl
@[simp] theorem setCmd_hif (s : State) (c : Nat) (v : Cmd) : (s.setCmd c v).hif = s.hif := rfl
@[simp] theorem setCmd_agenda (s : State) (c : Nat) (v : Cmd) : (s.setCmd c v).agenda = s.agenda := rfl
@[simp] theorem setCmd_cur (s : State) (c : Nat) (v : Cmd) : (s.setCmd c v).cur = s.cur := rfl
@[simp] theorem setCmd_turn (s : State) (c : Nat) (v : Cmd) : (s.setCmd c v).turn = s.turn := rfl
@[simp] theorem setCmd_tick (s : State) (c : Nat) (v : Cmd) : (s.setCmd c v).tick = s.tick := rfl
@[simp] theorem setCmd_ce_nextCmd (s : State) (c : Nat) (v : Cmd) : (s.setCmd c v).ce.nextCmd = s.ce.nextCmd := rfl
@[simp] theorem setCmd_ce_budget (s : State) (c : Nat) (v : Cmd) : (s.setCmd c v).ce.budget = s.ce.budget := rfl
@[simp] theorem setCmd_ce_rte0 (s : State) (c : Nat) (v : Cmd) : (s.setCmd c v).ce.rte0 = s.ce.rte0 := rfl
@[simp] theorem setCmd_ce_rte1 (s : State) (c : Nat) (v : Cmd) : (s.setCmd c v).ce.rte1 = s.ce.rte1 := rfl
@[simp] theorem setCmd_ce_outbox (s : State) (c : Nat) (v : Cmd) : (s.setCmd c v).ce.outbox = s.ce.outbox := rfl
@[simp] theorem setCmd_ce_inbox (s : State) (c : Nat) (v : Cmd) : (s.setCmd c v).ce.inbox = s.ce.inbox := rfl
@[simp] theorem setCmd_ce_refused (s : State) (c : Nat) (v : Cmd) : (s.setCmd c v).ce.refused = s.ce.refused := rfl
@[simp] theorem setCmd_ce_pfAt (s : State) (c : Nat) (v : Cmd) : (s.setCmd c v).ce.pfAt = s.ce.pfAt := rfl
@[simp] theorem setCmd_ce_lost (s : State) (c : Nat) (v : Cmd) : (s.setCmd c v).ce.lost = s.ce.lost := rfl
@[simp] theorem setCmd_ce_retrains (s : State) (c : Nat) (v : Cmd) : (s.setCmd c v).ce.retrains = s.ce.retrains := rfl
@[simp] theorem setCmd_ce_landed (s : State) (c : Nat) (v : Cmd) : (s.setCmd c v).ce.landed = s.ce.landed := rfl
@[simp] theorem setCmd_ce_late (s : State) (c : Nat) (v : Cmd) : (s.setCmd c v).ce.late = s.ce.late := rfl

/-! ### setRslot -/

@[simp] theorem setRslot_mem (s : State) (n : Nat) (v : RSlot) : (s.setRslot n v).mem = s.mem := (rfl)
@[simp] theorem setRslot_poison (s : State) (n : Nat) (v : RSlot) : (s.setRslot n v).poison = s.poison := (rfl)
@[simp] theorem setRslot_time (s : State) (n : Nat) (v : RSlot) : (s.setRslot n v).time = s.time := rfl
@[simp] theorem setRslot_fabno (s : State) (n : Nat) (v : RSlot) : (s.setRslot n v).fabno = s.fabno := rfl
@[simp] theorem setRslot_roots (s : State) (n : Nat) (v : RSlot) : (s.setRslot n v).roots = s.roots := rfl
@[simp] theorem setRslot_tasks (s : State) (n : Nat) (v : RSlot) : (s.setRslot n v).tasks = s.tasks := rfl
@[simp] theorem setRslot_nextTask (s : State) (n : Nat) (v : RSlot) : (s.setRslot n v).nextTask = s.nextTask := rfl
@[simp] theorem setRslot_cores (s : State) (n : Nat) (v : RSlot) : (s.setRslot n v).cores = s.cores := rfl
@[simp] theorem setRslot_site0 (s : State) (n : Nat) (v : RSlot) : (s.setRslot n v).site0 = s.site0 := rfl
@[simp] theorem setRslot_site1 (s : State) (n : Nat) (v : RSlot) : (s.setRslot n v).site1 = s.site1 := rfl
@[simp] theorem setRslot_site2 (s : State) (n : Nat) (v : RSlot) : (s.setRslot n v).site2 = s.site2 := rfl
@[simp] theorem setRslot_site3 (s : State) (n : Nat) (v : RSlot) : (s.setRslot n v).site3 = s.site3 := rfl
@[simp] theorem setRslot_site4 (s : State) (n : Nat) (v : RSlot) : (s.setRslot n v).site4 = s.site4 := rfl
@[simp] theorem setRslot_site5 (s : State) (n : Nat) (v : RSlot) : (s.setRslot n v).site5 = s.site5 := rfl
@[simp] theorem setRslot_site6 (s : State) (n : Nat) (v : RSlot) : (s.setRslot n v).site6 = s.site6 := rfl
@[simp] theorem setRslot_site7 (s : State) (n : Nat) (v : RSlot) : (s.setRslot n v).site7 = s.site7 := rfl
@[simp] theorem setRslot_lfe (s : State) (n : Nat) (v : RSlot) : (s.setRslot n v).lfe = s.lfe := rfl
@[simp] theorem setRslot_ce (s : State) (n : Nat) (v : RSlot) : (s.setRslot n v).ce = s.ce := rfl
@[simp] theorem setRslot_agenda (s : State) (n : Nat) (v : RSlot) : (s.setRslot n v).agenda = s.agenda := rfl
@[simp] theorem setRslot_cur (s : State) (n : Nat) (v : RSlot) : (s.setRslot n v).cur = s.cur := rfl
@[simp] theorem setRslot_turn (s : State) (n : Nat) (v : RSlot) : (s.setRslot n v).turn = s.turn := rfl
@[simp] theorem setRslot_tick (s : State) (n : Nat) (v : RSlot) : (s.setRslot n v).tick = s.tick := rfl
@[simp] theorem setRslot_hif_funcs (s : State) (n : Nat) (v : RSlot) : (s.setRslot n v).hif.funcs = s.hif.funcs := rfl
@[simp] theorem setRslot_hif_vectors (s : State) (n : Nat) (v : RSlot) : (s.setRslot n v).hif.vectors = s.hif.vectors := rfl
@[simp] theorem setRslot_hif_ownFile (s : State) (n : Nat) (v : RSlot) : (s.setRslot n v).hif.ownFile = s.hif.ownFile := rfl
@[simp] theorem setRslot_hif_ownSlot (s : State) (n : Nat) (v : RSlot) : (s.setRslot n v).hif.ownSlot = s.hif.ownSlot := rfl
@[simp] theorem setRslot_hif_ownAsc (s : State) (n : Nat) (v : RSlot) : (s.setRslot n v).hif.ownAsc = s.hif.ownAsc := rfl
@[simp] theorem setRslot_hif_baro (s : State) (n : Nat) (v : RSlot) : (s.setRslot n v).hif.baro = s.hif.baro := rfl
@[simp] theorem setRslot_hif_health (s : State) (n : Nat) (v : RSlot) : (s.setRslot n v).hif.health = s.hif.health := rfl

/-! ### setFunc -/

@[simp] theorem setFunc_mem (s : State) (f : Nat) (v : Func) : (s.setFunc f v).mem = s.mem := (rfl)
@[simp] theorem setFunc_poison (s : State) (f : Nat) (v : Func) : (s.setFunc f v).poison = s.poison := (rfl)
@[simp] theorem setFunc_time (s : State) (f : Nat) (v : Func) : (s.setFunc f v).time = s.time := rfl
@[simp] theorem setFunc_fabno (s : State) (f : Nat) (v : Func) : (s.setFunc f v).fabno = s.fabno := rfl
@[simp] theorem setFunc_roots (s : State) (f : Nat) (v : Func) : (s.setFunc f v).roots = s.roots := rfl
@[simp] theorem setFunc_tasks (s : State) (f : Nat) (v : Func) : (s.setFunc f v).tasks = s.tasks := rfl
@[simp] theorem setFunc_nextTask (s : State) (f : Nat) (v : Func) : (s.setFunc f v).nextTask = s.nextTask := rfl
@[simp] theorem setFunc_cores (s : State) (f : Nat) (v : Func) : (s.setFunc f v).cores = s.cores := rfl
@[simp] theorem setFunc_site0 (s : State) (f : Nat) (v : Func) : (s.setFunc f v).site0 = s.site0 := rfl
@[simp] theorem setFunc_site1 (s : State) (f : Nat) (v : Func) : (s.setFunc f v).site1 = s.site1 := rfl
@[simp] theorem setFunc_site2 (s : State) (f : Nat) (v : Func) : (s.setFunc f v).site2 = s.site2 := rfl
@[simp] theorem setFunc_site3 (s : State) (f : Nat) (v : Func) : (s.setFunc f v).site3 = s.site3 := rfl
@[simp] theorem setFunc_site4 (s : State) (f : Nat) (v : Func) : (s.setFunc f v).site4 = s.site4 := rfl
@[simp] theorem setFunc_site5 (s : State) (f : Nat) (v : Func) : (s.setFunc f v).site5 = s.site5 := rfl
@[simp] theorem setFunc_site6 (s : State) (f : Nat) (v : Func) : (s.setFunc f v).site6 = s.site6 := rfl
@[simp] theorem setFunc_site7 (s : State) (f : Nat) (v : Func) : (s.setFunc f v).site7 = s.site7 := rfl
@[simp] theorem setFunc_lfe (s : State) (f : Nat) (v : Func) : (s.setFunc f v).lfe = s.lfe := rfl
@[simp] theorem setFunc_ce (s : State) (f : Nat) (v : Func) : (s.setFunc f v).ce = s.ce := rfl
@[simp] theorem setFunc_agenda (s : State) (f : Nat) (v : Func) : (s.setFunc f v).agenda = s.agenda := rfl
@[simp] theorem setFunc_cur (s : State) (f : Nat) (v : Func) : (s.setFunc f v).cur = s.cur := rfl
@[simp] theorem setFunc_turn (s : State) (f : Nat) (v : Func) : (s.setFunc f v).turn = s.turn := rfl
@[simp] theorem setFunc_tick (s : State) (f : Nat) (v : Func) : (s.setFunc f v).tick = s.tick := rfl
@[simp] theorem setFunc_hif_vectors (s : State) (f : Nat) (v : Func) : (s.setFunc f v).hif.vectors = s.hif.vectors := rfl
@[simp] theorem setFunc_hif_slots (s : State) (f : Nat) (v : Func) : (s.setFunc f v).hif.slots = s.hif.slots := rfl
@[simp] theorem setFunc_hif_ownFile (s : State) (f : Nat) (v : Func) : (s.setFunc f v).hif.ownFile = s.hif.ownFile := rfl
@[simp] theorem setFunc_hif_ownSlot (s : State) (f : Nat) (v : Func) : (s.setFunc f v).hif.ownSlot = s.hif.ownSlot := rfl
@[simp] theorem setFunc_hif_ownAsc (s : State) (f : Nat) (v : Func) : (s.setFunc f v).hif.ownAsc = s.hif.ownAsc := rfl
@[simp] theorem setFunc_hif_baro (s : State) (f : Nat) (v : Func) : (s.setFunc f v).hif.baro = s.hif.baro := rfl
@[simp] theorem setFunc_hif_health (s : State) (f : Nat) (v : Func) : (s.setFunc f v).hif.health = s.hif.health := rfl

/-! ### setSite -/

@[simp] theorem setSite_mem (s : State) (n : Nat) (v : Site) : (s.setSite n v).mem = s.mem := by unfold State.setSite; split <;> rfl
@[simp] theorem setSite_poison (s : State) (n : Nat) (v : Site) : (s.setSite n v).poison = s.poison := by unfold State.setSite; split <;> rfl
@[simp] theorem setSite_time (s : State) (n : Nat) (v : Site) : (s.setSite n v).time = s.time := by unfold State.setSite; split <;> rfl
@[simp] theorem setSite_fabno (s : State) (n : Nat) (v : Site) : (s.setSite n v).fabno = s.fabno := by unfold State.setSite; split <;> rfl
@[simp] theorem setSite_roots (s : State) (n : Nat) (v : Site) : (s.setSite n v).roots = s.roots := by unfold State.setSite; split <;> rfl
@[simp] theorem setSite_tasks (s : State) (n : Nat) (v : Site) : (s.setSite n v).tasks = s.tasks := by unfold State.setSite; split <;> rfl
@[simp] theorem setSite_nextTask (s : State) (n : Nat) (v : Site) : (s.setSite n v).nextTask = s.nextTask := by unfold State.setSite; split <;> rfl
@[simp] theorem setSite_cores (s : State) (n : Nat) (v : Site) : (s.setSite n v).cores = s.cores := by unfold State.setSite; split <;> rfl
@[simp] theorem setSite_lfe (s : State) (n : Nat) (v : Site) : (s.setSite n v).lfe = s.lfe := by unfold State.setSite; split <;> rfl
@[simp] theorem setSite_ce (s : State) (n : Nat) (v : Site) : (s.setSite n v).ce = s.ce := by unfold State.setSite; split <;> rfl
@[simp] theorem setSite_hif (s : State) (n : Nat) (v : Site) : (s.setSite n v).hif = s.hif := by unfold State.setSite; split <;> rfl
@[simp] theorem setSite_agenda (s : State) (n : Nat) (v : Site) : (s.setSite n v).agenda = s.agenda := by unfold State.setSite; split <;> rfl
@[simp] theorem setSite_cur (s : State) (n : Nat) (v : Site) : (s.setSite n v).cur = s.cur := by unfold State.setSite; split <;> rfl
@[simp] theorem setSite_turn (s : State) (n : Nat) (v : Site) : (s.setSite n v).turn = s.turn := by unfold State.setSite; split <;> rfl
@[simp] theorem setSite_tick (s : State) (n : Nat) (v : Site) : (s.setSite n v).tick = s.tick := by unfold State.setSite; split <;> rfl

/-! ### Reading back -/

@[simp] theorem tasks_setTask (s : State) (t : Nat) (k : Task) : (s.setTask t k).tasks = ins s.tasks t k := rfl
@[simp] theorem task_setTask (s : State) (t u : Nat) (k : Task) : (s.setTask t k).task u = if u = t then k else s.task u := by
  simp only [State.task, State.setTask, find_ins]; split <;> rfl
@[simp] theorem core_setTask (s : State) (t c : Nat) (k : Task) : (s.setTask t k).core c = s.core c := rfl
@[simp] theorem site_setTask (s : State) (t i : Nat) (k : Task) : (s.setTask t k).site i = s.site i := rfl
@[simp] theorem packet_setTask (s : State) (t p : Nat) (k : Task) : (s.setTask t k).packet p = s.packet p := rfl
@[simp] theorem byte_setTask (s : State) (t a : Nat) (k : Task) : (s.setTask t k).byte a = s.byte a := rfl
@[simp] theorem core_setCore (s : State) (c d : Nat) (v : Core) : (s.setCore c v).core d = if d = c then v else s.core d := by
  simp only [State.core, State.setCore, get_put]
@[simp] theorem task_setCore (s : State) (c t : Nat) (v : Core) : (s.setCore c v).task t = s.task t := rfl
@[simp] theorem byte_setCore (s : State) (c a : Nat) (v : Core) : (s.setCore c v).byte a = s.byte a := rfl
@[simp] theorem packet_setPacket (s : State) (p q : Nat) (v : Packet) : (s.setPacket p v).packet q = if q = p then v else s.packet q := by
  simp only [State.packet, State.setPacket, find_ins]; split <;> rfl
@[simp] theorem task_setPacket (s : State) (p t : Nat) (v : Packet) : (s.setPacket p v).task t = s.task t := rfl
@[simp] theorem queue_setPacket (s : State) (p q : Nat) (v : Packet) : (s.setPacket p v).queue q = s.queue q := rfl
@[simp] theorem queue_setQueue (s : State) (q r : Nat) (v : Queue) : (s.setQueue q v).queue r = if r = q then v else s.queue r := by
  simp only [State.queue, State.setQueue, get_put]
@[simp] theorem packet_setQueue (s : State) (q p : Nat) (v : Queue) : (s.setQueue q v).packet p = s.packet p := rfl
@[simp] theorem cmd_setCmd (s : State) (c d : Nat) (v : Cmd) : (s.setCmd c v).cmd d = if d = c then v else s.cmd d := by
  simp only [State.cmd, State.setCmd, find_ins]; split <;> rfl
@[simp] theorem rslot_setRslot (s : State) (n m : Nat) (v : RSlot) : (s.setRslot n v).rslot m = if m = n then v else s.rslot m := by
  simp only [State.rslot, State.setRslot, get_put]
@[simp] theorem func_setFunc (s : State) (f g : Nat) (v : Func) : (s.setFunc f v).func g = if g = f then v else s.func g := by
  simp only [State.func, State.setFunc, get_put]
@[simp] theorem sem_setSem (s : State) (f n : Nat) (v : W32) : (s.setSem f n v).sem f n = v := by
  simp only [State.sem, State.setSem, get_put, if_true]
theorem sem_setSem_ne (s : State) (f n g m : Nat) (v : W32) (h : 256 * g + m ≠ 256 * f + n) : (s.setSem f n v).sem g m = s.sem g m := by
  simp only [State.sem, State.setSem, get_put, if_neg h]
theorem site_setSite (s : State) (n m : Nat) (v : Site) (hn : n ≤ 7) (hm : m ≤ 7) :
    (s.setSite n v).site m = if m = n then v else s.site m := by
  interval_cases n <;> interval_cases m <;> rfl
@[simp] theorem task_setSite (s : State) (n t : Nat) (v : Site) : (s.setSite n v).task t = s.task t := by simp only [State.task, setSite_tasks]
@[simp] theorem core_setSite (s : State) (n c : Nat) (v : Site) : (s.setSite n v).core c = s.core c := by simp only [State.core, setSite_cores]
@[simp] theorem byte_setSite (s : State) (n a : Nat) (v : Site) : (s.setSite n v).byte a = s.byte a := by simp only [State.byte, setSite_mem]

/-- The same bytes where memory is the same. -/
theorem byte_congr (s t : State) (h : t.mem = s.mem) (a : Nat) : t.byte a = s.byte a := by simp only [State.byte, h]
theorem bad_congr (s t : State) (h : t.poison = s.poison) (a : Nat) : t.bad a = s.bad a := by simp only [State.bad, h]

/-! ### The context of a task -/

@[simp] theorem wx_fw (k : Task) (r : Reg) (v : W64) : (k.wx r v).fw = k.fw := by unfold Task.wx; split <;> rfl
@[simp] theorem wx_die (k : Task) (r : Reg) (v : W64) : (k.wx r v).die = k.die := by unfold Task.wx; split <;> rfl
@[simp] theorem wx_core (k : Task) (r : Reg) (v : W64) : (k.wx r v).core = k.core := by unfold Task.wx; split <;> rfl
@[simp] theorem wx_ctx (k : Task) (r : Reg) (v : W64) : (k.wx r v).ctx = k.ctx := by unfold Task.wx; split <;> rfl
@[simp] theorem wx_packet (k : Task) (r : Reg) (v : W64) : (k.wx r v).packet = k.packet := by unfold Task.wx; split <;> rfl
@[simp] theorem wx_ticket (k : Task) (r : Reg) (v : W64) : (k.wx r v).ticket = k.ticket := by unfold Task.wx; split <;> rfl
@[simp] theorem wx_member (k : Task) (r : Reg) (v : W64) : (k.wx r v).member = k.member := by unfold Task.wx; split <;> rfl
@[simp] theorem wx_phase (k : Task) (r : Reg) (v : W64) : (k.wx r v).phase = k.phase := by unfold Task.wx; split <;> rfl
@[simp] theorem wx_b (k : Task) (r : Reg) (v : W64) : (k.wx r v).b = k.b := by unfold Task.wx; split <;> rfl
@[simp] theorem wx_h (k : Task) (r : Reg) (v : W64) : (k.wx r v).h = k.h := by unfold Task.wx; split <;> rfl
@[simp] theorem wx_lc (k : Task) (r : Reg) (v : W64) : (k.wx r v).lc = k.lc := by unfold Task.wx; split <;> rfl
@[simp] theorem wx_cb (k : Task) (r : Reg) (v : W64) : (k.wx r v).cb = k.cb := by unfold Task.wx; split <;> rfl
@[simp] theorem wx_p (k : Task) (r : Reg) (v : W64) : (k.wx r v).p = k.p := by unfold Task.wx; split <;> rfl
@[simp] theorem wx_i (k : Task) (r : Reg) (v : W64) : (k.wx r v).i = k.i := by unfold Task.wx; split <;> rfl
@[simp] theorem wx_pc (k : Task) (r : Reg) (v : W64) : (k.wx r v).pc = k.pc := by unfold Task.wx; split <;> rfl
@[simp] theorem wx_fflags (k : Task) (r : Reg) (v : W64) : (k.wx r v).fflags = k.fflags := by unfold Task.wx; split <;> rfl
@[simp] theorem wx_rsrseed (k : Task) (r : Reg) (v : W64) : (k.wx r v).rsrseed = k.rsrseed := by unfold Task.wx; split <;> rfl
@[simp] theorem wx_cycle (k : Task) (r : Reg) (v : W64) : (k.wx r v).cycle = k.cycle := by unfold Task.wx; split <;> rfl
@[simp] theorem wx_tvec (k : Task) (r : Reg) (v : W64) : (k.wx r v).tvec = k.tvec := by unfold Task.wx; split <;> rfl
@[simp] theorem wx_tpc (k : Task) (r : Reg) (v : W64) : (k.wx r v).tpc = k.tpc := by unfold Task.wx; split <;> rfl
@[simp] theorem wx_tcause (k : Task) (r : Reg) (v : W64) : (k.wx r v).tcause = k.tcause := by unfold Task.wx; split <;> rfl
@[simp] theorem wx_taddr (k : Task) (r : Reg) (v : W64) : (k.wx r v).taddr = k.taddr := by unfold Task.wx; split <;> rfl
@[simp] theorem wx_tinfo (k : Task) (r : Reg) (v : W64) : (k.wx r v).tinfo = k.tinfo := by unfold Task.wx; split <;> rfl
@[simp] theorem wx_tdata (k : Task) (r : Reg) (v : W64) : (k.wx r v).tdata = k.tdata := by unfold Task.wx; split <;> rfl
@[simp] theorem wx_inTrap (k : Task) (r : Reg) (v : W64) : (k.wx r v).inTrap = k.inTrap := by unfold Task.wx; split <;> rfl
@[simp] theorem wx_tsave (k : Task) (r : Reg) (v : W64) : (k.wx r v).tsave = k.tsave := by unfold Task.wx; split <;> rfl
@[simp] theorem wx_ord (k : Task) (r : Reg) (v : W64) : (k.wx r v).ord = k.ord := by unfold Task.wx; split <;> rfl
@[simp] theorem wx_hnd (k : Task) (r : Reg) (v : W64) : (k.wx r v).hnd = k.hnd := by unfold Task.wx; split <;> rfl
@[simp] theorem wx_fmtq (k : Task) (r : Reg) (v : W64) : (k.wx r v).fmtq = k.fmtq := by unfold Task.wx; split <;> rfl
@[simp] theorem wx_dq0 (k : Task) (r : Reg) (v : W64) : (k.wx r v).dq0 = k.dq0 := by unfold Task.wx; split <;> rfl
@[simp] theorem wx_dq1 (k : Task) (r : Reg) (v : W64) : (k.wx r v).dq1 = k.dq1 := by unfold Task.wx; split <;> rfl
@[simp] theorem wx_win (k : Task) (r : Reg) (v : W64) : (k.wx r v).win = k.win := by unfold Task.wx; split <;> rfl
@[simp] theorem wx_v (k : Task) (r : Reg) (v : W64) : (k.wx r v).v = k.v := by unfold Task.wx; split <;> rfl
@[simp] theorem wx_m (k : Task) (r : Reg) (v : W64) : (k.wx r v).m = k.m := by unfold Task.wx; split <;> rfl
@[simp] theorem wx_acc (k : Task) (r : Reg) (v : W64) : (k.wx r v).acc = k.acc := by unfold Task.wx; split <;> rfl
@[simp] theorem wx_mma (k : Task) (r : Reg) (v : W64) : (k.wx r v).mma = k.mma := by unfold Task.wx; split <;> rfl
@[simp] theorem wx_slice (k : Task) (r : Reg) (v : W64) : (k.wx r v).slice = k.slice := by unfold Task.wx; split <;> rfl
@[simp] theorem wx_ldqOut (k : Task) (r : Reg) (v : W64) : (k.wx r v).ldqOut = k.ldqOut := by unfold Task.wx; split <;> rfl
@[simp] theorem wx_stqOut (k : Task) (r : Reg) (v : W64) : (k.wx r v).stqOut = k.stqOut := by unfold Task.wx; split <;> rfl
@[simp] theorem wx_results (k : Task) (r : Reg) (v : W64) : (k.wx r v).results = k.results := by unfold Task.wx; split <;> rfl
@[simp] theorem wx_seq (k : Task) (r : Reg) (v : W64) : (k.wx r v).seq = k.seq := by unfold Task.wx; split <;> rfl
@[simp] theorem wx_markers (k : Task) (r : Reg) (v : W64) : (k.wx r v).markers = k.markers := by unfold Task.wx; split <;> rfl
@[simp] theorem wx_routed (k : Task) (r : Reg) (v : W64) : (k.wx r v).routed = k.routed := by unfold Task.wx; split <;> rfl
@[simp] theorem wx_wid (k : Task) (r : Reg) (v : W64) : (k.wx r v).wid = k.wid := by unfold Task.wx; split <;> rfl
@[simp] theorem wx_partBase (k : Task) (r : Reg) (v : W64) : (k.wx r v).partBase = k.partBase := by unfold Task.wx; split <;> rfl
@[simp] theorem wx_partSize (k : Task) (r : Reg) (v : W64) : (k.wx r v).partSize = k.partSize := by unfold Task.wx; split <;> rfl
@[simp] theorem wx_yieldLeft (k : Task) (r : Reg) (v : W64) : (k.wx r v).yieldLeft = k.yieldLeft := by unfold Task.wx; split <;> rfl
@[simp] theorem wx_walk (k : Task) (r : Reg) (v : W64) : (k.wx r v).walk = k.walk := by unfold Task.wx; split <;> rfl
@[simp] theorem wx_missing (k : Task) (r : Reg) (v : W64) : (k.wx r v).missing = k.missing := by unfold Task.wx; split <;> rfl
@[simp] theorem wx_residue (k : Task) (r : Reg) (v : W64) : (k.wx r v).residue = k.residue := by unfold Task.wx; split <;> rfl
@[simp] theorem wx_saved (k : Task) (r : Reg) (v : W64) : (k.wx r v).saved = k.saved := by unfold Task.wx; split <;> rfl
@[simp] theorem wx_waitQ (k : Task) (r : Reg) (v : W64) : (k.wx r v).waitQ = k.waitQ := by unfold Task.wx; split <;> rfl
@[simp] theorem wx_esem (k : Task) (r : Reg) (v : W64) : (k.wx r v).esem = k.esem := by unfold Task.wx; split <;> rfl
@[simp] theorem wx_started (k : Task) (r : Reg) (v : W64) : (k.wx r v).started = k.started := by unfold Task.wx; split <;> rfl
@[simp] theorem wx_gone (k : Task) (r : Reg) (v : W64) : (k.wx r v).gone = k.gone := by unfold Task.wx; split <;> rfl

@[simp] theorem withSet_fw (k : Task) (hs : Bool) (q : QSet) : (k.withSet hs q).fw = k.fw := by unfold Task.withSet; split <;> rfl
@[simp] theorem withSet_die (k : Task) (hs : Bool) (q : QSet) : (k.withSet hs q).die = k.die := by unfold Task.withSet; split <;> rfl
@[simp] theorem withSet_core (k : Task) (hs : Bool) (q : QSet) : (k.withSet hs q).core = k.core := by unfold Task.withSet; split <;> rfl
@[simp] theorem withSet_ctx (k : Task) (hs : Bool) (q : QSet) : (k.withSet hs q).ctx = k.ctx := by unfold Task.withSet; split <;> rfl
@[simp] theorem withSet_packet (k : Task) (hs : Bool) (q : QSet) : (k.withSet hs q).packet = k.packet := by unfold Task.withSet; split <;> rfl
@[simp] theorem withSet_ticket (k : Task) (hs : Bool) (q : QSet) : (k.withSet hs q).ticket = k.ticket := by unfold Task.withSet; split <;> rfl
@[simp] theorem withSet_member (k : Task) (hs : Bool) (q : QSet) : (k.withSet hs q).member = k.member := by unfold Task.withSet; split <;> rfl
@[simp] theorem withSet_phase (k : Task) (hs : Bool) (q : QSet) : (k.withSet hs q).phase = k.phase := by unfold Task.withSet; split <;> rfl
@[simp] theorem withSet_x (k : Task) (hs : Bool) (q : QSet) : (k.withSet hs q).x = k.x := by unfold Task.withSet; split <;> rfl
@[simp] theorem withSet_b (k : Task) (hs : Bool) (q : QSet) : (k.withSet hs q).b = k.b := by unfold Task.withSet; split <;> rfl
@[simp] theorem withSet_h (k : Task) (hs : Bool) (q : QSet) : (k.withSet hs q).h = k.h := by unfold Task.withSet; split <;> rfl
@[simp] theorem withSet_lc (k : Task) (hs : Bool) (q : QSet) : (k.withSet hs q).lc = k.lc := by unfold Task.withSet; split <;> rfl
@[simp] theorem withSet_cb (k : Task) (hs : Bool) (q : QSet) : (k.withSet hs q).cb = k.cb := by unfold Task.withSet; split <;> rfl
@[simp] theorem withSet_p (k : Task) (hs : Bool) (q : QSet) : (k.withSet hs q).p = k.p := by unfold Task.withSet; split <;> rfl
@[simp] theorem withSet_i (k : Task) (hs : Bool) (q : QSet) : (k.withSet hs q).i = k.i := by unfold Task.withSet; split <;> rfl
@[simp] theorem withSet_pc (k : Task) (hs : Bool) (q : QSet) : (k.withSet hs q).pc = k.pc := by unfold Task.withSet; split <;> rfl
@[simp] theorem withSet_fflags (k : Task) (hs : Bool) (q : QSet) : (k.withSet hs q).fflags = k.fflags := by unfold Task.withSet; split <;> rfl
@[simp] theorem withSet_rsrseed (k : Task) (hs : Bool) (q : QSet) : (k.withSet hs q).rsrseed = k.rsrseed := by unfold Task.withSet; split <;> rfl
@[simp] theorem withSet_cycle (k : Task) (hs : Bool) (q : QSet) : (k.withSet hs q).cycle = k.cycle := by unfold Task.withSet; split <;> rfl
@[simp] theorem withSet_tvec (k : Task) (hs : Bool) (q : QSet) : (k.withSet hs q).tvec = k.tvec := by unfold Task.withSet; split <;> rfl
@[simp] theorem withSet_tpc (k : Task) (hs : Bool) (q : QSet) : (k.withSet hs q).tpc = k.tpc := by unfold Task.withSet; split <;> rfl
@[simp] theorem withSet_tcause (k : Task) (hs : Bool) (q : QSet) : (k.withSet hs q).tcause = k.tcause := by unfold Task.withSet; split <;> rfl
@[simp] theorem withSet_taddr (k : Task) (hs : Bool) (q : QSet) : (k.withSet hs q).taddr = k.taddr := by unfold Task.withSet; split <;> rfl
@[simp] theorem withSet_tinfo (k : Task) (hs : Bool) (q : QSet) : (k.withSet hs q).tinfo = k.tinfo := by unfold Task.withSet; split <;> rfl
@[simp] theorem withSet_tdata (k : Task) (hs : Bool) (q : QSet) : (k.withSet hs q).tdata = k.tdata := by unfold Task.withSet; split <;> rfl
@[simp] theorem withSet_inTrap (k : Task) (hs : Bool) (q : QSet) : (k.withSet hs q).inTrap = k.inTrap := by unfold Task.withSet; split <;> rfl
@[simp] theorem withSet_tsave (k : Task) (hs : Bool) (q : QSet) : (k.withSet hs q).tsave = k.tsave := by unfold Task.withSet; split <;> rfl
@[simp] theorem withSet_fmtq (k : Task) (hs : Bool) (q : QSet) : (k.withSet hs q).fmtq = k.fmtq := by unfold Task.withSet; split <;> rfl
@[simp] theorem withSet_dq0 (k : Task) (hs : Bool) (q : QSet) : (k.withSet hs q).dq0 = k.dq0 := by unfold Task.withSet; split <;> rfl
@[simp] theorem withSet_dq1 (k : Task) (hs : Bool) (q : QSet) : (k.withSet hs q).dq1 = k.dq1 := by unfold Task.withSet; split <;> rfl
@[simp] theorem withSet_win (k : Task) (hs : Bool) (q : QSet) : (k.withSet hs q).win = k.win := by unfold Task.withSet; split <;> rfl
@[simp] theorem withSet_v (k : Task) (hs : Bool) (q : QSet) : (k.withSet hs q).v = k.v := by unfold Task.withSet; split <;> rfl
@[simp] theorem withSet_m (k : Task) (hs : Bool) (q : QSet) : (k.withSet hs q).m = k.m := by unfold Task.withSet; split <;> rfl
@[simp] theorem withSet_acc (k : Task) (hs : Bool) (q : QSet) : (k.withSet hs q).acc = k.acc := by unfold Task.withSet; split <;> rfl
@[simp] theorem withSet_mma (k : Task) (hs : Bool) (q : QSet) : (k.withSet hs q).mma = k.mma := by unfold Task.withSet; split <;> rfl
@[simp] theorem withSet_slice (k : Task) (hs : Bool) (q : QSet) : (k.withSet hs q).slice = k.slice := by unfold Task.withSet; split <;> rfl
@[simp] theorem withSet_ldqOut (k : Task) (hs : Bool) (q : QSet) : (k.withSet hs q).ldqOut = k.ldqOut := by unfold Task.withSet; split <;> rfl
@[simp] theorem withSet_stqOut (k : Task) (hs : Bool) (q : QSet) : (k.withSet hs q).stqOut = k.stqOut := by unfold Task.withSet; split <;> rfl
@[simp] theorem withSet_results (k : Task) (hs : Bool) (q : QSet) : (k.withSet hs q).results = k.results := by unfold Task.withSet; split <;> rfl
@[simp] theorem withSet_seq (k : Task) (hs : Bool) (q : QSet) : (k.withSet hs q).seq = k.seq := by unfold Task.withSet; split <;> rfl
@[simp] theorem withSet_markers (k : Task) (hs : Bool) (q : QSet) : (k.withSet hs q).markers = k.markers := by unfold Task.withSet; split <;> rfl
@[simp] theorem withSet_routed (k : Task) (hs : Bool) (q : QSet) : (k.withSet hs q).routed = k.routed := by unfold Task.withSet; split <;> rfl
@[simp] theorem withSet_wid (k : Task) (hs : Bool) (q : QSet) : (k.withSet hs q).wid = k.wid := by unfold Task.withSet; split <;> rfl
@[simp] theorem withSet_partBase (k : Task) (hs : Bool) (q : QSet) : (k.withSet hs q).partBase = k.partBase := by unfold Task.withSet; split <;> rfl
@[simp] theorem withSet_partSize (k : Task) (hs : Bool) (q : QSet) : (k.withSet hs q).partSize = k.partSize := by unfold Task.withSet; split <;> rfl
@[simp] theorem withSet_yieldLeft (k : Task) (hs : Bool) (q : QSet) : (k.withSet hs q).yieldLeft = k.yieldLeft := by unfold Task.withSet; split <;> rfl
@[simp] theorem withSet_walk (k : Task) (hs : Bool) (q : QSet) : (k.withSet hs q).walk = k.walk := by unfold Task.withSet; split <;> rfl
@[simp] theorem withSet_missing (k : Task) (hs : Bool) (q : QSet) : (k.withSet hs q).missing = k.missing := by unfold Task.withSet; split <;> rfl
@[simp] theorem withSet_residue (k : Task) (hs : Bool) (q : QSet) : (k.withSet hs q).residue = k.residue := by unfold Task.withSet; split <;> rfl
@[simp] theorem withSet_saved (k : Task) (hs : Bool) (q : QSet) : (k.withSet hs q).saved = k.saved := by unfold Task.withSet; split <;> rfl
@[simp] theorem withSet_waitQ (k : Task) (hs : Bool) (q : QSet) : (k.withSet hs q).waitQ = k.waitQ := by unfold Task.withSet; split <;> rfl
@[simp] theorem withSet_esem (k : Task) (hs : Bool) (q : QSet) : (k.withSet hs q).esem = k.esem := by unfold Task.withSet; split <;> rfl
@[simp] theorem withSet_started (k : Task) (hs : Bool) (q : QSet) : (k.withSet hs q).started = k.started := by unfold Task.withSet; split <;> rfl
@[simp] theorem withSet_gone (k : Task) (hs : Bool) (q : QSet) : (k.withSet hs q).gone = k.gone := by unfold Task.withSet; split <;> rfl

@[simp] theorem setQset_fw (k : Task) (q : QSet) : (k.setQset q).fw = k.fw := by unfold Task.setQset; split <;> rfl
@[simp] theorem setQset_die (k : Task) (q : QSet) : (k.setQset q).die = k.die := by unfold Task.setQset; split <;> rfl
@[simp] theorem setQset_core (k : Task) (q : QSet) : (k.setQset q).core = k.core := by unfold Task.setQset; split <;> rfl
@[simp] theorem setQset_ctx (k : Task) (q : QSet) : (k.setQset q).ctx = k.ctx := by unfold Task.setQset; split <;> rfl
@[simp] theorem setQset_packet (k : Task) (q : QSet) : (k.setQset q).packet = k.packet := by unfold Task.setQset; split <;> rfl
@[simp] theorem setQset_ticket (k : Task) (q : QSet) : (k.setQset q).ticket = k.ticket := by unfold Task.setQset; split <;> rfl
@[simp] theorem setQset_member (k : Task) (q : QSet) : (k.setQset q).member = k.member := by unfold Task.setQset; split <;> rfl
@[simp] theorem setQset_phase (k : Task) (q : QSet) : (k.setQset q).phase = k.phase := by unfold Task.setQset; split <;> rfl
@[simp] theorem setQset_x (k : Task) (q : QSet) : (k.setQset q).x = k.x := by unfold Task.setQset; split <;> rfl
@[simp] theorem setQset_b (k : Task) (q : QSet) : (k.setQset q).b = k.b := by unfold Task.setQset; split <;> rfl
@[simp] theorem setQset_h (k : Task) (q : QSet) : (k.setQset q).h = k.h := by unfold Task.setQset; split <;> rfl
@[simp] theorem setQset_lc (k : Task) (q : QSet) : (k.setQset q).lc = k.lc := by unfold Task.setQset; split <;> rfl
@[simp] theorem setQset_cb (k : Task) (q : QSet) : (k.setQset q).cb = k.cb := by unfold Task.setQset; split <;> rfl
@[simp] theorem setQset_p (k : Task) (q : QSet) : (k.setQset q).p = k.p := by unfold Task.setQset; split <;> rfl
@[simp] theorem setQset_i (k : Task) (q : QSet) : (k.setQset q).i = k.i := by unfold Task.setQset; split <;> rfl
@[simp] theorem setQset_pc (k : Task) (q : QSet) : (k.setQset q).pc = k.pc := by unfold Task.setQset; split <;> rfl
@[simp] theorem setQset_fflags (k : Task) (q : QSet) : (k.setQset q).fflags = k.fflags := by unfold Task.setQset; split <;> rfl
@[simp] theorem setQset_rsrseed (k : Task) (q : QSet) : (k.setQset q).rsrseed = k.rsrseed := by unfold Task.setQset; split <;> rfl
@[simp] theorem setQset_cycle (k : Task) (q : QSet) : (k.setQset q).cycle = k.cycle := by unfold Task.setQset; split <;> rfl
@[simp] theorem setQset_tvec (k : Task) (q : QSet) : (k.setQset q).tvec = k.tvec := by unfold Task.setQset; split <;> rfl
@[simp] theorem setQset_tpc (k : Task) (q : QSet) : (k.setQset q).tpc = k.tpc := by unfold Task.setQset; split <;> rfl
@[simp] theorem setQset_tcause (k : Task) (q : QSet) : (k.setQset q).tcause = k.tcause := by unfold Task.setQset; split <;> rfl
@[simp] theorem setQset_taddr (k : Task) (q : QSet) : (k.setQset q).taddr = k.taddr := by unfold Task.setQset; split <;> rfl
@[simp] theorem setQset_tinfo (k : Task) (q : QSet) : (k.setQset q).tinfo = k.tinfo := by unfold Task.setQset; split <;> rfl
@[simp] theorem setQset_tdata (k : Task) (q : QSet) : (k.setQset q).tdata = k.tdata := by unfold Task.setQset; split <;> rfl
@[simp] theorem setQset_inTrap (k : Task) (q : QSet) : (k.setQset q).inTrap = k.inTrap := by unfold Task.setQset; split <;> rfl
@[simp] theorem setQset_tsave (k : Task) (q : QSet) : (k.setQset q).tsave = k.tsave := by unfold Task.setQset; split <;> rfl
@[simp] theorem setQset_fmtq (k : Task) (q : QSet) : (k.setQset q).fmtq = k.fmtq := by unfold Task.setQset; split <;> rfl
@[simp] theorem setQset_dq0 (k : Task) (q : QSet) : (k.setQset q).dq0 = k.dq0 := by unfold Task.setQset; split <;> rfl
@[simp] theorem setQset_dq1 (k : Task) (q : QSet) : (k.setQset q).dq1 = k.dq1 := by unfold Task.setQset; split <;> rfl
@[simp] theorem setQset_win (k : Task) (q : QSet) : (k.setQset q).win = k.win := by unfold Task.setQset; split <;> rfl
@[simp] theorem setQset_v (k : Task) (q : QSet) : (k.setQset q).v = k.v := by unfold Task.setQset; split <;> rfl
@[simp] theorem setQset_m (k : Task) (q : QSet) : (k.setQset q).m = k.m := by unfold Task.setQset; split <;> rfl
@[simp] theorem setQset_acc (k : Task) (q : QSet) : (k.setQset q).acc = k.acc := by unfold Task.setQset; split <;> rfl
@[simp] theorem setQset_mma (k : Task) (q : QSet) : (k.setQset q).mma = k.mma := by unfold Task.setQset; split <;> rfl
@[simp] theorem setQset_slice (k : Task) (q : QSet) : (k.setQset q).slice = k.slice := by unfold Task.setQset; split <;> rfl
@[simp] theorem setQset_ldqOut (k : Task) (q : QSet) : (k.setQset q).ldqOut = k.ldqOut := by unfold Task.setQset; split <;> rfl
@[simp] theorem setQset_stqOut (k : Task) (q : QSet) : (k.setQset q).stqOut = k.stqOut := by unfold Task.setQset; split <;> rfl
@[simp] theorem setQset_results (k : Task) (q : QSet) : (k.setQset q).results = k.results := by unfold Task.setQset; split <;> rfl
@[simp] theorem setQset_seq (k : Task) (q : QSet) : (k.setQset q).seq = k.seq := by unfold Task.setQset; split <;> rfl
@[simp] theorem setQset_markers (k : Task) (q : QSet) : (k.setQset q).markers = k.markers := by unfold Task.setQset; split <;> rfl
@[simp] theorem setQset_routed (k : Task) (q : QSet) : (k.setQset q).routed = k.routed := by unfold Task.setQset; split <;> rfl
@[simp] theorem setQset_wid (k : Task) (q : QSet) : (k.setQset q).wid = k.wid := by unfold Task.setQset; split <;> rfl
@[simp] theorem setQset_partBase (k : Task) (q : QSet) : (k.setQset q).partBase = k.partBase := by unfold Task.setQset; split <;> rfl
@[simp] theorem setQset_partSize (k : Task) (q : QSet) : (k.setQset q).partSize = k.partSize := by unfold Task.setQset; split <;> rfl
@[simp] theorem setQset_yieldLeft (k : Task) (q : QSet) : (k.setQset q).yieldLeft = k.yieldLeft := by unfold Task.setQset; split <;> rfl
@[simp] theorem setQset_walk (k : Task) (q : QSet) : (k.setQset q).walk = k.walk := by unfold Task.setQset; split <;> rfl
@[simp] theorem setQset_missing (k : Task) (q : QSet) : (k.setQset q).missing = k.missing := by unfold Task.setQset; split <;> rfl
@[simp] theorem setQset_residue (k : Task) (q : QSet) : (k.setQset q).residue = k.residue := by unfold Task.setQset; split <;> rfl
@[simp] theorem setQset_saved (k : Task) (q : QSet) : (k.setQset q).saved = k.saved := by unfold Task.setQset; split <;> rfl
@[simp] theorem setQset_waitQ (k : Task) (q : QSet) : (k.setQset q).waitQ = k.waitQ := by unfold Task.setQset; split <;> rfl
@[simp] theorem setQset_esem (k : Task) (q : QSet) : (k.setQset q).esem = k.esem := by unfold Task.setQset; split <;> rfl
@[simp] theorem setQset_started (k : Task) (q : QSet) : (k.setQset q).started = k.started := by unfold Task.setQset; split <;> rfl
@[simp] theorem setQset_gone (k : Task) (q : QSet) : (k.setQset q).gone = k.gone := by unfold Task.setQset; split <;> rfl

@[simp] theorem set_withSet (k : Task) (hs : Bool) (q : QSet) : (k.withSet hs q).set hs = q := by cases hs <;> rfl
theorem set_withSet_ne (k : Task) (hs ht : Bool) (q : QSet) (h : hs ≠ ht) : (k.withSet hs q).set ht = k.set ht := by
  cases hs <;> cases ht <;> first | rfl | exact absurd rfl h
@[simp] theorem withSet_withSet (k : Task) (hs : Bool) (p q : QSet) : (k.withSet hs p).withSet hs q = k.withSet hs q := by cases hs <;> rfl
@[simp] theorem withSet_set (k : Task) (hs : Bool) : k.withSet hs (k.set hs) = k := by cases hs <;> rfl
@[simp] theorem qset_setQset (k : Task) (q : QSet) : (k.setQset q).qset = q := by unfold Task.setQset Task.qset; split <;> simp [*]
theorem qset_eq (k : Task) : k.qset = k.set k.inTrap := rfl
theorem setQset_eq (k : Task) (q : QSet) : k.setQset q = k.withSet k.inTrap q := rfl

/-! ### A set of queues -/

@[simp] theorem rq_setRq (s : QSet) (q : Nat) (v : RQ) : (s.setRq q v).rq q = v := by
  rcases q with _ | _ | q <;> rfl
theorem rq_setRq_ne (s : QSet) (p q : Nat) (v : RQ) (hp : p ≤ 2) (hq : q ≤ 2) (h : p ≠ q) : (s.setRq q v).rq p = s.rq p := by
  interval_cases p <;> interval_cases q <;> first | rfl | exact absurd rfl h
@[simp] theorem setRq_setRq (s : QSet) (q : Nat) (v w : RQ) : (s.setRq q v).setRq q w = s.setRq q w := by
  rcases q with _ | _ | q <;> rfl
@[simp] theorem ctq_setRq (s : QSet) (p q : Nat) (v : RQ) : (s.setRq q v).ctq p = s.ctq p := by
  unfold QSet.setRq QSet.ctq; split <;> split <;> rfl
@[simp] theorem rq_setCtq (s : QSet) (p q : Nat) (v : List CtqEntry) : (s.setCtq q v).rq p = s.rq p := by
  unfold QSet.setCtq QSet.rq; split <;> split <;> rfl
@[simp] theorem ctq_setCtq (s : QSet) (q : Nat) (v : List CtqEntry) : (s.setCtq q v).ctq q = v := by
  rcases q with _ | _ | q <;> rfl
@[simp] theorem chan_setRq (s : QSet) (q a b : Nat) (v : RQ) : (s.setRq q v).chan a b = s.chan a b := by
  unfold QSet.setRq QSet.chan; split <;> rfl
@[simp] theorem chan_setCtq (s : QSet) (q a b : Nat) (v : List CtqEntry) : (s.setCtq q v).chan a b = s.chan a b := by
  unfold QSet.setCtq QSet.chan; split <;> rfl
@[simp] theorem rq_setChan (s : QSet) (a b n q : Nat) : (s.setChan a b n).rq q = s.rq q := by unfold QSet.setChan QSet.rq; split <;> rfl
@[simp] theorem ctq_setChan (s : QSet) (a b n q : Nat) : (s.setChan a b n).ctq q = s.ctq q := by unfold QSet.setChan QSet.ctq; split <;> rfl
@[simp] theorem chan_setChan (s : QSet) (a b n c d : Nat) :
    (s.setChan a b n).chan c d = if 3 * c + d = 3 * a + b then n else s.chan c d := by
  simp only [QSet.chan, QSet.setChan, get_put]

end Sys2Proof.Machine
end

