-- ==== Sys2Proof/Laws/Memory.lean ====
section
/-! SUPPORT. What each operation on the state does to memory and its poison: it leaves them alone (_mem), or keeps their canonical form
(_ram). -/

namespace Sys2Proof.Machine

/-- An operation that leaves memory alone does so when it is done for each element of a list. -/
theorem each_mem {α : Type} (f : α → State → State) (h : ∀ a s, (f a s).mem = s.mem ∧ (f a s).poison = s.poison) (l : List α) (s : State) :
    (each f l s).mem = s.mem ∧ (each f l s).poison = s.poison := by
  induction l generalizing s with
  | nil => exact ⟨rfl, rfl⟩
  | cons a r ih => simp [each, ih, h]

/-- Memory and poison in their canonical form. -/
def RamWf (m : List Host.Cell) (p : Assoc Bool) : Prop := Memory.wf m ∧ sortedFrom false 0 p = true

theorem memWf_iff (s : State) : s.memWf ↔ RamWf s.mem s.poison := Iff.rfl

/-- An operation that keeps the canonical form does so when it is done for each element of a list. -/
theorem each_ram {α : Type} (f : α → State → State) (h : ∀ a s, RamWf s.mem s.poison → RamWf (f a s).mem (f a s).poison)
    (l : List α) (s : State) (h0 : RamWf s.mem s.poison) :
    RamWf (each f l s).mem (each f l s).poison := by
  induction l generalizing s with
  | nil => exact h0
  | cons a r ih => exact ih _ (h _ _ h0)

@[simp] theorem draw_mem (s : State) : s.draw.2.mem = s.mem ∧ s.draw.2.poison = s.poison := by
  simp [State.draw]

@[simp] theorem setByte_ram (s : State) (a : Nat) (v : Byte) (hw : RamWf s.mem s.poison) :
    RamWf (s.setByte a v).mem (s.setByte a v).poison := by
  unfold State.setByte; split
  · exact ⟨sorted_put _ _ _ _ _ hw.1 (Nat.zero_le _), sorted_put _ _ _ _ _ hw.2 (Nat.zero_le _)⟩
  · exact hw

@[simp] theorem store_ram (s : State) (l : List (Nat × Byte)) (hw : RamWf s.mem s.poison) : RamWf (s.store l).mem (s.store l).poison := by
  induction l generalizing s with
  | nil => exact hw
  | cons p r ih => exact ih _ (setByte_ram _ _ _ hw)

theorem ite_mem (p : Prop) [Decidable p] (s a b : State) (ha : a.mem = s.mem ∧ a.poison = s.poison)
    (hb : b.mem = s.mem ∧ b.poison = s.poison) : (if p then a else b).mem = s.mem ∧ (if p then a else b).poison = s.poison := by
  split <;> assumption

@[simp] theorem note_mem (s : State) (kind code : Nat) (payload detail : W64) (who : Option Task) :
    (s.note kind code payload detail who).mem = s.mem ∧ (s.note kind code payload detail who).poison = s.poison := by
  unfold State.note; dsimp only; split <;> simp

@[simp] theorem perform_ram (s : State) (cells : List (Nat × Byte)) (hw : RamWf s.mem s.poison) :
    RamWf (s.perform cells).mem (s.perform cells).poison := by
  unfold State.perform; (repeat' split) <;> simp_all

@[simp] theorem warm_mem (s : State) (a n : Nat) : (s.warm a n).mem = s.mem ∧ (s.warm a n).poison = s.poison := by
  unfold State.warm; (repeat' split) <;> simp_all

@[simp] theorem arrive_mem (s : State) (a : Nat) : (s.arrive a).mem = s.mem ∧ (s.arrive a).poison = s.poison := by
  unfold State.arrive; simp only []; (repeat' split) <;> simp_all

@[simp] theorem touch_mem (s : State) (c : Nat) (h : Handle) (a : Nat) :
    (s.touch c h a).mem = s.mem ∧ (s.touch c h a).poison = s.poison := by
  unfold State.touch; (repeat' split) <;> simp_all

@[simp] theorem touchAll_mem (s : State) (c : Nat) (h : Handle) (l : List Nat) :
    (s.touchAll c h l).mem = s.mem ∧ (s.touchAll c h l).poison = s.poison := by
  unfold State.touchAll; simp [each_mem]

@[simp] theorem cool_mem (s : State) (l : List TlbEntry) : (s.cool l).mem = s.mem ∧ (s.cool l).poison = s.poison := by
  unfold State.cool; simp [each_mem]

@[simp] theorem finish_mem (s : State) (id status : Nat) : (s.finish id status).mem = s.mem ∧ (s.finish id status).poison = s.poison := by
  simp [State.finish]

@[simp] theorem evalWait_mem (s : State) (id : Nat) : (s.evalWait id).mem = s.mem ∧ (s.evalWait id).poison = s.poison := by
  unfold State.evalWait; simp only []; (repeat' split) <;> simp_all

@[simp] theorem wake_mem (s : State) (file n : Nat) : (s.wake file n).mem = s.mem ∧ (s.wake file n).poison = s.poison := by
  unfold State.wake; simp [each_mem]

@[simp] theorem count_mem (s : State) (file n : Nat) (v : W32) : (s.count file n v).mem = s.mem ∧ (s.count file n v).poison = s.poison := by
  simp [State.count]

@[simp] theorem signal_mem (s : State) (file n : Nat) (d : Int) (who : Option Task) :
    (s.signal file n d who).mem = s.mem ∧ (s.signal file n d who).poison = s.poison := by
  unfold State.signal; simp only []; (repeat' split) <;> simp_all

@[simp] theorem abort_mem (s : State) (file n : Nat) : (s.abort file n).mem = s.mem ∧ (s.abort file n).poison = s.poison := by
  unfold State.abort; (repeat' split) <;> simp_all

@[simp] theorem clear_ram (s : State) (a n : Nat) (hw : RamWf s.mem s.poison) : RamWf (s.clear a n).mem (s.clear a n).poison :=
  ⟨sorted_filter _ _ _ _ hw.1, sorted_filter _ _ _ _ hw.2⟩

@[simp] theorem allocate_ram (s : State) (asc site chan index n : Nat) (hw : RamWf s.mem s.poison) :
    RamWf (s.allocate asc site chan index n).mem (s.allocate asc site chan index n).poison := by
  simp [State.allocate, hw]

@[simp] theorem revoke_mem (s : State) (p : Handle → Bool) : (s.revoke p).mem = s.mem ∧ (s.revoke p).poison = s.poison := by
  simp [State.revoke]

@[simp] theorem dropTlb_mem (s : State) (p : Nat → TlbEntry → Bool) : (s.dropTlb p).mem = s.mem ∧ (s.dropTlb p).poison = s.poison := by
  simp [State.dropTlb]

@[simp] theorem relinquish_mem (s : State) (nm size : Nat) :
    (s.relinquish nm size).mem = s.mem ∧ (s.relinquish nm size).poison = s.poison := by
  simp [State.relinquish]

@[simp] theorem dropName_mem (s : State) (asc nm : Nat) : (s.dropName asc nm).mem = s.mem ∧ (s.dropName asc nm).poison = s.poison := by
  unfold State.dropName; (repeat' split) <;> simp_all

@[simp] theorem setTslot_mem (s : State) (c p : Nat) (v : TSlot) :
    (s.setTslot c p v).mem = s.mem ∧ (s.setTslot c p v).poison = s.poison := by
  simp [State.setTslot]

@[simp] theorem setShares_mem (s : State) (c p : Nat) (x : TSlot) (l : List (Nat × Nat)) :
    (s.setShares c p x l).mem = s.mem ∧ (s.setShares c p x l).poison = s.poison := by
  simp [State.setShares]

@[simp] theorem consume_mem (s : State) (t : Nat) (k : Task) (n : Nat) (x : TSlot) :
    (s.consume t k n x).mem = s.mem ∧ (s.consume t k n x).poison = s.poison := by
  simp [State.consume]

@[simp] theorem copyTile_mem (s : State) (t : Nat) (x : Option TSlot) (a : Access) :
    (s.copyTile t x a).mem = s.mem ∧ (s.copyTile t x a).poison = s.poison := by
  unfold State.copyTile; dsimp only; split <;> simp

@[simp] theorem copyTiles_mem (s : State) (ot n : Nat) (l : List (Nat × Access)) :
    (s.copyTiles ot n l).mem = s.mem ∧ (s.copyTiles ot n l).poison = s.poison := by
  have h := fun x l s => each_mem (fun (r : Nat × Access) s => State.copyTile s r.1 x r.2) (fun a s => copyTile_mem _ _ _ _) l s
  unfold State.copyTiles; dsimp only; (repeat' split) <;> simp [h]

@[simp] theorem flushTile_mem (s : State) (t n : Nat) : (s.flushTile t n).mem = s.mem ∧ (s.flushTile t n).poison = s.poison :=
  copyTiles_mem _ _ _ _

@[simp] theorem readTileNow_mem (s : State) (t n : Nat) :
    (s.readTileNow t n).mem = s.mem ∧ (s.readTileNow t n).poison = s.poison := by
  unfold State.readTileNow; split
  · dsimp only; exact ite_mem _ _ _ _ (flushTile_mem _ _ _) (copyTiles_mem _ _ _ _)
  · exact ⟨rfl, rfl⟩

theorem each_settle (t : Nat) (l : List Nat) (p : Nat × State) :
    (each (fun i (p : Nat × State) => (p.1 + ((p.2.site i).settle t).1, p.2.setSite i ((p.2.site i).settle t).2)) l p).2.mem = p.2.mem ∧
    (each (fun i (p : Nat × State) => (p.1 + ((p.2.site i).settle t).1, p.2.setSite i ((p.2.site i).settle t).2)) l p).2.poison = p.2.poison := by
  induction l generalizing p with
  | nil => exact ⟨rfl, rfl⟩
  | cons a r ih => simp [each, ih]
@[simp] theorem settle_mem (s : State) (t : Nat) : (s.settle t).2.mem = s.mem ∧ (s.settle t).2.poison = s.poison := by
  have h := each_mem (fun (x : Nat × Nat) s => State.flushTile s x.1 x.2) (fun a s => flushTile_mem _ _ _) (s.sharedBy t) s
  unfold State.settle; dsimp only; simp [each_settle, h]

@[simp] theorem resumeRunning_mem (s : State) (x : CtxSlot) : (s.resumeRunning x).mem = s.mem ∧ (s.resumeRunning x).poison = s.poison := by
  unfold State.resumeRunning; (repeat' split) <;> simp_all

@[simp] theorem leaveCore_mem (s : State) (t : Nat) (k : Task) : (s.leaveCore t k).mem = s.mem ∧ (s.leaveCore t k).poison = s.poison := by
  simp [State.leaveCore]

@[simp] theorem performLate_ram (s : State) (id : Nat) (l : List (Nat × Byte)) (hw : RamWf s.mem s.poison) :
    RamWf (s.performLate id l).mem (s.performLate id l).poison := by
  unfold State.performLate; exact perform_ram _ _ hw

@[simp] theorem performWaiting_ram (s : State) (n : Nat) (hw : RamWf s.mem s.poison) :
    RamWf (s.performWaiting n).mem (s.performWaiting n).poison := by
  unfold State.performWaiting; dsimp only; (repeat' split)
  · exact hw
  · exact hw
  · exact perform_ram _ _ hw

@[simp] theorem killStreams_ram (s : State) (t : Nat) (hw : RamWf s.mem s.poison) :
    RamWf (s.killStreams t).mem (s.killStreams t).poison := by
  unfold State.killStreams
  split
  · exact hw
  · exact each_ram _ (fun _ _ h => performLate_ram _ _ _ h) _ s hw

@[simp] theorem killShares_mem (s : State) (t : Nat) : (s.killShares t).mem = s.mem ∧ (s.killShares t).poison = s.poison := by
  unfold State.killShares
  split <;> simp

@[simp] theorem killTask_mem (s : State) (t : Nat) : (s.killTask t).mem = s.mem ∧ (s.killTask t).poison = s.poison := by
  unfold State.killTask
  split
  · exact ⟨rfl, rfl⟩
  · have h2 := fun asc l s => each_mem (fun nm s => State.dropName s asc nm) (fun a s => dropName_mem _ _ _) l s
    dsimp only
    split <;> simp [h2]

@[simp] theorem killTasks_ram (s : State) (l : List Nat) (hw : RamWf s.mem s.poison) : RamWf (s.killTasks l).mem (s.killTasks l).poison := by
  unfold State.killTasks
  simp only [each_mem, killTask_mem, killShares_mem, and_self, implies_true]
  exact each_ram _ (fun a s h => killStreams_ram _ _ h) _ _ hw

@[simp] theorem killGang_ram (s : State) (t : Nat) (hw : RamWf s.mem s.poison) : RamWf (s.killGang t).mem (s.killGang t).poison := by
  unfold State.killGang
  refine killTasks_ram _ _ ?_
  refine each_ram _ (fun a s h => ?_) _ _ hw
  split <;> simp [h]

@[simp] theorem killAll_ram (s : State) (src : Nat) (ts : List Nat) (hw : RamWf s.mem s.poison) :
    RamWf (s.killAll src ts).mem (s.killAll src ts).poison := by
  unfold State.killAll
  refine killTasks_ram _ _ ?_
  refine each_ram _ (fun a s h => ?_) _ _ hw
  dsimp only
  (repeat' split) <;> simp [h]

@[simp] theorem reap_ram (s : State) (hw : RamWf s.mem s.poison) : RamWf s.reap.mem s.reap.poison := by
  unfold State.reap
  refine each_ram _ (fun a s h => ?_) _ _ hw
  split <;> simp [h]

@[simp] theorem writeReply_ram (s : State) (o : Owed) (status : Nat) (hw : RamWf s.mem s.poison) :
    RamWf (s.writeReply o status).mem (s.writeReply o status).poison := by
  simp [State.writeReply, hw]

@[simp] theorem respond_ram (s : State) (o : Owed) (status : Nat) (hw : RamWf s.mem s.poison) :
    RamWf (s.respond o status).mem (s.respond o status).poison := by
  unfold State.respond; split <;> simp [hw]

@[simp] theorem reply_ram (s : State) (fn : Nat) (hw : RamWf s.mem s.poison) : RamWf (s.reply fn).mem (s.reply fn).poison := by
  unfold State.reply; (repeat' split)
  · exact hw
  · exact hw
  · exact writeReply_ram _ _ _ hw

@[simp] theorem closeSlot_ram (s : State) (n : Nat) (status : Nat) (hw : RamWf s.mem s.poison) :
    RamWf (s.closeSlot n status).mem (s.closeSlot n status).poison := by
  unfold State.closeSlot; simp_all [each_ram]

@[simp] theorem unloads_ram (s : State) (hw : RamWf s.mem s.poison) : RamWf s.unloads.mem s.unloads.poison := by
  unfold State.unloads; simp_all [each_ram]

@[simp] theorem fatal_ram (s : State) (t : Nat) (f : FaultRec) (hw : RamWf s.mem s.poison) :
    RamWf (s.fatal t f).mem (s.fatal t f).poison := by
  unfold State.fatal; dsimp only; (repeat' split) <;> simp [hw]

@[simp] theorem enterTrap_mem (s : State) (t : Nat) (f : FaultRec) (resume : Nat) :
    (s.enterTrap t f resume).mem = s.mem ∧ (s.enterTrap t f resume).poison = s.poison := by
  simp [State.enterTrap]

@[simp] theorem take_ram (s : State) (t : Nat) (f : FaultRec) (resume : Nat) (hw : RamWf s.mem s.poison) :
    RamWf (s.take t f resume).mem (s.take t f resume).poison := by
  unfold State.take; dsimp only; (repeat' split) <;> simp [hw]

@[simp] theorem slip_ram (s : State) (cause : Byte) (addr : Nat) (data : W64) (hw : RamWf s.mem s.poison) :
    RamWf (s.slip cause addr data).mem (s.slip cause addr data).poison := take_ram _ _ _ _ hw

@[simp] theorem jump_ram (s : State) (target : Nat) (hw : RamWf s.mem s.poison) : RamWf (s.jump target).mem (s.jump target).poison := by
  unfold State.jump; dsimp only; split
  · exact slip_ram _ _ _ _ hw
  · split
    · exact hw
    · exact slip_ram _ _ _ _ hw

@[simp] theorem now_mem (s : State) (k : Task) : (s.now k).mem = s.mem ∧ (s.now k).poison = s.poison := by
  simp [State.now]

@[simp] theorem claim_mem (s : State) (t : Nat) (k : Task) (u : Nat) :
    (s.claim t k u).2.mem = s.mem ∧ (s.claim t k u).2.poison = s.poison := by
  unfold State.claim; simp only []; (repeat' split) <;> simp_all

@[simp] theorem claims_mem (s : State) (t : Nat) (k : Task) (l : List Nat) :
    (s.claims t k l).2.mem = s.mem ∧ (s.claims t k l).2.poison = s.poison := by
  induction l generalizing s with
  | nil => exact ⟨rfl, rfl⟩
  | cons a r ih => simp [State.claims, ih]

@[simp] theorem awaits_mem (s : State) (t : Nat) (hs : Bool) (q code : Nat) :
    (s.awaits t hs q code).mem = s.mem ∧ (s.awaits t hs q code).poison = s.poison := by
  simp [State.awaits]

@[simp] theorem raise_mem (s : State) (t : Nat) (hs : Bool) (q : Nat) (e : Entry) (cause : Byte) (data : W64) (await : Nat) :
    (s.raise t hs q e cause data await).mem = s.mem ∧ (s.raise t hs q e cause data await).poison = s.poison := by
  simp [State.raise]

@[simp] theorem raisePopped_mem (s : State) (t : Nat) (hs : Bool) (q : Nat) (e : Entry) (npop : Nat) (vals : List CtqEntry) (cause : Byte) (data : W64) :
    (s.raisePopped t hs q e npop vals cause data).mem = s.mem ∧ (s.raisePopped t hs q e npop vals cause data).poison = s.poison := by
  simp [State.raisePopped]

@[simp] theorem issueHead_mem (s : State) (t : Nat) (hs : Bool) (q : Nat) (e : Entry) (npop : Nat) (tok : BitVec 4) (hold : Bool) (x : Eff) :
    (s.issueHead t hs q e npop tok hold x).mem = s.mem ∧ (s.issueHead t hs q e npop tok hold x).poison = s.poison := by
  simp [State.issueHead]

@[simp] theorem skipMma_mem (s : State) (t : Nat) (k : Task) (hs : Bool) (e : Entry) (tok : BitVec 4) :
    (skipMma s t k hs e tok).mem = s.mem ∧ (skipMma s t k hs e tok).poison = s.poison := by
  unfold skipMma; (repeat' split) <;> simp_all

@[simp] theorem passSlot_mem (s : State) (t : Nat) (k : Task) (n : Nat) (restore : Bool) :
    (s.passSlot t k n restore).mem = s.mem ∧ (s.passSlot t k n restore).poison = s.poison := by
  unfold State.passSlot; simp only []; (repeat' split) <;> simp_all

@[simp] theorem consumeSlot_mem (s : State) (t : Nat) (k : Task) (n : Nat) (c : Bool) :
    (s.consumeSlot t k n c).mem = s.mem ∧ (s.consumeSlot t k n c).poison = s.poison := by
  unfold State.consumeSlot; dsimp only; (repeat' split) <;> simp

@[simp] theorem arriveAll_mem (s : State) (l : List Nat) : (s.arriveAll l).mem = s.mem ∧ (s.arriveAll l).poison = s.poison := by
  unfold State.arriveAll; simp [each_mem]

@[simp] theorem preload_mem (s : State) (k : Task) (target : Nat) :
    (s.preload k target).mem = s.mem ∧ (s.preload k target).poison = s.poison := by
  unfold State.preload; dsimp only; (repeat' split) <;> simp

@[simp] theorem pushCtq_ram (s : State) (k : Task) (sec n : Nat) (e : CtqEntry) (hw : RamWf s.mem s.poison) :
    RamWf (pushCtq s k sec n e).mem (pushCtq s k sec n e).poison := by
  unfold pushCtq; simp only []; (repeat' split) <;> simp_all

@[simp] theorem fillTlb_mem (s : State) (c asc va : Nat) (l : Leaf) :
    (s.fillTlb c asc va l).mem = s.mem ∧ (s.fillTlb c asc va l).poison = s.poison := by
  simp [State.fillTlb]

@[simp] theorem pinLeaf_mem (s : State) (l : Leaf) : (s.pinLeaf l).mem = s.mem ∧ (s.pinLeaf l).poison = s.poison := by
  unfold State.pinLeaf; (repeat' split) <;> simp_all

@[simp] theorem xltEntry_ram (s : State) (k : Task) (hd : BitVec 5) (b : Reg) (va : Nat) (e : TlbEntry) (hw : RamWf s.mem s.poison) :
    RamWf (xltEntry s k hd b va e).mem (xltEntry s k hd b va e).poison := by
  unfold xltEntry; (repeat' split) <;> simp_all

@[simp] theorem beginHandOver_mem (s : State) (i : Nat) (h : HandOver) :
    (s.beginHandOver i h).mem = s.mem ∧ (s.beginHandOver i h).poison = s.poison := by
  simp [State.beginHandOver]

@[simp] theorem prune_mem (s : State) : s.prune.mem = s.mem ∧ s.prune.poison = s.poison := by
  simp [State.prune]

@[simp] theorem fetchFail_ram (s : State) (k : Task) (f : Fetched) (hw : RamWf s.mem s.poison) :
    RamWf (fetchFail s k f).mem (fetchFail s k f).poison := by
  unfold fetchFail; (repeat' split) <;> simp_all

@[simp] theorem saveUnit_mem (s : State) (c u claimant : Nat) (x : PUnit) :
    (saveUnit s c u claimant x).mem = s.mem ∧ (saveUnit s c u claimant x).poison = s.poison := by
  unfold saveUnit; (repeat' split) <;> simp_all

@[simp] theorem saveSlot_mem (s : State) (c p claimant : Nat) :
    (saveSlot s c p claimant).mem = s.mem ∧ (saveSlot s c p claimant).poison = s.poison := by
  unfold saveSlot; simp only []; (repeat' split) <;> simp_all

@[simp] theorem restoreSlot_mem (s : State) (c p claimant : Nat) :
    (restoreSlot s c p claimant).mem = s.mem ∧ (restoreSlot s c p claimant).poison = s.poison := by
  unfold restoreSlot; simp only []; (repeat' split) <;> simp_all

@[simp] theorem cego_ram (s : State) (k : Task) (d : Reg) (e : Nat) (l : List W64) (hw : RamWf s.mem s.poison) :
    RamWf (cego s k d e l).mem (cego s k d e l).poison := by
  unfold cego; simp only []; (repeat' split) <;> simp_all

@[simp] theorem takeRouted_ram (s : State) (t q : Nat) (f : FaultRec) (resume : Nat) (hw : RamWf s.mem s.poison) :
    RamWf (s.takeRouted t q f resume).mem (s.takeRouted t q f resume).poison := by
  simp [State.takeRouted, hw]

@[simp] theorem placeNew_mem (s : State) (c ctx n v : Nat) :
    (s.placeNew c ctx n v).mem = s.mem ∧ (s.placeNew c ctx n v).poison = s.poison := by
  unfold State.placeNew; simp only []; (repeat' split) <;> simp_all

@[simp] theorem setPool_mem (s : State) (d : Nat) (v : Pool) : (s.setPool d v).mem = s.mem ∧ (s.setPool d v).poison = s.poison := by
  unfold State.setPool; (repeat' split) <;> simp_all

@[simp] theorem addPacket_mem (s : State) (p : Packet) : (s.addPacket p).mem = s.mem ∧ (s.addPacket p).poison = s.poison := by
  simp [State.addPacket]

@[simp] theorem placePool_mem (s : State) (t : Nat) (k : Task) (rsv : Bool) :
    (s.placePool t k rsv).mem = s.mem ∧ (s.placePool t k rsv).poison = s.poison := by
  simp [State.placePool]

@[simp] theorem placeSpill_ram (s : State) (t : Nat) (k : Task) (hw : RamWf s.mem s.poison) :
    RamWf (s.placeSpill t k).mem (s.placeSpill t k).poison := by
  simp [State.placeSpill, hw]

theorem select_mem (s t : State) (kind d n : Nat) (l : List (Nat × Packet)) (h : s.select kind d l = some (n, t)) :
    t.mem = s.mem ∧ t.poison = s.poison := by
  unfold State.select at h
  split at h
  · cases h
  · dsimp only at h
    split at h
    · cases h
    · cases h; exact ⟨rfl, rfl⟩

@[simp] theorem trim_mem (s : State) : s.trim.mem = s.mem ∧ s.trim.poison = s.poison := by
  simp [State.trim]

@[simp] theorem open_mem (s : State) (id : Nat) : (s.open id).mem = s.mem ∧ (s.open id).poison = s.poison := by
  unfold State.open; simp only []; (repeat' split) <;> simp_all

@[simp] theorem endWalk_mem (s : State) (id : Nat) : (s.endWalk id).mem = s.mem ∧ (s.endWalk id).poison = s.poison := by
  unfold State.endWalk; simp only []; (repeat' split) <;> simp_all [each_mem]

@[simp] theorem failWalk_mem (s : State) (id : Nat) (cause : Byte) :
    (s.failWalk id cause).mem = s.mem ∧ (s.failWalk id cause).poison = s.poison := by
  unfold State.failWalk; simp only []; (repeat' split) <;> simp_all

@[simp] theorem tableEnd_mem (s : State) (id : Nat) : (s.tableEnd id).mem = s.mem ∧ (s.tableEnd id).poison = s.poison := by
  unfold State.tableEnd; simp only []; (repeat' split) <;> simp_all [each_mem]

@[simp] theorem haveArray_mem (s : State) (id : Nat) (l : List Byte) :
    (s.haveArray id l).mem = s.mem ∧ (s.haveArray id l).poison = s.poison := by
  unfold State.haveArray; simp only []; (repeat' split) <;> simp_all

@[simp] theorem haveRecord_mem (s : State) (id : Nat) (l : List Byte) :
    (s.haveRecord id l).mem = s.mem ∧ (s.haveRecord id l).poison = s.poison := by
  unfold State.haveRecord; simp only []; (repeat' split) <;> simp_all

@[simp] theorem readAhead_mem (s : State) (q : Nat) (sel : Nat → Bool) (f : Packet → Bool) :
    (s.readAhead q sel f).mem = s.mem ∧ (s.readAhead q sel f).poison = s.poison := by
  unfold State.readAhead; dsimp only
  have h := fun l s => each_mem (fun i s => if f (State.ringPacket s q i) then
    ((State.addPacket s (State.ringPacket s q i)).setQueue q { s.queue q with skips := (s.queue q).skips ++ [i] }) else s)
    (fun a s => by split <;> simp) l s
  simp [h]

@[simp] theorem endAll_mem (s : State) (l : List (Nat × Packet)) (status : Nat) (quiet : Bool) :
    (s.endAll l status quiet).mem = s.mem ∧ (s.endAll l status quiet).poison = s.poison := by
  unfold State.endAll; simp [each_mem]

@[simp] theorem withdraw_mem (s : State) (q tag : Nat) : (s.withdraw q tag).mem = s.mem ∧ (s.withdraw q tag).poison = s.poison := by
  unfold State.withdraw; dsimp only; (repeat' split) <;> simp

@[simp] theorem nextWithdraw_mem (s : State) (q n : Nat) : (s.nextWithdraw q n).mem = s.mem ∧ (s.nextWithdraw q n).poison = s.poison := by
  induction n generalizing s with
  | zero => exact ⟨rfl, rfl⟩
  | succ n ih => unfold State.nextWithdraw; dsimp only; (repeat' split) <;> simp [ih]

@[simp] theorem scanEnd_mem (s : State) (q : Nat) : (s.scanEnd q).mem = s.mem ∧ (s.scanEnd q).poison = s.poison := by
  unfold State.scanEnd; dsimp only; split <;> simp

@[simp] theorem scanStep_mem (s : State) (q id : Nat) : (s.scanStep q id).mem = s.mem ∧ (s.scanStep q id).poison = s.poison := by
  unfold State.scanStep; dsimp only; (repeat' split) <;> simp

@[simp] theorem forget_mem (s : State) (q : Nat) : (s.forget q).mem = s.mem ∧ (s.forget q).poison = s.poison := ⟨rfl, rfl⟩

@[simp] theorem queueResets_mem (s : State) : s.queueResets.mem = s.mem ∧ s.queueResets.poison = s.poison := by
  unfold State.queueResets; simp [each_mem]

@[simp] theorem flrEnd_mem (s : State) (f : Nat) : (s.flrEnd f).mem = s.mem ∧ (s.flrEnd f).poison = s.poison := by
  simp [State.flrEnd, each_mem]

@[simp] theorem flrs_mem (s : State) : s.flrs.mem = s.mem ∧ s.flrs.poison = s.poison := by
  unfold State.flrs; simp [each_mem]

@[simp] theorem setReservations_mem (s : State) (d : Nat) (l : List (Nat × Nat)) :
    (s.setReservations d l).mem = s.mem ∧ (s.setReservations d l).poison = s.poison := by
  unfold State.setReservations; split <;> simp

@[simp] theorem reserve_mem (s : State) (d id : Nat) : (s.reserve d id).mem = s.mem ∧ (s.reserve d id).poison = s.poison := by
  unfold State.reserve; split <;> simp

@[simp] theorem addTask_mem (s : State) (id c ctx ticket member base size rec : Nat) :
    (s.addTask id c ctx ticket member base size rec).mem = s.mem ∧ (s.addTask id c ctx ticket member base size rec).poison = s.poison := by
  simp [State.addTask]

@[simp] theorem sit_mem (s : State) (c ctx : Nat) : (s.sit c ctx).mem = s.mem ∧ (s.sit c ctx).poison = s.poison := by
  simp [State.sit]

@[simp] theorem rereserve_mem (s : State) (d cl : Nat) :
    (s.rereserve d cl).mem = s.mem ∧ (s.rereserve d cl).poison = s.poison := by
  unfold State.rereserve; simp [each_mem]

@[simp] theorem takeOne_mem (s : State) (id c : Nat) : (s.takeOne id c).mem = s.mem ∧ (s.takeOne id c).poison = s.poison := by
  unfold State.takeOne; simp only []; (repeat' split) <;> simp_all

@[simp] theorem takeGang_mem (s : State) (id d l : Nat) : (s.takeGang id d l).mem = s.mem ∧ (s.takeGang id d l).poison = s.poison := by
  unfold State.takeGang; extract_lets p
  split
  · exact ⟨rfl, rfl⟩
  · extract_lets one s1 s2
    have h1 : s1.mem = s.mem ∧ s1.poison = s.poison := by
      have := each_mem one (by intro a s; simp only [one]; split <;> simp) [0, 1, 2, 3] (s.setPacket id ‹_›)
      simpa [s1] using this
    simp [s2, h1]

theorem preempts_mem (s t : State) (d n v : Nat) (h : s.preempts d = some (n, t, v)) : t.mem = s.mem ∧ t.poison = s.poison := by
  unfold State.preempts at h
  split at h
  · cases h
  · rename_i id s1 h1
    dsimp only at h
    split at h
    · cases h
    · simp only [Option.map_eq_some_iff, Prod.mk.injEq] at h
      obtain ⟨_, _, _, rfl, _⟩ := h
      exact select_mem _ _ _ _ _ _ h1

@[simp] theorem preempt_mem (s : State) (id v : Nat) : (s.preempt id v).mem = s.mem ∧ (s.preempt id v).poison = s.poison := by
  unfold State.preempt; simp only []; (repeat' split) <;> simp_all

@[simp] theorem claimRecord_mem (s : State) (id c : Nat) :
    (s.claimRecord id c).mem = s.mem ∧ (s.claimRecord id c).poison = s.poison := by
  simp [State.claimRecord]

@[simp] theorem give_mem (r : NextRequest) : (State.give r).mem = r.state.mem ∧ (State.give r).poison = r.state.poison := by
  unfold State.give; dsimp only; (repeat' split) <;> simp

theorem nextServed_mem (s : State) (d : Nat) (r : NextRequest) (h : s.nextServed d = some r) :
    r.state.mem = s.mem ∧ r.state.poison = s.poison := by
  unfold State.nextServed at h
  split at h
  · rename_i h1
    split at h
    · cases h
    · cases h; exact preempts_mem _ _ _ _ _ h1
  · simp only [Option.bind_eq_some_iff, Option.map_eq_some_iff] at h
    obtain ⟨c, -, e, h1, rfl⟩ := h
    exact select_mem _ _ _ _ _ _ h1

@[simp] theorem handTo_mem (s : State) (id c : Nat) : (s.handTo id c).mem = s.mem ∧ (s.handTo id c).poison = s.poison := by
  unfold State.handTo; dsimp only; (repeat' split) <;> simp

@[simp] theorem serve_mem (s : State) (c : Nat) (f : Nat → Packet → Bool) :
    (s.serve c f).mem = s.mem ∧ (s.serve c f).poison = s.poison := by
  unfold State.serve
  dsimp only
  split
  · exact ⟨rfl, rfl⟩
  · split
    · split <;> simp
    · split
      · exact ⟨rfl, rfl⟩
      · rename_i h
        have := nextServed_mem _ _ _ h
        (repeat' split) <;> simp [this]

@[simp] theorem startTask_mem (s : State) (t : Nat) : (s.startTask t).mem = s.mem ∧ (s.startTask t).poison = s.poison := by
  simp [State.startTask]

@[simp] theorem strictEnd_mem (s : State) (k : Task) : (s.strictEnd k).mem = s.mem ∧ (s.strictEnd k).poison = s.poison := by
  simp [State.strictEnd]

@[simp] theorem leave_ram (s : State) (t : Nat) (fatal : Bool) (hw : RamWf s.mem s.poison) :
    RamWf (s.leave t fatal).mem (s.leave t fatal).poison := by
  unfold State.leave; simp only []; (repeat' split) <;> simp_all [each_ram]

@[simp] theorem setVector_mem (s : State) (fn vec : Nat) (v : Vector) :
    (s.setVector fn vec v).mem = s.mem ∧ (s.setVector fn vec v).poison = s.poison := by
  simp [State.setVector]

@[simp] theorem interrupt_mem (s : State) (fn vec : Nat) : (s.interrupt fn vec).mem = s.mem ∧ (s.interrupt fn vec).poison = s.poison := by
  unfold State.interrupt; simp only []; (repeat' split) <;> simp_all

@[simp] theorem close_mem (s : State) (id : Nat) : (s.close id).mem = s.mem ∧ (s.close id).poison = s.poison := by
  unfold State.close; simp only []; (repeat' split) <;> simp_all

@[simp] theorem postSignals_mem (s : State) (id : Nat) : (s.postSignals id).mem = s.mem ∧ (s.postSignals id).poison = s.poison := by
  simp [State.postSignals]

@[simp] theorem issueRecord_mem (s : State) (id : Nat) : (s.issueRecord id).mem = s.mem ∧ (s.issueRecord id).poison = s.poison := by
  unfold State.issueRecord; simp only []; (repeat' split) <;> simp_all

@[simp] theorem pushResults_mem (s : State) (t e n : Nat) :
    (s.pushResults t e n).mem = s.mem ∧ (s.pushResults t e n).poison = s.poison := by
  induction n generalizing s with
  | zero => exact ⟨rfl, rfl⟩
  | succ n ih => unfold State.pushResults; dsimp only; (repeat' split) <;> simp [ih]

@[simp] theorem freeRte_mem (s : State) (id : Nat) : (s.freeRte id).mem = s.mem ∧ (s.freeRte id).poison = s.poison := by
  simp [State.freeRte]

theorem ram_ite (p : Prop) [Decidable p] (a b : State) (ha : RamWf a.mem a.poison) (hb : RamWf b.mem b.poison) :
    RamWf (if p then a else b).mem (if p then a else b).poison := by split <;> assumption
@[simp] theorem endCmd_ram (s : State) (id result cause : Nat) (hw : RamWf s.mem s.poison) :
    RamWf (s.endCmd id result cause).mem (s.endCmd id result cause).poison := by
  unfold State.endCmd
  dsimp only
  simp only [flrs_mem, pushResults_mem]
  apply ram_ite
  all_goals
    show RamWf (State.mem (each _ _ _)) (State.poison (each _ _ _))
    apply each_ram
    · intro a s h; (repeat' split) <;> simp [h]
    · apply ram_ite
      · simp only [each_mem, signal_mem, and_self, implies_true]
        apply ram_ite <;> simp [hw]
      · apply ram_ite <;> simp [hw]

@[simp] theorem stopCmds_ram (s : State) (f : Cmd → Bool) (hw : RamWf s.mem s.poison) :
    RamWf (s.stopCmds f).mem (s.stopCmds f).poison := by
  unfold State.stopCmds
  refine each_ram _ (fun e s h => ?_) _ _ hw
  have h1 := each_ram (fun (p : Post) s => (s.performLate e.2.packet p.cells).arrive ((p.cells.map Prod.fst).headD 0))
    (fun a s h => by simp [h]) e.2.flight s h
  simp only [List.headD_eq_head?_getD, List.head?_map] at h1
  dsimp only
  split <;> simp [each_mem, h1]

@[simp] theorem stopAt_ram (s : State) (id : Nat) (c : Cmd) (r : Reach) (hw : RamWf s.mem s.poison) :
    RamWf (s.stopAt id c r).mem (s.stopAt id c r).poison := by
  unfold State.stopAt; (repeat' split) <;> simp_all

@[simp] theorem rowSignals_mem (s : State) (c : Cmd) : (s.rowSignals c).mem = s.mem ∧ (s.rowSignals c).poison = s.poison := by
  simp [State.rowSignals]

@[simp] theorem elementDone_mem (s : State) (id : Nat) (c : Cmd) (pas : List Nat) (v : Nat) :
    (s.elementDone id c pas v).mem = s.mem ∧ (s.elementDone id c pas v).poison = s.poison := by
  simp [State.elementDone]

@[simp] theorem performPost_ram (s : State) (id n which : Nat) (hw : RamWf s.mem s.poison) :
    RamWf (s.performPost id n which).mem (s.performPost id n which).poison := by
  unfold State.performPost; dsimp only; (repeat' split) <;> simp [hw]

@[simp] theorem stepDone_ram (s : State) (id : Nat) (c : Cmd) (pas : List Nat) (v : Nat) (hw : RamWf s.mem s.poison) :
    RamWf (s.stepDone id c pas v).mem (s.stepDone id c pas v).poison := by
  unfold State.stepDone; dsimp only; split <;> simp [hw]

@[simp] theorem moveElement_ram (s : State) (id : Nat) (c : Cmd) (hw : RamWf s.mem s.poison) :
    RamWf (s.moveElement id c).mem (s.moveElement id c).poison := by
  unfold State.moveElement; (repeat' split) <;> simp [hw]

@[simp] theorem fillElement_ram (s : State) (id : Nat) (c : Cmd) (hw : RamWf s.mem s.poison) :
    RamWf (s.fillElement id c).mem (s.fillElement id c).poison := by
  unfold State.fillElement; (repeat' split) <;> simp_all

@[simp] theorem rotateElement_ram (s : State) (id : Nat) (c : Cmd) (hw : RamWf s.mem s.poison) :
    RamWf (s.rotateElement id c).mem (s.rotateElement id c).poison := by
  unfold State.rotateElement; simp only []; (repeat' split) <;> simp_all

@[simp] theorem send_mem (s : State) (fab : Nat) (f : Flit) : (s.send fab f).mem = s.mem ∧ (s.send fab f).poison = s.poison := by
  simp [State.send]

@[simp] theorem remoteElement_ram (s : State) (id : Nat) (c : Cmd) (hw : RamWf s.mem s.poison) :
    RamWf (s.remoteElement id c).mem (s.remoteElement id c).poison := by
  unfold State.remoteElement; (repeat' split) <;> simp_all

@[simp] theorem sendRsig_mem (s : State) (id : Nat) (c : Cmd) : (s.sendRsig id c).mem = s.mem ∧ (s.sendRsig id c).poison = s.poison := by
  unfold State.sendRsig; (repeat' split) <;> simp_all

@[simp] theorem outElement_ram (s : State) (id : Nat) (c : Cmd) (hw : RamWf s.mem s.poison) :
    RamWf (s.outElement id c).mem (s.outElement id c).poison := by
  unfold State.outElement; simp only []; (repeat' split) <;> simp_all

@[simp] theorem scanPlace_ram (s : State) (id : Nat) (c : Cmd) (hw : RamWf s.mem s.poison) :
    RamWf (s.scanPlace id c).mem (s.scanPlace id c).poison := by
  unfold State.scanPlace; dsimp only; split <;> simp [hw]

@[simp] theorem scanRead_ram (s : State) (id : Nat) (c : Cmd) (hw : RamWf s.mem s.poison) :
    RamWf (s.scanRead id c).mem (s.scanRead id c).poison := by
  unfold State.scanRead; dsimp only; (repeat' split) <;> simp [hw]

@[simp] theorem scanElement_ram (s : State) (id : Nat) (c : Cmd) (hw : RamWf s.mem s.poison) :
    RamWf (s.scanElement id c).mem (s.scanElement id c).poison := by
  unfold State.scanElement; dsimp only; (repeat' split) <;> simp [hw]

@[simp] theorem logitElement_ram (s : State) (id : Nat) (c : Cmd) (hw : RamWf s.mem s.poison) :
    RamWf (s.logitElement id c).mem (s.logitElement id c).poison := by
  unfold State.logitElement; dsimp only; (repeat' split) <;> simp [hw]

@[simp] theorem walked_mem (s : State) (asc va : Nat) : (s.walked asc va).mem = s.mem ∧ (s.walked asc va).poison = s.poison := by
  unfold State.walked; (repeat' split) <;> simp

theorem element_ram (s : State) (id : Nat) (hw : RamWf s.mem s.poison) : RamWf (s.element id).mem (s.element id).poison := by
  unfold State.element; simp only []; (repeat' split) <;> simp_all

@[simp] theorem walkedAll_mem (s : State) (asc : Nat) (l : List (Nat × Nat × Nat × Bool × Bool)) :
    (s.walkedAll asc l).mem = s.mem ∧ (s.walkedAll asc l).poison = s.poison := by
  exact each_mem _ (fun p s => walked_mem s asc p.1) l s

@[simp] theorem stepCmd_ram (s : State) (id : Nat) (hw : RamWf s.mem s.poison) : RamWf (s.stepCmd id).mem (s.stepCmd id).poison := by
  unfold State.stepCmd; dsimp only; (repeat' split) <;> simp [element_ram s id hw]

@[simp] theorem runCmd_ram (s : State) (id n : Nat) (hw : RamWf s.mem s.poison) : RamWf (s.runCmd id n).mem (s.runCmd id n).poison := by
  induction n generalizing s with
  | zero => exact hw
  | succ n ih => unfold State.runCmd; dsimp only; split <;> simp [ih, hw]

@[simp] theorem setJob_mem (s : State) (die : Nat) (j : Option Nat) :
    (s.setJob die j).mem = s.mem ∧ (s.setJob die j).poison = s.poison := by
  unfold State.setJob; (repeat' split) <;> simp_all

/-- What is behind an element's arrival keeps the canonical form: it is performed, refused or waits. -/
def Landed.Ram : Landed → Prop
  | .done s | .refused _ s | .waits s => RamWf s.mem s.poison

@[simp] theorem boundWalks_mem (s : State) (asc va n : Nat) (d : Cmd) :
    (s.boundWalks asc va n d).mem = s.mem ∧ (s.boundWalks asc va n d).poison = s.poison := by
  unfold State.boundWalks; dsimp only; split <;> simp

theorem land_ram (s : State) (src c fn va n : Nat) (f : State → List Nat → Option (State × BitVec 6)) (hw : RamWf s.mem s.poison)
    (hf : ∀ l t fl, f s l = some (t, fl) → RamWf t.mem t.poison) : (s.land src c fn va n f).Ram := by
  unfold State.land; dsimp only
  split
  · exact hw
  · split
    · split
      · exact hw
      · split
        · rename_i h; simpa [Landed.Ram] using hf _ _ _ h
        · simpa [Landed.Ram] using hw
    · split <;> simpa [Landed.Ram] using hw
    · simpa [Landed.Ram] using hw
    · exact hw

@[simp] theorem setLanded_mem (s : State) (src st : Nat) (l : List Nat) :
    (s.setLanded src st l).mem = s.mem ∧ (s.setLanded src st l).poison = s.poison := ⟨rfl, rfl⟩

@[simp] theorem landPart_ram (s : State) (src which : Nat) (x : Flit) (hw : RamWf s.mem s.poison) :
    RamWf (s.landPart src which x).mem (s.landPart src which x).poison := by
  unfold State.landPart; dsimp only; (repeat' split) <;> simp [hw]

@[simp] theorem readPart_mem (s : State) (id n which : Nat) :
    (s.readPart id n which).mem = s.mem ∧ (s.readPart id n which).poison = s.poison := by
  unfold State.readPart; dsimp only; (repeat' split) <;> simp

theorem landFlit_ram (s : State) (src : Nat) (x : Flit) (hw : RamWf s.mem s.poison) : (s.landFlit src x).Ram := by
  unfold State.landFlit
  split
  · refine land_ram _ _ _ _ _ _ _ hw fun l t fl h => ?_
    cases h; simp [hw]
  · refine land_ram _ _ _ _ _ _ _ hw fun l t fl h => ?_
    dsimp only at h; split at h
    · cases h
    · cases h; exact perform_ram _ _ hw
  · exact hw

@[simp] theorem setInbox_mem (s : State) (l : List (Nat × Flit)) :
    (s.setInbox l).mem = s.mem ∧ (s.setInbox l).poison = s.poison := ⟨rfl, rfl⟩

@[simp] theorem refuse_mem (s : State) (src c : Nat) (cause : Byte) :
    (s.refuse src c cause).mem = s.mem ∧ (s.refuse src c cause).poison = s.poison := by
  unfold State.refuse; dsimp only [send_mem]
  simp only [send_mem]
  exact each_mem _ (fun a s => by split <;> simp) _ s

@[simp] theorem elementArrives_ram (s : State) (src st c : Nat) (x : Flit) (hw : RamWf s.mem s.poison) :
    RamWf (s.elementArrives src st c x).mem (s.elementArrives src st c x).poison := by
  unfold State.elementArrives; dsimp only
  have := landFlit_ram s src x hw
  (repeat' split) <;> simp_all [Landed.Ram]

@[simp] theorem retryFlit_ram (s : State) (n which : Nat) (hw : RamWf s.mem s.poison) :
    RamWf (s.retryFlit n which).mem (s.retryFlit n which).poison := by
  unfold State.retryFlit
  split
  · exact hw
  · rename_i src x _
    have := landFlit_ram s src x hw
    (repeat' split) <;> simp_all [Landed.Ram]

@[simp] theorem acked_mem (s : State) (c n : Nat) (fl : BitVec 6) :
    (s.acked c n fl).mem = s.mem ∧ (s.acked c n fl).poison = s.poison := by
  unfold State.acked; split <;> simp [each_mem]

@[simp] theorem queueReset_mem (s : State) (q : Nat) : (s.queueReset q).mem = s.mem ∧ (s.queueReset q).poison = s.poison := by
  simp [State.queueReset]

@[simp] theorem writeQcfg_mem (s : State) (fn q : Nat) (v : W64) :
    (s.writeQcfg fn q v).mem = s.mem ∧ (s.writeQcfg fn q v).poison = s.poison := by
  unfold State.writeQcfg; simp only []; (repeat' split) <;> simp_all

@[simp] theorem killPacket_ram (s : State) (src id : Nat) (quiet : Bool) (hw : RamWf s.mem s.poison) :
    RamWf (s.killPacket src id quiet).mem (s.killPacket src id quiet).poison := by
  unfold State.killPacket; simp only []; (repeat' split) <;> simp_all

@[simp] theorem purge_ram (s : State) (src : Nat) (f : Nat → Bool) (w : Bool) (hw : RamWf s.mem s.poison) :
    RamWf (s.purge src f w).mem (s.purge src f w).poison := by
  unfold State.purge
  refine each_ram _ (fun a s h => killPacket_ram _ _ _ _ h) _ _ ?_
  dsimp only
  split
  · simp [hw]
  · refine each_ram _ (fun a s h => by simp [h]) _ _ ?_
    refine each_ram _ (fun a s h => by simp [h]) _ _ (by simp [hw])

@[simp] theorem writeQueue_mem (s : State) (q off : Nat) (v : W64) :
    (s.writeQueue q off v).mem = s.mem ∧ (s.writeQueue q off v).poison = s.poison := by
  unfold State.writeQueue; (repeat' split) <;> simp_all

@[simp] theorem writePool_mem (s : State) (d off : Nat) (v : W64) :
    (s.writePool d off v).mem = s.mem ∧ (s.writePool d off v).poison = s.poison := by
  unfold State.writePool; simp only []; (repeat' split) <;> simp_all

@[simp] theorem writePf_mem (s : State) (off : Nat) (v : W64) : (s.writePf off v).mem = s.mem ∧ (s.writePf off v).poison = s.poison := by
  unfold State.writePf; extract_lets w
  repeat' first | (refine ite_mem _ _ _ _ ?_ ?_) | simp

@[simp] theorem writeMailbox_mem (s : State) (fn off : Nat) (v : W64) :
    (s.writeMailbox fn off v).mem = s.mem ∧ (s.writeMailbox fn off v).poison = s.poison := by
  unfold State.writeMailbox; simp only []; (repeat' split) <;> simp_all

@[simp] theorem setMask_mem (s : State) (fn vec : Nat) : (s.setMask fn vec).mem = s.mem ∧ (s.setMask fn vec).poison = s.poison := by
  simp [State.setMask]

@[simp] theorem health_mem (s : State) (h : Health) (kind : Nat) : (s.health h kind).mem = s.mem ∧ (s.health h kind).poison = s.poison := by
  simp [State.health]

@[simp] theorem overcast_mem (s : State) (kind : Nat) : (s.overcast kind).mem = s.mem ∧ (s.overcast kind).poison = s.poison := by
  unfold State.overcast; (repeat' split) <;> simp_all

@[simp] theorem enterStorm_ram (s : State) (kind : Nat) (hw : RamWf s.mem s.poison) :
    RamWf (s.enterStorm kind).mem (s.enterStorm kind).poison := by
  unfold State.enterStorm; dsimp only; split <;> simp [hw]

@[simp] theorem poisonAll_ram (s : State) (l : List Nat) (hw : RamWf s.mem s.poison) :
    RamWf (s.poisonAll l).mem (s.poisonAll l).poison := by
  induction l generalizing s with
  | nil => exact hw
  | cons a r ih =>
    unfold State.poisonAll; apply ih; split
    · exact ⟨hw.1, sorted_put _ _ _ _ _ hw.2 (Nat.zero_le _)⟩
    · exact hw

@[simp] theorem withdrawCore_ram (s : State) (core : Nat) (hw : RamWf s.mem s.poison) :
    RamWf (s.withdrawCore core).mem (s.withdrawCore core).poison := by
  unfold State.withdrawCore; simp [hw]

@[simp] theorem unpin_mem (s : State) (l : List Nat) : (s.unpin l).mem = s.mem ∧ (s.unpin l).poison = s.poison := by
  induction l generalizing s with
  | nil => exact ⟨rfl, rfl⟩
  | cons a r ih => unfold State.unpin; split <;> simp [ih]

@[simp] theorem fwTo_mem (s : State) (x : FwState) : (s.fwTo x).mem = s.mem ∧ (s.fwTo x).poison = s.poison := by
  simp [State.fwTo]

@[simp] theorem fwAnswer_ram (s : State) (status : Nat) (hw : RamWf s.mem s.poison) :
    RamWf (s.fwAnswer status).mem (s.fwAnswer status).poison := by
  unfold State.fwAnswer; (repeat' split) <;> simp_all

@[simp] theorem fwBack_ram (s : State) (hw : RamWf s.mem s.poison) : RamWf s.fwBack.mem s.fwBack.poison := by
  unfold State.fwBack; dsimp only; split <;> simp [hw]

@[simp] theorem fwCommit_ram (s : State) (hw : RamWf s.mem s.poison) : RamWf s.fwCommit.mem s.fwCommit.poison := by
  unfold State.fwCommit; (repeat' split) <;> simp_all

@[simp] theorem abortDie_mem (s : State) (d : Nat) : (s.abortDie d).mem = s.mem ∧ (s.abortDie d).poison = s.poison := by
  unfold State.abortDie; simp [each_mem]

@[simp] theorem abandon_mem (s : State) (d i : Nat) : (s.abandon d i).mem = s.mem ∧ (s.abandon d i).poison = s.poison := by
  unfold State.abandon; simp only []; (repeat' split) <;> simp_all

@[simp] theorem setReset_mem (s : State) (d : Nat) (b : Bool) : (s.setReset d b).mem = s.mem ∧ (s.setReset d b).poison = s.poison := by
  unfold State.setReset; (repeat' split) <;> simp_all

@[simp] theorem elapse_ram (s : State) (n : Nat) (hw : RamWf s.mem s.poison) : RamWf (s.elapse n).mem (s.elapse n).poison :=
  unloads_ram _ (reap_ram s hw)

/-! ### Reads of the LDQ, LAUNCHes that wait, the end of a task's queues -/

@[simp] theorem chunksArrived_mem (s : State) (asc va n : Nat) :
    (s.chunksArrived asc va n).mem = s.mem ∧ (s.chunksArrived asc va n).poison = s.poison := by
  unfold State.chunksArrived
  refine each_mem _ (fun i s => ?_) _ _
  dsimp only; split <;> simp

@[simp] theorem gotBytes_mem (s : State) (t pos : Nat) (l : List (Nat × Byte × Bool)) :
    (s.gotBytes t pos l).mem = s.mem ∧ (s.gotBytes t pos l).poison = s.poison := by
  unfold State.gotBytes; split
  · simp
  · extract_lets mine s1 slots
    have h1 : s1.mem = s.mem ∧ s1.poison = s.poison := by simp only [s1]; split <;> simp
    rw [← h1.1, ← h1.2]
    exact each_mem _ (fun p s => by dsimp only; split <;> simp) _ _

@[simp] theorem landEntry_mem (s : State) (t pos : Nat) : (s.landEntry t pos).mem = s.mem ∧ (s.landEntry t pos).poison = s.poison := by
  unfold State.landEntry; (repeat' split) <;> simp

@[simp] theorem afterTend_mem (s : State) (t : Nat) : (s.afterTend t).mem = s.mem ∧ (s.afterTend t).poison = s.poison := by
  unfold State.afterTend; dsimp only; (repeat' split) <;> simp [each_mem]

@[simp] theorem claimSet_mem (s : State) (t : Nat) (k : Task) :
    (s.claimSet t k).2.mem = s.mem ∧ (s.claimSet t k).2.poison = s.poison := by
  unfold State.claimSet; split <;> simp

@[simp] theorem claimTile_mem (s : State) (t : Nat) (k : Task) (n : Nat) :
    (s.claimTile t k n).2.mem = s.mem ∧ (s.claimTile t k n).2.poison = s.poison := by
  unfold State.claimTile; split <;> simp

theorem place1_ram (s t : State) (n : Nat) (k : Task) (hw : RamWf s.mem s.poison) (h : s.place1 n k = some t) : RamWf t.mem t.poison := by
  unfold State.place1 at h
  dsimp only at h
  (repeat' split at h) <;> cases h
  all_goals simp [hw]

@[simp] theorem retryLaunches_ram (s : State) (d : Nat) (hw : RamWf s.mem s.poison) :
    RamWf (s.retryLaunches d).mem (s.retryLaunches d).poison := by
  unfold State.retryLaunches
  refine each_ram _ (fun w s h => ?_) _ _ hw
  dsimp only
  split
  · simp [h]
  · split
    · simp [h]
    · split
      · exact h
      · cases hp : State.place1 _ w.1 _ with
        | none => exact h
        | some t => exact place1_ram _ _ _ _ (by simp [h]) hp

/-! ### What the host writes and firmware loads -/

@[simp] theorem notify_mem (s : State) (fn q : Nat) (v : W64) : (s.notify fn q v).mem = s.mem ∧ (s.notify fn q v).poison = s.poison := by
  unfold State.notify; dsimp only; (repeat' split) <;> simp

@[simp] theorem writeSem_mem (s : State) (fn file n : Nat) (v : W32) :
    (s.writeSem fn file n v).mem = s.mem ∧ (s.writeSem fn file n v).poison = s.poison := by
  unfold State.writeSem; split <;> simp

theorem posting_mem (s now : State) (fn : Nat) (op : HostOp) (h : now.mem = s.mem ∧ now.poison = s.poison) :
    (s.posting fn op now).mem = s.mem ∧ (s.posting fn op now).poison = s.poison := by
  unfold State.posting; dsimp only; split <;> simp [h]

@[simp] theorem hostWrite_mem (s : State) (fn a : Nat) (l : List Byte) :
    (s.hostWrite fn a l).mem = s.mem ∧ (s.hostWrite fn a l).poison = s.poison := by
  unfold State.hostWrite; dsimp only; split <;> simp

@[simp] theorem hostBytes_ram (s : State) (fn which : Nat) (l : List (Nat × Byte)) (r : List HostOp) (hw : RamWf s.mem s.poison) :
    RamWf (s.hostBytes fn which l r).mem (s.hostBytes fn which l r).poison := by
  unfold State.hostBytes; dsimp only; split <;> simp [hw]

@[simp] theorem withdrawal_mem (s : State) (fn q : Nat) (v : W64) :
    (s.withdrawal fn q v).mem = s.mem ∧ (s.withdrawal fn q v).poison = s.poison := by
  unfold State.withdrawal; dsimp only; (repeat' split) <;> simp

@[simp] theorem mailboxNotify_mem (s : State) (fn : Nat) (v : W64) :
    (s.mailboxNotify fn v).mem = s.mem ∧ (s.mailboxNotify fn v).poison = s.poison := by
  unfold State.mailboxNotify; dsimp only; (repeat' split) <;> simp

@[simp] theorem killWrite_ram (s : State) (fn q : Nat) (v : W64) (hw : RamWf s.mem s.poison) :
    RamWf (s.killWrite fn q v).mem (s.killWrite fn q v).poison := by
  unfold State.killWrite; dsimp only; (repeat' split) <;> simp [hw]

@[simp] theorem hostPerform_ram (s : State) (fn which : Nat) (hw : RamWf s.mem s.poison) :
    RamWf (s.hostPerform fn which).mem (s.hostPerform fn which).poison := by
  unfold State.hostPerform; dsimp only; (repeat' split) <;> simp [hw]

@[simp] theorem counted_mem (s : State) (pa : Nat) : (s.counted pa).mem = s.mem ∧ (s.counted pa).poison = s.poison := by
  unfold State.counted; (repeat' split) <;> simp

@[simp] theorem dropF_mem (s : State) (core : Nat) : (s.dropF core).mem = s.mem ∧ (s.dropF core).poison = s.poison := ⟨rfl, rfl⟩

@[simp] theorem dropDieF_mem (s : State) (d : Nat) : (s.dropDieF d).mem = s.mem ∧ (s.dropDieF d).poison = s.poison := ⟨rfl, rfl⟩

@[simp] theorem fwStart_mem (s : State) (o : Owed) : (s.fwStart o).mem = s.mem ∧ (s.fwStart o).poison = s.poison := by
  simp [State.fwStart]

@[simp] theorem loadF_mem (s : State) (core pc : Nat) : (s.loadF core pc).mem = s.mem ∧ (s.loadF core pc).poison = s.poison := by
  unfold State.loadF; dsimp only; split <;> simp

/-- An answer of firmware, at once or later, in a state whose memory is in the canonical form. -/
def Served.Ram : Served → Prop
  | .answer _ s | .later s => RamWf s.mem s.poison
  | .wait => True

@[simp] theorem rangeWalked_mem (s : State) (asc : Nat) (ok : Leaf → Bool) (va n : Nat) :
    (s.rangeWalked asc ok va n).mem = s.mem ∧ (s.rangeWalked asc ok va n).poison = s.poison := by
  induction n generalizing s va with
  | zero => exact ⟨rfl, rfl⟩
  | succ n ih => unfold State.rangeWalked; dsimp only; (repeat' split) <;> simp [ih]

@[simp] theorem framesWalked_mem (s : State) (asc : Nat) (wr : Bool) (va n : Nat) :
    (s.framesWalked asc wr va n).mem = s.mem ∧ (s.framesWalked asc wr va n).poison = s.poison := by
  simp [State.framesWalked]

theorem deliver_ram (s : State) (asc va : Nat) (l : List Byte) (f : State → State) (hw : RamWf s.mem s.poison)
    (hf : ∀ t, (f t).mem = t.mem ∧ (f t).poison = t.poison) : (s.deliver asc va l f).Ram := by
  unfold State.deliver; dsimp only; (repeat' split) <;> simp [Served.Ram, hw, hf]

/-! ### Issue slots -/

@[simp] theorem at_mem (s : State) (t : Nat) : (s.at' t).mem = s.mem ∧ (s.at' t).poison = s.poison := ⟨rfl, rfl⟩

@[simp] theorem slotTaken_mem (s : State) (k : Task) (i : Instr) :
    (s.slotTaken k i).mem = s.mem ∧ (s.slotTaken k i).poison = s.poison := by
  simp [State.slotTaken]

/-! ### Pages that are held -/

/-- The eight sites. -/
def State.sites (s : State) : List Site := [s.site0, s.site1, s.site2, s.site3, s.site4, s.site5, s.site6, s.site7]

theorem site_mem_sites (s : State) (n : Nat) : s.site n ∈ s.sites := by
  unfold State.site; split <;> simp [State.sites]

/-- No page is held while no stack is hot and no swap is under way (R185, R206). -/
theorem heldAt_quiet (s : State) (h : (s.sites.all fun x => !x.hot && x.swapping.isNone) = true) (a : Nat) : s.heldAt a = false := by
  have hs (i : Nat) : (s.site i).hot = false ∧ (s.site i).swapping = none := by
    have := List.all_eq_true.mp h _ (site_mem_sites s i)
    simpa using this
  unfold State.heldAt State.hotAt State.swapsAt
  cases siteOf a with
  | none => rfl
  | some i => simp [hs i]

end Sys2Proof.Machine
end

