-- ==== Sys2Proof/Laws/Shapes.lean ====
section
/-! SUPPORT. What the shared shapes of the meanings do, said once: an instruction of the slice, one with checks at decode, one that
computes, a branch, taking a fault, routing, and a head that issues. -/

namespace Sys2Proof.Machine

/-! ### Instructions of the slice -/

theorem onSlice_runs (s : State) (k : Task) (regs : List Reg) (f : Task → State) (h : find s.tasks s.cur = some k)
    (hz : k.hazard regs = false) : onSlice s regs f = .next (f k) := by simp [onSlice, h, hz]

theorem onSlice_waits (s : State) (k : Task) (regs : List Reg) (f : Task → State) (h : find s.tasks s.cur = some k)
    (hz : k.hazard regs = true) : onSlice s regs f = .next s := by simp [onSlice, h, hz]

/-- What an instruction of the slice can answer. -/
theorem onSlice_cases (s t : State) (regs : List Reg) (f : Task → State) (h : onSlice s regs f = .next t) :
    ∃ k, find s.tasks s.cur = some k ∧ (k.hazard regs = true ∧ t = s ∨ k.hazard regs = false ∧ t = f k) := by
  unfold onSlice at h; split at h
  · cases h
  · rename_i k hk
    refine ⟨k, hk, ?_⟩
    split at h <;> cases h <;> simp_all

theorem onDecode_runs (s : State) (k : Task) (regs : List Reg) (bad : Task → Option Byte) (f : Task → State)
    (h : find s.tasks s.cur = some k) (hb : bad k = none) (hz : k.hazard regs = false) : onDecode s regs bad f = .next (f k) := by
  simp [onDecode, h, hb, hz]

theorem onDecode_raises (s : State) (k : Task) (regs : List Reg) (bad : Task → Option Byte) (f : Task → State) (c : Byte)
    (h : find s.tasks s.cur = some k) (hb : bad k = some c) : onDecode s regs bad f = .next (s.slip c k.pc 0) := by
  simp [onDecode, h, hb]

theorem onDecode_waits (s : State) (k : Task) (regs : List Reg) (bad : Task → Option Byte) (f : Task → State)
    (h : find s.tasks s.cur = some k) (hb : bad k = none) (hz : k.hazard regs = true) : onDecode s regs bad f = .next s := by
  simp [onDecode, h, hb, hz]

theorem compute_runs (s : State) (k : Task) (n : Nat) (d : Reg) (regs : List Reg) (f : Task → W64)
    (h : find s.tasks s.cur = some k) (hz : k.hazard (d :: regs) = false) :
    compute s n d regs f = .next (s.setTask s.cur ((k.wx d (f k)).adv n)) := onSlice_runs s k _ _ h hz

theorem computeIf_runs (s : State) (k : Task) (bad : Bool) (d : Reg) (regs : List Reg) (f : Task → W64)
    (h : find s.tasks s.cur = some k) (hb : bad = false) (hz : k.hazard (d :: regs) = false) :
    computeIf s bad d regs f = .next (s.setTask s.cur ((k.wx d (f k)).adv 4)) :=
  onDecode_runs s k _ _ _ h (by simp [operand, hb]) hz

theorem branch_runs (s : State) (k : Task) (regs : List Reg) (taken : Task → Bool) (target : Task → Nat)
    (h : find s.tasks s.cur = some k) (hz : k.hazard regs = false) :
    branch s regs taken target = .next (if taken k then s.jump (target k) else s.setTask s.cur (k.adv 4)) :=
  onSlice_runs s k _ _ h hz

theorem task_of_find (s : State) (t : Nat) (k : Task) (h : find s.tasks t = some k) : s.task t = k := by simp [State.task, h]

/-- A transfer that lands: fetch goes on at the target, and nothing else changes. -/
theorem jump_lands (s : State) (k : Task) (target : Nat) (h : s.task s.cur = k) (hf : (s.fetch k target).isSome)
    (hl : s.landing k target = none) : s.jump target = s.setTask s.cur { k with pc := target, waitQ := none } := by
  obtain ⟨w, hw⟩ := Option.isSome_iff_exists.mp hf
  subst h
  simp only [State.jump, hw, hl]

/-! ### Taking a fault -/

/-- Taking a fault, case by case. -/
theorem take_cases (s : State) (t : Nat) (f : FaultRec) (resume : Nat) :
    s.take t f resume = s.fatal t f ∨ s.take t f resume = s.setTask t { s.task t with phase := .drainFw f } ∨
      s.take t f resume = s.enterTrap t f resume ∨ s.take t f resume = s.setTask t { s.task t with phase := .drainTrap f resume } := by
  unfold State.take; dsimp only; (repeat' split) <;> simp

/-- A record of the barograph changes the barograph alone. -/
theorem note_hif (s : State) (kind code : Nat) (payload detail : W64) (who : Option Task) :
    s.note kind code payload detail who =
      { s with hif := { s.hif with baro := (s.note kind code payload detail who).hif.baro } } := by
  unfold State.note; dsimp only; split <;> rfl

theorem note_frozen (s : State) (kind code : Nat) (payload detail : W64) (who : Option Task) (h : s.hif.baro.frozen = true) :
    s.note kind code payload detail who = s := by simp [State.note, h]

/-! ### Routing and issue -/

theorem routed_slice (i : Instr) (q : Nat) (body : Hd → Head) (s : State) (h : s.turn = .slice) :
    routed i q body s = routeInstr i q s := by simp only [routed, h]

theorem routed_head (i : Instr) (home q : Nat) (hs : Bool) (body : Hd → Head) (s : State) (h : s.turn = .head q hs) :
    routed i home body s = headIssue i body s q hs := by simp only [routed, h]

/-- The head of a queue, its instruction i, that waits, faults, runs or is skipped by its predicate (R240). -/
theorem headIssue_wait (i : Instr) (body : Hd → Head) (s : State) (q : Nat) (hs : Bool) (k : Task) (e : Entry) (r : List Entry) (c : Nat)
    (h : find s.tasks s.cur = some k) (he : ((k.set hs).rq q).entries = e :: r) (hi : e.instr = i) (hr : k.headsRun hs = true)
    (ho : ((k.set hs).rq q).open = true) (hg : gate i (k.set hs) q e = .wait c) :
    headIssue i body s q hs = .next (s.awaits s.cur hs q c) := by
  simp [headIssue, h, he, hi, hr, ho, hg]

theorem headIssue_fault (i : Instr) (body : Hd → Head) (s : State) (q : Nat) (hs : Bool) (k : Task) (e : Entry) (r : List Entry) (c : Byte)
    (h : find s.tasks s.cur = some k) (he : ((k.set hs).rq q).entries = e :: r) (hi : e.instr = i) (hr : k.headsRun hs = true)
    (ho : ((k.set hs).rq q).open = true) (hg : gate i (k.set hs) q e = .fault c) :
    headIssue i body s q hs = .next (s.raise s.cur hs q e c 0 0) := by
  simp [headIssue, h, he, hi, hr, ho, hg]

theorem headIssue_runs (i : Instr) (body : Hd → Head) (s : State) (q : Nat) (hs : Bool) (k : Task) (e : Entry) (r : List Entry)
    (vals : List CtqEntry) (h : find s.tasks s.cur = some k) (he : ((k.set hs).rq q).entries = e :: r) (hi : e.instr = i)
    (hr : k.headsRun hs = true) (ho : ((k.set hs).rq q).open = true) (hg : gate i (k.set hs) q e = .run vals) :
    headIssue i body s q hs = headRun i body s s.cur k hs q e vals := by
  simp [headIssue, h, he, hi, hr, ho, hg]

theorem headIssue_skips (i : Instr) (body : Hd → Head) (s : State) (q : Nat) (hs : Bool) (k : Task) (e : Entry) (r : List Entry)
    (h : find s.tasks s.cur = some k) (he : ((k.set hs).rq q).entries = e :: r) (hi : e.instr = i) (hr : k.headsRun hs = true)
    (ho : ((k.set hs).rq q).open = true) (hg : gate i (k.set hs) q e = .skip) (hm : ∀ f, i ≠ .mma f) :
    headIssue i body s q hs = .next (s.issueHead s.cur hs q e 1 i.tok false { s := s, skipped := true }) := by
  simp only [headIssue, h, he, hi, hr, ho, hg]
  split
  · simp_all
  · rfl

/-- The issued entry keeps what its registers held before it, unless it goes on (R243). -/
def Eff.keeping (x : Eff) (k : Task) (i : Instr) : Eff :=
  if x.busy && !i.isMma then x else { x with olds := k.oldRegs i, oldm := k.oldMasks i }

/-- A head that runs, an MMA with its format entry and its tiles (R278), with nothing that keeps it back, its units its own and no register of it being written by another queue, does
what the body says. -/
theorem headRun_body (i : Instr) (body : Hd → Head) (s s1 : State) (t : Nat) (k : Task) (hs : Bool) (q : Nat) (e : Entry)
    (vals : List CtqEntry) (h5 : operandWait s t k i ((k.set hs).rq q) = false) (h7 : fenceWait k q ((k.set hs).rq q) e i = false)
    (hl : q = 0 → ((k.set hs).rq q).issued.length < 16) (hst : k.starved i = false)
    (hr : racing ((k.set hs).others q) (i.reads ++ i.writes) = ([], [])) (hu : s.claims t k (i.units k) = (true, s1))
    (hc : ∀ T, i.counted = some T → countBad T (countOf i.pfx (takenOf i.pfx i.fields vals).pfx) = false)
    (hm : i.isMma = true → ∃ x, tried body s t k hs e (takenOf i.pfx i.fields vals) = .done x) :
    headRun i body s t k hs q e vals =
      match body { s := s1, t := t, k := k, see := k, hs := hs, e := e, tk := takenOf i.pfx i.fields vals } with
      | .wait c s2 => .next (s2.awaits t hs q c)
      | .fault c d s2 =>
        .next (s2.raisePopped t hs q e (match e.popped with | some _ => 0 | none => pops i.demands) vals c d)
      | .refuse => .refused .registerWindow
      | .done x =>
        .next ((x.s.issueHead t hs q e (match e.popped with | some _ => 0 | none => pops i.demands) i.tok true
          (x.keeping k i)).tookMatrix t k i) := by
  have h0 : (q == 0 && decide (16 ≤ ((k.set hs).rq q).issued.length)) = false := by
    by_cases hq : q = 0
    · have := hl hq; simp; omega
    · simp [hq]
  have hcc : (i.counted.any fun T => countBad T (countOf i.pfx (takenOf i.pfx i.fields vals).pfx)) = false := by
    cases hi : i.counted with
    | none => rfl
    | some T => simpa using hc T hi
  have hi : headRun i body s t k hs q e vals = headIssues i body s t k hs q e vals := by
    simp only [headRun, h5, h7, h0, hst, Bool.or_self, Bool.false_eq_true, if_false]
    split
    · next h => obtain ⟨x, hx⟩ := hm h; simp only [hx]
    · rfl
  simp only [hi, headIssues, hu, hcc, Bool.false_eq_true, if_false, Bool.not_true]
  simp only [seeing, hr, List.isEmpty_nil, Bool.and_self, if_true]
  cases body { s := s1, t := t, k := k, see := k, hs := hs, e := e, tk := takenOf i.pfx i.fields vals } <;> rfl

/-- Issue, said once: the state of the effect with the context's queues after the pops, the tokens and the move of the entry. -/
theorem issueHead_eq (s : State) (t : Nat) (hs : Bool) (q : Nat) (e : Entry) (npop : Nat) (tok : BitVec 4) (hold : Bool) (x : Eff)
    (k : Task) (h : s.task t = k) :
    s.issueHead t hs q e npop tok hold x =
      let qs := takeTokens (k.set hs) q tok
      let it : Issued := { entry := e, holding := hold, busy := x.busy, skipped := x.skipped, flags := x.flags, push := x.push,
                           fills := x.fills, got := [], olds := x.olds, oldm := x.oldm }
      s.setTask t (k.withSet hs ((qs.setCtq q ((qs.ctq q).drop npop)).setRq q
        { qs.rq q with entries := (qs.rq q).entries.drop 1, issued := (qs.rq q).issued ++ [it], stall := 0, await := 0 })) := by
  subst h; rfl

@[simp] theorem rq_takeTokens (qs : QSet) (q p : Nat) (tok : BitVec 4) : (takeTokens qs q tok).rq p = qs.rq p := by
  unfold takeTokens; dsimp only; (repeat' split) <;> simp

@[simp] theorem ctq_takeTokens (qs : QSet) (q p : Nat) (tok : BitVec 4) : (takeTokens qs q tok).ctq p = qs.ctq p := by
  unfold takeTokens; dsimp only; (repeat' split) <;> simp

end Sys2Proof.Machine
end

