-- ==== Sys2Proof/Tests/Slice0.lean ====
section
/-! SUPPORT. Tests. The ill-formed terms that the checks refuse; words written out from the encodings of the spec, which decode to the
instructions they stand for; states and operands that meet the hypotheses of the statements; and the worked examples of the spec. -/

set_option Elab.async false

namespace Sys2Proof.Tests
open Sys2Proof Sys2Proof.Machine Sys2Proof.Claims

/-! ### Well-formedness: each check refuses an ill-formed term -/

def okV : V4 := { pfx := none, tok := 0, mask := 0, ty := 0, vd := 1, va := 2, vb := 3, vc := 0 }
def okM : VM := { pfx := none, tok := 0, mask := 0, ty := 0, cls := 0, h := 0, xo := 0, v := 1, tail := 0 }
def okT : TL := { pfx := none, tok := 0, ta := 0, c := 0, hint := 0, cls := 0, h := 0, xa := 0, xb := 0, n12 := 0, tr := 0 }
def okX : MX := { pfx := none, tok := 0, acc := 0, hint := 0, ta := 0, ac := 0, tb := 0, bc := 0, va := 0, vb := 0, mask := 0, ty := 0 }

theorem test_wf_accepts : ([.vadd okV, .vld okM, .vgath okM, .nstv okM, .tadv okT, .mma okX, .accz okX, .cqpm 0 5 0 0 0 0,
    .entryComplete 192 2 false, .tileFillComplete 191 63, .queueNotify 63 2047 0, .illegalEncoding .opcode 4] : List Instr).all Instr.wf = true := by
  decide

theorem test_wf_refuses_prefixes : ([.vadd { okV with pfx := some (.pxm 3 0 0) }, .vadd { okV with pfx := some (.pxm 0 3 0) },
    .vadd { okV with pfx := some (.pxm 0 0 6) }, .vadd { okV with pfx := some (.pxc 0 1 1) }, .vadd { okV with pfx := some (.pxo 1) },
    .vcvt { okV with vb := 0, pfx := some (.pxs 3) }, .vst { okM with pfx := some (.pxm 0 0 0) }, .tadv { okT with pfx := some (.pxc 0 1 0) },
    .mma { okX with pfx := some (.pxo 1) }] : List Instr).all (fun i => !i.wf) = true := by decide

theorem test_wf_refuses_vector_fields : ([.vadd { okV with ty := 15 }, .vadd { okV with vd := 773 }, .vadd { okV with va := 783 },
    .vadd { okV with vb := 780 }, .vadd { okV with vc := 1 }, .vfma { okV with vc := 780 }, .vabs okV, .vcmp 0 { okV with vc := 1 },
    .vrot { okV with vc := 1 }, .vmsk { okV with mask := 1 }, .vmsk { okV with vc := 4 }, .vmaskq okV, .vdrain { okV with vb := 1 },
    .vret { okV with vd := 0, vb := 1 }, .vret { okV with vd := 0, vb := 0, vc := 1 }, .vcvt { okV with vc := 1 },
    .vqnt { okV with pfx := some (.pxs 1) }] : List Instr).all (fun i => !i.wf) = true := by decide

theorem test_wf_refuses_memory_fields : ([.vld { okM with ty := 15 }, .vld { okM with v := 773 }, .vgath { okM with tail := 1024 },
    .vscat { okM with tail := 773 }, .nstv { okM with tail := 3 }, .nstv { okM with tail := 64 }, .nstv { okM with h := 1 },
    .nstv { okM with xo := 1 }] : List Instr).all (fun i => !i.wf) = true := by decide

theorem test_wf_refuses_tile_fields : ([.tfetch { okT with c := 1 }, .tadv { okT with n12 := 1 }, .tadv { okT with tr := 1 },
    .tfetch { okT with tr := 3 }, .tadv { okT with h := 1 }, .tadv { okT with cls := 1 }, .tadv { okT with xa := 1 },
    .tunpark { okT with xb := 1 }, .vldt { okT with n12 := 1024 }, .vldx { okT with n12 := 773 }, .twr { okT with xb := 16 }] : List Instr).all
    (fun i => !i.wf) = true := by decide

theorem test_wf_refuses_matrix_fields : ([.mma { okX with ty := 15 }, .mma { okX with va := 773 }, .mma { okX with vb := 773 },
    .accz { okX with ta := 1 }, .accz { okX with va := 1 }, .accld { okX with vb := 1 }, .accrd { okX with bc := 1 }] : List Instr).all
    (fun i => !i.wf) = true := by decide

theorem test_wf_refuses_slice_fields : ([.cqpm 0 5 0 0 1 0, .cqpm 0 5 0 1 0 1, .cqpm 0 5 1 2 0 0, .illegalEncoding .opcode 3] : List Instr).all
    (fun i => !i.wf) = true := by decide

theorem test_wf_refuses_steps : ([.entryComplete 192 3 false, .queueStall 192 3 false, .unitHoldingEnd 192 3 false, .tileFillComplete 192 0,
    .tileFillComplete 0 64, .unitSaveComplete 192 0, .unitRestoreComplete 0 82, .ticketRequest 192, .nameBlockFree 8 0 0,
    .nameBlockFree 0 32 0, .registerWrite 64 0 0, .queueEnable 0 2048 0, .semaphoreWrite 0 512 0 0, .semaphoreWrite 0 0 256 0,
    .functionLevelReset 0 64, .dieWarmReset 0 2, .dieWarmResetComplete 2, .slotLoadComplete 256, .recordRead 2048,
    .walkerRecordHandout 0 192, .vectorUnmask 0 2048, .fabricPortLost 96, .swapComplete 8, .fabricFlitArrival 4096 (.ack 0 0 0)] : List Instr).all
    (fun i => !i.wf) = true := by decide

/-! ### Decoding (02_instruction_words.md R26 to R57) -/

/-- Each list of words decodes to its instruction, whole. -/
def reads (l : List (List Nat × Instr)) : Bool := l.all fun p => decide (decodeWords p.1 = .ok p.2 (4 * p.1.length))

/-- The two words of a 64-bit instruction. -/
def two (n : Nat) : List Nat := [n % 2 ^ 32, n / 2 ^ 32]

def v4 (pfx : Option Pfx) (tok mask ty : Nat) (vd va vb vc : Nat) : V4 :=
  { pfx := pfx, tok := BitVec.ofNat 4 tok, mask := BitVec.ofNat 4 mask, ty := BitVec.ofNat 4 ty, vd := BitVec.ofNat 10 vd,
    va := BitVec.ofNat 10 va, vb := BitVec.ofNat 10 vb, vc := BitVec.ofNat 10 vc }

/-- The words of the scalar examples of 05_launching.md, 07_control_slice.md, 08_memory_sites.md, 09_tile_store.md, 12_copy_engines.md,
13_ordering.md and 14_interruptions.md. -/
theorem test_scalar_examples : reads [
    ([0x68510904], .idx2 9 4 5), ([0xFF810408], .addi 4 4 (-8)), ([0x00001028], .br 16), ([0xFFD00530], .bne 5 0 (-3)),
    ([0x04014244], .brtNz 2 5), ([0x00518150], .loop 1 6 5), ([0x0001415C], .cqp 1 5), ([0x08000B5C], .rqpop 11),
    ([0x0C000B5C], .npop 11), ([0x0081C360], .xlt 3 7 8), ([0x0402C460], .xltn 4 11), ([0x08000360], .hrel 3),
    ([0x0C80C960], .hchk 9 3 8), ([0x0C010E60], .hchk 14 4 0), ([0x1002C060], .nrel 11), ([0x14614060], .shand 5 6),
    ([0x00718564], .tsettle 5 6 7), ([0x04010964], .tstat 9 4), ([0x04100964], .tstatP 9), ([0x00028068], .cbw 0 10), ([0x0020056C], .cego 5 2),
    ([0x0131096C], .cegoT 9 4 3), ([0x00300C70], .cepop 12 3), ([0x00700088], .trap 7), ([0x01000190], .srd 1 16),
    ([0x00804094], .swr 1 8), ([0x0110C09C], .baro 3 17)] = true := by decide +kernel

theorem test_wide_examples : reads [
    (two 0x0005110004000A05, .lih 10 0x00051100),
    (two 0x0000001084324709, .ldw { pfx := none, cls := 2, h := 3, xo := 9, x := 7, imm := 16 }),
    (two 0x0000000860200C0D, .std { pfx := none, cls := 0, h := 2, xo := 0, x := 12, imm := 8 }),
    (two 0x0000003000000211, .pbr 2 48), (two 0x4800000000014115, .cqpm 1 5 0 1 4 0), (two 0x0001000004000015, .bnd 0 65536),
    (two 0x000002AD0001C019, .fmtp 7 0x2AD), (two 0x000300060000001D, .fenceC 3 6), (two 0x0004000400000021, .fenceM 4 4)] = true := by
  decide +kernel

theorem test_routed_examples : reads [
    (0x242 :: two 0x0031101805130941, .vadd (v4 (some (.pxm 0 1 1)) 9 3 1 5 6 785 0)),
    (two 0x0280902007003041, .vfma (v4 none 0 0 0 7 8 9 10)), (two 0x0000000C0C120145, .vexp2 (v4 none 1 2 1 12 3 0 0)),
    (two 0x0000B02804002049, .vcmp 2 (v4 none 0 0 0 4 10 11 0)), (two 0x0000000402010051, .vrmax (v4 none 0 1 0 2 1 0 0)),
    (two 0x0030002009001055, .vrot (v4 none 0 0 0 9 8 768 0)), (two 0x00C0200403003055, .vmsk (v4 none 0 0 0 3 1 2 3)),
    (two 0x0000000001004055, .vmaskq (v4 none 0 0 0 1 0 0 0)), (two 0xFFFFF00400020059, .vdefer (v4 none 0 2 0 0 1 1023 1023)),
    (two 0x0000000014041859, .vdrain (v4 none 8 4 0 20 0 0 0)), (two 0x0040000000042859, .vret (v4 none 8 4 0 0 0 0 1)),
    (two 0x0000C0000830005D, .vcvt (v4 none 0 0 3 8 0 12 0)), (two 0x0340C0001410105D, .vqnt (v4 none 0 0 1 20 0 12 13)),
    (two 0x0000008010000261,
      .vld { pfx := none, tok := 2, mask := 0, ty := 0, cls := 0, h := 1, xo := 0, v := 1, tail := 0 }),
    (two 0x003E0F0820002061,
      .vgath { pfx := none, tok := 0, mask := 0, ty := 0, cls := 0, h := 2, xo := 4, v := 30, tail := 31 }),
    (two 0x0200050612030465,
      .vst { pfx := none, tok := 4, mask := 3, ty := 0, cls := 2, h := 1, xo := 3, v := 10, tail := 256 }),
    (two 0x003C140000003465,
      .nstv { pfx := none, tok := 4, mask := 0, ty := 0, cls := 0, h := 0, xo := 0, v := 40, tail := 30 }),
    (two 0x0002040E31050269,
      .tfetch { pfx := none, tok := 2, ta := 5, c := 0, hint := 0, cls := 1, h := 3, xa := 7, xb := 8, n12 := 16, tr := 0 }),
    (two 0x0001400400405269,
      .vldt { pfx := none, tok := 2, ta := 0, c := 1, hint := 0, cls := 0, h := 0, xa := 2, xb := 0, n12 := 10, tr := 0 }),
    (two 0x004000020C000471, .mma { pfx := none, tok := 4, acc := 0, hint := 0, ta := 0, ac := 1, tb := 1, bc := 1, va := 0, vb := 0,
                                    mask := 1, ty := 0 }),
    (two 0x0000000000001071, .accz { pfx := none, tok := 0, acc := 0, hint := 0, ta := 0, ac := 0, tb := 0, bc := 0, va := 0, vb := 0,
                                     mask := 0, ty := 0 }),
    (two 0x0000004000022071, .accld { pfx := none, tok := 0, acc := 2, hint := 0, ta := 0, ac := 0, tb := 0, bc := 0, va := 16,
                                      vb := 0, mask := 0, ty := 0 })] = true := by decide +kernel

/-- A word of format S3, SI, SB or SJ (R26). -/
def s3 (minor b a d major : Nat) : Nat := minor * 2 ^ 26 + b * 2 ^ 20 + a * 2 ^ 14 + d * 2 ^ 8 + major * 2 ^ 2
def si (imm a d major : Nat) : Nat := imm * 2 ^ 20 + a * 2 ^ 14 + d * 2 ^ 8 + major * 2 ^ 2

theorem test_arithmetic_words : reads [
    ([s3 0 61 42 33 1], .add 33 42 61), ([s3 1 61 42 33 1], .sub 33 42 61), ([s3 2 61 42 33 1], .mul 33 42 61),
    ([s3 3 61 42 33 1], .mulh 33 42 61), ([s3 4 61 42 33 1], .mulhu 33 42 61), ([s3 5 61 42 33 1], .div 33 42 61),
    ([s3 6 61 42 33 1], .divu 33 42 61), ([s3 7 61 42 33 1], .rem 33 42 61), ([s3 8 61 42 33 1], .remu 33 42 61),
    ([s3 9 61 42 33 1], .and 33 42 61), ([s3 10 61 42 33 1], .or 33 42 61), ([s3 11 61 42 33 1], .xor 33 42 61),
    ([s3 12 61 42 33 1], .shl 33 42 61), ([s3 13 61 42 33 1], .shr 33 42 61), ([s3 14 61 42 33 1], .sar 33 42 61),
    ([s3 15 61 42 33 1], .min 33 42 61), ([s3 16 61 42 33 1], .max 33 42 61), ([s3 17 61 42 33 1], .minu 33 42 61),
    ([s3 18 61 42 33 1], .maxu 33 42 61), ([s3 19 61 42 33 1], .slt 33 42 61), ([s3 20 61 42 33 1], .sltu 33 42 61),
    ([s3 21 61 42 33 1], .seq 33 42 61), ([s3 22 0 42 33 1], .clz 33 42), ([s3 23 0 42 33 1], .ctz 33 42),
    ([s3 24 0 42 33 1], .popc 33 42), ([s3 25 61 42 33 1], .sel 33 42 61), ([s3 27 61 42 33 1], .idx3 33 42 61),
    ([s3 28 61 42 33 1], .bclamp 33 42 61), ([s3 29 61 42 33 1], .alignup 33 42 61),
    ([si 0xABC 42 33 3], .andi 33 42 0xABC), ([si 0xABC 42 33 4], .ori 33 42 0xABC), ([si 0xABC 42 33 5], .xori 33 42 0xABC),
    ([si 63 42 33 6], .shli 33 42 63), ([si 63 42 33 7], .shri 33 42 63), ([si 63 42 33 8], .sari 33 42 63),
    ([si 0xABC 0 33 9], .liShort 33 0xABC)] = true := by decide +kernel

/-- Branches have xa in [13:8] and xb in [19:14] (R26). -/
theorem test_transfer_words : reads [
    ([si 0xABC 61 42 0x0B], .beq 42 61 0xABC), ([si 0xABC 61 42 0x0D], .blt 42 61 0xABC), ([si 0xABC 61 42 0x0E], .bge 42 61 0xABC),
    ([si 0xABC 61 42 0x0F], .bltu 42 61 0xABC), ([si 0xABC 61 42 0x10], .bgeu 42 61 0xABC), ([s3 0 0 0 7 0x11], .brt 7),
    ([s3 2 0 42 7 0x11], .brtZ 7 42), ([0xABCDEF * 2 ^ 8 + 0x12 * 4], .call 0xABCDEF), ([s3 0 0 0 0 0x13], .ret),
    ([si 0xABC 0 3 0x15], .endl 3 0xABC), ([s3 0 0 0 0 0x16], .tend)] = true := by decide +kernel

theorem test_slice_words : reads [
    ([s3 1 0 42 2 0x17], .cqpb 2 42), ([s3 4 13 0 33 0x17], .qdepth 33 13), ([s3 1 0 0 0 0x1A], .cbclr),
    ([si 200 42 33 0x1D], .semw 33 42 200), ([si 200 42 33 0x1E], .sems 33 42 200), ([si 200 0 33 0x1F], .semrd 33 200),
    ([s3 0 0 0 0 0x20], .join), ([s3 0 0 0 0 0x21], .launch), ([s3 0 0 0 0 0x23], .eret), ([s3 0 0 0 0 0x26], .yield), ([0xFC], .nop)] = true := by
  decide +kernel

/-- Words of formats SL and SM (R28). -/
def sl (imm minor b a d major : Nat) : List Nat := [s3 minor b a d major + 1, imm]
def sm (imm minor cls h o x major : Nat) : List Nat :=
  [minor * 2 ^ 29 + cls * 2 ^ 25 + h * 2 ^ 20 + o * 2 ^ 14 + x * 2 ^ 8 + major * 2 ^ 2 + 1, imm]
def smF : SM := { pfx := none, cls := 9, h := 21, xo := 42, x := 33, imm := 0xFEDCBA98 }

theorem test_memory_words : reads [
    (sl 0xFEDCBA98 0 0 0 33 1, .li 33 0xFEDCBA98), (sm 0xFEDCBA98 0 9 21 42 33 2, .ldb smF), (sm 0xFEDCBA98 1 9 21 42 33 2, .ldbs smF),
    (sm 0xFEDCBA98 2 9 21 42 33 2, .ldh smF), (sm 0xFEDCBA98 3 9 21 42 33 2, .ldhs smF), (sm 0xFEDCBA98 5 9 21 42 33 2, .ldws smF),
    (sm 0xFEDCBA98 6 9 21 42 33 2, .ldd smF), (sm 0xFEDCBA98 0 9 21 42 33 3, .stb smF), (sm 0xFEDCBA98 1 9 21 42 33 3, .sth smF),
    (sm 0xFEDCBA98 2 9 21 42 33 3, .stw smF), ((2 + 4 * 4 + 7 * 2 ^ 6) :: sm 0xFEDCBA98 2 9 21 42 33 3, .stw { smF with pfx := some 7 })]
    = true := by decide +kernel

/-- A word of format V4 (R29): minor and major, with tokens 9, mask 5, a type, and the fields 700, 600, 500 and 400. -/
def wV (minor major ty vb vc : Nat) : List Nat :=
  two (vc * 2 ^ 54 + vb * 2 ^ 44 + 600 * 2 ^ 34 + 700 * 2 ^ 24 + ty * 2 ^ 20 + 5 * 2 ^ 16 + minor * 2 ^ 12 + 9 * 2 ^ 8 + major * 2 ^ 2 + 1)
def fV (ty vb vc : Nat) : V4 := v4 none 9 5 ty 700 600 vb vc

theorem test_vector_words : reads [
    (wV 1 0x10 2 500 0, .vsub (fV 2 500 0)), (wV 2 0x10 2 500 0, .vmul (fV 2 500 0)), (wV 4 0x10 2 500 400, .vfnma (fV 2 500 400)),
    (wV 5 0x10 2 500 0, .vmin (fV 2 500 0)), (wV 6 0x10 2 500 0, .vmax (fV 2 500 0)), (wV 7 0x10 2 0 0, .vabs (fV 2 0 0)),
    (wV 8 0x10 2 0 0, .vneg (fV 2 0 0)), (wV 9 0x10 2 500 400, .vclamp (fV 2 500 400)), (wV 10 0x10 2 0 0, .vmov (fV 2 0 0)),
    (wV 11 0x10 2 500 0, .vsel (fV 2 500 0)), (wV 1 0x11 2 0 0, .vlog2 (fV 2 0 0)), (wV 2 0x11 2 0 0, .vrcp (fV 2 0 0)),
    (wV 3 0x11 2 0 0, .vrsq (fV 2 0 0)), (wV 0 0x13 9 500 0, .viadd (fV 9 500 0)), (wV 1 0x13 9 500 0, .visub (fV 9 500 0)),
    (wV 2 0x13 9 500 0, .vimul (fV 9 500 0)), (wV 3 0x13 9 500 400, .vimad (fV 9 500 400)), (wV 4 0x13 9 500 0, .vand (fV 9 500 0)),
    (wV 5 0x13 9 500 0, .vor (fV 9 500 0)), (wV 6 0x13 9 500 0, .vxor (fV 9 500 0)), (wV 7 0x13 9 0 0, .vnot (fV 9 0 0)),
    (wV 8 0x13 9 500 0, .vshl (fV 9 500 0)), (wV 9 0x13 9 500 0, .vshr (fV 9 500 0)), (wV 10 0x13 9 500 0, .vsar (fV 9 500 0)),
    (wV 11 0x13 9 500 0, .vimin (fV 9 500 0)), (wV 12 0x13 9 500 0, .vimax (fV 9 500 0)), (wV 1 0x14 2 0 0, .vrmin (fV 2 0 0)),
    (wV 2 0x14 2 0 0, .vrsum (fV 2 0 0)), (wV 3 0x14 2 0 0, .vcsum (fV 2 0 0)), (wV 4 0x14 2 0 0, .vrscan (fV 2 0 0)),
    (wV 0 0x15 2 500 0, .vshuf (fV 2 500 0)), (wV 2 0x15 2 0 0, .vtrn (fV 2 0 0))] = true := by decide +kernel

/-- Words of formats VM, TL and MX (R30 to R32, R228, R276). -/
def wM (minor major : Nat) : List Nat := two (0x5A5A * 2 ^ 49 + 700 * 2 ^ 39 + 42 * 2 ^ 33 + 21 * 2 ^ 28 + 9 * 2 ^ 24 + 2 * 2 ^ 20 +
  5 * 2 ^ 16 + minor * 2 ^ 12 + 6 * 2 ^ 8 + major * 2 ^ 2 + 1)
def fM : VM := { pfx := none, tok := 6, mask := 5, ty := 2, cls := 9, h := 21, xo := 42, v := 700, tail := 0x5A5A }
def wT (tr n12 xb xa h cls c minor major : Nat) : List Nat := two (tr * 2 ^ 57 + n12 * 2 ^ 45 + xb * 2 ^ 39 + xa * 2 ^ 33 + h * 2 ^ 28 +
  cls * 2 ^ 24 + 1 * 2 ^ 23 + c * 2 ^ 22 + 42 * 2 ^ 16 + minor * 2 ^ 12 + 6 * 2 ^ 8 + major * 2 ^ 2 + 1)
def fT (tr : BitVec 2) (n12 : BitVec 12) (xb xa : Reg) (h : BitVec 5) (cls : BitVec 4) (c : BitVec 1) : TL :=
  { pfx := none, tok := 6, ta := 42, c := c, hint := 1, cls := cls, h := h, xa := xa, xb := xb, n12 := n12, tr := tr }

theorem test_tile_words : reads [
    (wM 1 0x18, .vlds fM), (wM 1 0x19, .vsts fM), (wT 2 999 61 33 21 9 0 1 0x1A, .twin (fT 2 999 61 33 21 9 0)),
    (wT 0 0 0 0 0 0 0 2 0x1A, .tadv (fT 0 0 0 0 0 0 0)), (wT 0 0 61 33 0 0 0 3 0x1A, .tshare (fT 0 0 61 33 0 0 0)),
    (wT 0 0 0 33 0 0 0 4 0x1A, .tunpark (fT 0 0 0 33 0 0 0)), (wT 0 700 61 33 0 0 1 6 0x1A, .vldx (fT 0 700 61 33 0 0 1)),
    (wT 0 0 0 0 0 9 0 0 0x1B, .tpark (fT 0 0 0 0 0 9 0)), (wT 0 999 10 60 0 0 0 1 0x1B, .twr (fT 0 999 10 60 0 0 0)),
    (wT 0 0 61 33 21 9 1 2 0x1B, .twb (fT 0 0 61 33 21 9 1)),
    (two (31 * 2 ^ 49 + 700 * 2 ^ 39 + 42 * 2 ^ 33 + 21 * 2 ^ 28 + 9 * 2 ^ 24 + 2 * 2 ^ 20 + 5 * 2 ^ 16 + 2 * 2 ^ 12 + 6 * 2 ^ 8 + 0x19 * 4 + 1),
      .vscat { fM with tail := 31 }),
    (two (3 * 2 ^ 58 + 5 * 2 ^ 54 + 500 * 2 ^ 44 + 600 * 2 ^ 34 + 1 * 2 ^ 19 + 6 * 2 ^ 16 + 3 * 2 ^ 12 + 6 * 2 ^ 8 + 0x1C * 4 + 1),
      .accrd { pfx := none, tok := 6, acc := 6, hint := 1, ta := 0, ac := 0, tb := 0, bc := 0, va := 600, vb := 500, mask := 5, ty := 3 })]
    = true := by decide +kernel

/-- Prefix words (R37 to R43). -/
theorem test_prefix_words : reads [
    ((2 + 0 * 4 + 5 * 2 ^ 6 + 2 * 2 ^ 9 + 1 * 2 ^ 11) :: wV 0 0x10 2 500 0, .vadd { fV 2 500 0 with pfx := some (.pxm 1 2 5) }),
    ((2 + 1 * 4 + 8192 * 2 ^ 7 + 1 * 2 ^ 21) :: wV 0 0x10 2 500 0, .vadd { fV 2 500 0 with pfx := some (.pxc 1 8192 0) }),
    ((2 + 1 * 4 + 1 * 2 ^ 6) :: wV 0 0x10 2 500 0, .vadd { fV 2 500 0 with pfx := some (.pxc 0 0 1) }),
    ((2 + 2 * 4) :: wV 0 0x10 2 500 0, .vadd { fV 2 500 0 with pfx := some .pxp }),
    ((2 + 3 * 4 + 30 * 2 ^ 6 + 1 * 2 ^ 12) :: wV 0 0x10 2 500 0, .vadd { fV 2 500 0 with pfx := some (.pxr 30 1) }),
    ((2 + 4 * 4 + 13 * 2 ^ 6) :: wM 1 0x19, .vsts { fM with pfx := some (.pxo 13) }),
    ((2 + 5 * 4 + 2 * 2 ^ 6) :: two 0x0000C0000830005D, .vcvt (v4 (some (.pxs 2)) 0 0 3 8 0 12 0))] = true := by decide +kernel

/-- Words that are no instruction raise what R22, R25, R44, R55 and R57 say. -/
theorem test_rejected_words : [
    ([0], Instr.illegalEncoding .opcode 0), ([3], .illegalEncoding .selector 0), ([0x1FC], .illegalEncoding .reserved 0),
    ([2 + 6 * 4, 0, 0], .illegalEncoding .opcode 0), ([s3 1 2 0 9 0x19], .illegalEncoding .operand 0), ([0x242, 0xFC], .orphanPrefix)].all (fun p =>
      match decodeWords p.1 with | .ok i _ => decide (i = p.2) | _ => false) = true := by decide +kernel

/-! ### Witnesses: states and operands that meet the hypotheses of the statements -/

/-- A packet, a context, and the state with that context as task 192 on core 0. -/
def p0 : Packet := { Packet.empty with phase := .dispatched, tasks := 1 }
def k0 : Task := { Task.empty with packet := 0, phase := .running, pc := windowBase 0 + 0x800 }
def withK (k : Task) : State :=
  { State.reset with tasks := [(192, k)], nextTask := 193, cur := 192, lfe := { State.reset.lfe with packets := [(0, p0)], nextPacket := 1 } }

/-- With values in x5 and x6. -/
def kx (a b : W64) : Task := { k0 with x := [(5, a), (6, b)] }

/-- With an image of one page at physical address 0. -/
def img (s : State) : State := { s with hif := { s.hif with slots := [(0, { RSlot.empty with isize := 65536, image := [0] })] } }

/-! #### Scalar instructions -/

/-- In a context with no load outstanding every register is ready, so every scalar instruction has its state. -/
theorem witness_scalar (regs : List Reg) : Ready (withK k0) k0 regs :=
  ⟨rfl, by simp [k0, Task.empty, Task.hazard, Task.pendingLoad]⟩

theorem witness_scalar_rows : IsScalar (.add 5 6 7) (src2 5 6 7 fun x y => x + y) ∧
    IsScalar (.shli 5 6 63) (src1 5 6 fun x => x <<< 63) ∧ (∃ c, IsScalar (.qdepth 5 13) c) :=
  ⟨.add 5 6 7, .shli 5 6 63 (by decide), _, .qdepth 5 13 (by decide)⟩

def kLoad : Task := { k0 with slice := [.load 5 64 8 false 0 0 []] }
theorem witness_load_hazard : find (withK kLoad).tasks (withK kLoad).cur = some kLoad ∧ kLoad.hazard [6, 5] = true ∧
    kLoad.hazard [5] = true := ⟨rfl, by decide, by decide⟩

/-- The rows of the registers that an instruction uses, each with a load of one of them on its way. -/
theorem witness_uses : Uses (withK kLoad) kLoad (.sub 5 6 7) [5, 6, 7] ∧ Uses (withK kLoad) kLoad (.cqp 2 5) [5] ∧
    Uses (withK kLoad) kLoad (.cbw 15 5) [5] ∧ Uses (withK kLoad) kLoad (.beq 6 5 4) [6, 5] ∧
    Uses (withK kLoad) kLoad (.ldb smF) [42, 33] ∧ Uses (withK kLoad) kLoad (.std smF) [42, 33] ∧
    Uses (withK kLoad) kLoad (.tadv okT) [okT.xa, okT.xb] :=
  ⟨.scalar _ _ (.sub 5 6 7), .queue _ _ _ _ (.cqp 2 5) (by unfold hasRoom; decide), .context _ _ _ _ (.cbw 15 5) (by decide),
    .transfer _ _ (.beq 6 5 4) trivial, .load _ _ _ _ (.ldb smF), .store _ _ _ (.std smF), .routed _ 0 rfl rfl (by decide)⟩

theorem witness_uses_more : Uses (withK kLoad) kLoad (.popc 5 6) [5, 6] ∧ Uses (withK kLoad) kLoad (.xlt 3 6 5) [6, 5] ∧
    Uses (withK kLoad) kLoad (.xltn 3 5) [5] ∧ Uses (withK kLoad) kLoad (.nrel 5) [5] ∧ Uses (withK kLoad) kLoad (.shand 6 5) [6, 5] ∧
    Uses (withK kLoad) kLoad (.tsettle 5 6 7) [5, 6, 7] ∧ Uses (withK kLoad) kLoad (.sems 5 6 0) [5, 6] ∧
    Uses (withK kLoad) kLoad (.cego 5 0) [5] ∧ Uses (withK kLoad) kLoad (.cegoT 6 5 0) [6, 5] ∧ Uses (withK kLoad) kLoad (.baro 5 0) [5] :=
  ⟨.popc 5 6, .xlt 3 6 5, .xltn 3 5, .nrel 5, .shand 6 5, .tsettle 5 6 7 rfl, .sems 5 6 0, .cego 5 0, .cegoT 6 5 0, .baro 5 0⟩

/-- Instruction i of the table of queue operations executes in context k. -/
structure MetQ {i : Instr} {rs : List Reg} {P : Task → Prop} {f : Task → Task} (_ : IsQueueOp i rs P f) (k : Task) : Prop where
  ready : Ready (withK k) k rs
  ok : P k

def kq : Task := { kx 7 6 with ord := { k0.ord with rtq := [9, 8], nrq := [77] } }

theorem witness_queue_operations : MetQ (.cqp 2 5) kq ∧ MetQ (.cqpb 0 5) kq ∧ MetQ (.firstn 2 5 6 0 511) (kx 16384 6) ∧
    MetQ (.rows 2 5 6 31 511) (kx 32 6) ∧ MetQ (.cols 2 5 6 31 511) (kx 512 6) ∧ MetQ (.rect 2 5 6 31 511) (kx 32 512) ∧
    MetQ (.rqpop 5 9 [8]) kq ∧ MetQ (.npop 5 77 []) kq ∧ MetQ (.bnd 2 7) kq ∧ MetQ (.bndAll 7) kq ∧ MetQ (.fmtp 5 0) kq := by
  and_intros <;> exact ⟨⟨rfl, rfl⟩, by first | decide +kernel | (unfold hasRoom; decide +kernel)⟩

structure MetC {i : Instr} {rs : List Reg} {P : State → Task → Prop} {f : State → Task → Task} (_ : IsContextOp i rs P f) (k : Task) :
    Prop where
  ready : Ready (withK k) k rs
  ok : P (withK k) k

def kc : Task := { kx 7 6 with results := [(4, [{ seq := 3, word := 99, range := [] }])] }
/-- With an entry that has not left its queue. -/
def kBusy : Task :=
  { kc with ord := { kc.ord with cmq := { kc.ord.cmq with entries := [{ instr := .nop, pos := 0, pc := 0, h := Handle.invalid, xa := 0, xb := 0, seed := 0, popped := none }] } } }

theorem witness_context_operations : MetC .nop kc ∧ MetC .yield kc ∧ MetC .tend kBusy ∧ MetC .tendDone kc ∧ MetC (.hrel 3) kc ∧ MetC (.tstat 5 6) kc ∧
    MetC (.tstatP 5) kc ∧ MetC (.cbw 15 5) kc ∧ MetC .cbclr kc ∧ MetC (.cepop 5 4 { seq := 3, word := 99, range := [] } []) kc ∧
    MetC .join kc ∧ MetC (.fenceM 0 1) kc ∧ MetC (.semrd 5 255) kc ∧ MetC (.semw 5 6 255) kc ∧ MetC (.fflags 5) kc ∧
    MetC (.srd 5 0x033) kc ∧ MetC (.swr 5 0) kc := by
  and_intros <;> exact ⟨⟨rfl, rfl⟩, by decide +kernel⟩

structure MetR {i : Instr} {P : State → Task → Prop} {c : Byte} {a : Task → Nat} {d : State → Task → W64} (_ : Raises i P c a d) (k : Task)
    (g : State → State := id) : Prop where
  task : find (g (withK k)).tasks (g (withK k)).cur = some k
  ok : P (g (withK k)) k

def kTrap : Task := { k0 with inTrap := true }
def kFw : Task := { k0 with fw := true }
def kFull : Task := { k0 with ord := { k0.ord with ctqCm := List.replicate 32 { kind := .scalar, val := 0 } } }
def kFmt : Task := { k0 with fmtq := List.replicate 16 (0, 0) }

theorem witness_raises : MetR (.trap 7) k0 ∧ MetR (.opcode 4) k0 ∧ MetR (.reserved 0) k0 ∧ MetR (.misaligned 0) k0 ∧ MetR (.operand 0) k0 ∧
    MetR .orphan k0 ∧ MetR (.shli 5 6 64) k0 ∧ MetR (.shri 5 6 64) k0 ∧ MetR (.sari 5 6 64) k0 ∧ MetR (.qdepth 5 14) k0 ∧
    MetR (.pbr 8 4) k0 ∧ MetR (.pbr 0 2) k0 ∧ MetR (.brt 8) k0 ∧ MetR (.brtNz 8 5) k0 ∧ MetR (.brtZ 8 5) k0 ∧
    MetR .ret { k0 with x := [(63, 2)] } ∧ MetR (.loop 4 5 3) k0 ∧ MetR (.endl 4 3) k0 ∧ MetR .tend kTrap ∧ MetR .tend kFw ∧
    MetR .eret k0 ∧ MetR (.cqp 3 5) k0 ∧ MetR (.cqpb 3 5) k0 ∧ MetR (.cqpm 3 5 6 0 0 0) k0 ∧ MetR (.bnd 4 7) k0 := by
  and_intros <;>
    exact ⟨rfl, by decide +kernel⟩

theorem witness_raises_more : MetR (.rqpop 5) k0 ∧ MetR (.npop 5) k0 ∧ MetR (.cqpFull 1 5) kFull ∧ MetR (.fmtp 5 6) k0 ∧
    MetR (.fmtpFull 5 0) kFmt ∧ MetR (.cbw 16 5) k0 ∧ MetR .fenceM k0 ∧ MetR (.fenceC 5 1) k0 ∧ MetR (.fenceC 4 0) k0 ∧
    MetR (.srdNone 5 7) k0 ∧ MetR (.srdHigh 5 0x800) k0 ∧ MetR (.swrHigh 5 0x800) k0 ∧ MetR (.swrRo 5 4) k0 ∧ MetR (.tstat 5 6) kFw ∧
    MetR (.tsettle 5 6 7) kFw ∧ MetR (.xlt 3 5 6) (kx (2 ^ 52) 6) ∧ MetR (.xltn 3 5) (kx 77 6) ∧ MetR (.nrel 5) (kx 77 6) ∧
    MetR (.shand 5 6) (kx 8 6) ∧ MetR (.shand 5 6) (kx 7 (2 ^ 20)) ∧ MetR (.shandRight 5 6) (kx 7 (2 ^ 20 - 1)) ∧
    MetR (.semw 5 6 200) (kx 5 (2 ^ 31)) ∧ MetR (.semwAbort 5 6 200) (kx 5 6) (fun s => s.setSem 0 200 (-5)) ∧ MetR (.cepop 5 4) k0 := by
  and_intros <;>
    exact ⟨by decide +kernel, by decide +kernel⟩

/-- A transfer in context k, taken where fetch may land if m is set. -/
structure MetT {i : Instr} {x : Transfer} (_ : IsTransfer i x) (k : Task) (m : Bool) : Prop where
  ready : Ready (img (withK k)) k x.regs
  ok : x.ok k
  taken : m = true → x.taken k ∧ ((img (withK k)).fetch k (x.target k)).isSome
  notTaken : m = false → ¬x.taken k
  lands : MayLand (img (withK k)) k (x.target k)

/-- Fetch may land behind a 32-bit word that is no prefix. -/
theorem landsOk {s : State} {k : Task} {a : Nat} (h : (match s.fetch k (a - 4) with | some w => w % 4 == 0 | none => true) = true) :
    MayLand s k a := by
  intro w hw
  rw [hw] at h
  simp only [beq_iff_eq] at h
  exact ⟨by omega, by omega⟩

def kt (a b : W64) : Task := { kx a b with b := [(7, BitVec.ofNat 64 (windowBase 0 + 0x804))], lc := [(3, b)] }

theorem witness_transfers : MetT (.br (-512)) k0 true ∧ MetT (.call (-512)) k0 true ∧ MetT (.beq 5 6 4) (kt 7 7) true ∧
    MetT (.beq 5 6 4) (kt 7 8) false ∧ MetT (.bne 5 6 4) (kt 7 8) true ∧ MetT (.bne 5 6 4) (kt 7 7) false ∧
    MetT (.blt 5 6 4) (kt (-7) 8) true ∧ MetT (.blt 5 6 4) (kt 7 7) false ∧ MetT (.bge 5 6 4) (kt 7 7) true ∧
    MetT (.bge 5 6 4) (kt (-7) 8) false ∧ MetT (.bltu 5 6 4) (kt 7 (-8)) true ∧ MetT (.bltu 5 6 4) (kt (-7) 8) false ∧
    MetT (.bgeu 5 6 4) (kt (-7) 8) true ∧ MetT (.bgeu 5 6 4) (kt 7 (-8)) false := by
  and_intros <;>
    exact ⟨⟨rfl, rfl⟩, by decide +kernel, by decide +kernel, by decide +kernel, landsOk (by decide +kernel)⟩

theorem witness_transfers_more : MetT (.brt 7) (kt 7 8) true ∧ MetT (.brtNz 7 5) (kt 7 8) true ∧ MetT (.brtNz 7 5) (kt 0 8) false ∧
    MetT (.brtZ 7 5) (kt 0 8) true ∧ MetT (.brtZ 7 5) (kt 7 8) false ∧
    MetT .ret { k0 with x := [(63, BitVec.ofNat 64 (windowBase 0 + 0x880))] } true ∧ MetT (.loop 3 5 7) (kt 0 8) true ∧
    MetT (.loop 3 5 7) (kt 5 8) false ∧ MetT (.endl 3 (-7)) (kt 5 2) true ∧ MetT (.endl 3 (-7)) (kt 5 1) false := by
  and_intros <;> exact ⟨⟨rfl, rfl⟩, by decide +kernel, by decide +kernel, by decide +kernel, landsOk (by decide +kernel)⟩

/-- Transfers to where fetch may not land: outside the image, into a 64-bit word, behind a prefix. -/
theorem witness_landings : (img (withK k0)).fetch k0 (away k0 (-513)) = none ∧
    (let s : State := { img (withK k0) with mem := [(0x880, 1)] }
     (s.fetch k0 (away k0 33)).isSome ∧ away k0 33 % 8 = 4 ∧ s.fetch k0 (away k0 33 - 4) = some 1) ∧
    (let s : State := { img (withK k0) with mem := [(0x884, 2)] }
     (s.fetch k0 (away k0 34)).isSome ∧ s.fetch k0 (away k0 34 - 4) = some 2 ∧ away k0 34 % 8 = 0 ∧
     s.fetch k0 (away k0 34 - 8) = some 0) := by
  refine ⟨?_, ?_, ?_⟩ <;> decide +kernel

theorem witness_prepare_branch : Ready (withK k0) k0 [] ∧ (7 : Reg).toNat ≤ 7 ∧ (4096 : W32).toNat % 4 = 0 := ⟨⟨rfl, rfl⟩, by decide, by decide⟩

/-! #### Scalar memory -/

/-- With a slot whose image is one page at a physical address. -/
def imgAt (a : Nat) (s : State) : State :=
  { s with hif := { s.hif with slots := [(0, { RSlot.empty with state := .resident, isize := 65536, image := [a] })] } }

/-- A handle of one page, its TLB entry, and an access through it. -/
def te : TlbEntry :=
  { idx := 3, asc := 0, va := 0x100000, base := 0x10000, size := 65536, r := true, w := true, hot := 0, gen := 5, last := 0x10000 }
def hd1 : Handle :=
  { Handle.invalid with v := true, base := 0x10000, size := 65536, r := true, w := true, entry := some (3, 5), va := 0x100000 }
def withH1 (h : Handle) : Task := { kx 7 0x100 with h := [(4, h)] }
def acc (xo : Reg) (imm : W32) : SM := { pfx := none, cls := 3, h := 4, xo := xo, x := 5, imm := imm }

/-- The access ends at the last byte of the page, or begins at its first. -/
theorem witness_loads : IsLoad (.ldd (acc 6 0xFEF8)) (acc 6 0xFEF8) 8 false ∧ Ready (withK (withH1 hd1)) (withH1 hd1) [6, 5] ∧
    ((withH1 hd1).slice.filter isLoad).length < 8 ∧ passes (withH1 hd1) (acc 6 0xFEF8) 8 Handle.r ∧ isDevReg ((withH1 hd1).rh 4).base = false :=
  ⟨.ldd _, ⟨rfl, rfl⟩, by decide, by unfold passes; decide +kernel, by decide +kernel⟩

theorem witness_stores : IsStore (.stb (acc 6 (-256))) (acc 6 (-256)) 1 ∧ ((withH1 hd1).slice.filter isWrite).length < 16 ∧
    passes (withH1 hd1) (acc 6 (-256)) 1 Handle.w ∧ (withK (withH1 hd1)).readOnly (physical (withH1 hd1) (acc 6 (-256))) 1 = false :=
  ⟨.stb _, by decide, by unfold passes; decide +kernel, by decide +kernel⟩

theorem witness_access_rows (f : SM) : IsLoad (.ldb f) f 1 false ∧ IsLoad (.ldbs f) f 1 true ∧ IsLoad (.ldh f) f 2 false ∧
    IsLoad (.ldhs f) f 2 true ∧ IsLoad (.ldw f) f 4 false ∧ IsLoad (.ldws f) f 4 true ∧ IsStore (.sth f) f 2 ∧ IsStore (.stw f) f 4 ∧
    IsStore (.std f) f 8 := ⟨.ldb f, .ldbs f, .ldh f, .ldhs f, .ldw f, .ldws f, .sth f, .stw f, .std f⟩

/-- Validity, range on both sides, permission. -/
theorem witness_access_faults : ((withH1 Handle.invalid).rh 4).v = false ∧ offset (withH1 hd1) (acc 6 (-257)) = -1 ∧
    offset (withH1 hd1) (acc 6 0xFEF9) + 8 = 65537 ∧ ((withH1 hd1).rh 4).size = 65536 ∧ ((withH1 { hd1 with w := false }).rh 4).w = false ∧
    (imgAt 0x10000 (withK (withH1 hd1))).readOnly (physical (withH1 hd1) (acc 6 0xFEF8)) 8 = true := by
  decide +kernel

/-- A load whose bytes are all to come, and one of which one byte has been read before a write poisoned it. -/
def kRet (seen : List (Nat × Byte × Bool)) : Task := { k0 with slice := [.load 5 0x10001 8 true 0 0 seen, .fence 0 1] }
theorem witness_load_returns : find (withK (kRet [])).tasks 192 = some (kRet []) ∧ (withK (kRet [])).held 0x10001 8 = false ∧
    (∀ j, j < 8 → (loaded (withK (kRet [])) [] (0x10001 + j)).2 = false) ∧
    (loaded ((withK (kRet [])).poisonAll [0x10003]) [(0x10003, 9, false)] 0x10003) = (9, false) := by
  decide +kernel

def kWrite : Task := { k0 with stqOut := [.fence 0 1, .write [(0x10003, 5), (0x10003, 9)] 3 7 8] }
theorem witness_write_performs : find (withK kWrite).tasks 192 = some kWrite ∧
    kWrite.stqOut[1]? = some (.write [(0x10003, 5), (0x10003, 9)] 3 7 8) ∧
    mayPerform (.write [(0x10003, 5), (0x10003, 9)] 3 7 8) (kWrite.stqOut.take 1) = true ∧
    (∀ c ∈ [((0x10003 : Nat), (5 : Byte)), (0x10003, 9)], mapped c.1 = true ∧ (withK kWrite).heldAt c.1 = false) := by
  decide +kernel

/-- A write over two chunks, of which the second goes first. -/
def kParts : Task := { k0 with stqOut := [.write [(0x10007, 5), (0x10008, 9)] 3 7 8] }
theorem witness_write_in_part : kParts.stqOut[0]? = some (.write [(0x10007, 5), (0x10008, 9)] 3 7 8) ∧
    [((0x10007 : Nat), (5 : Byte)), (0x10008, 9)].filter (fun c => whichItem false 8 2 [0x10007, 0x10008] c.1) = [(0x10008, 9)] ∧
    [((0x10007 : Nat), (5 : Byte)), (0x10008, 9)].filter (fun c => !whichItem false 8 2 [0x10007, 0x10008] c.1) = [(0x10007, 5)] := by
  decide +kernel

/-! #### Handles and names -/

def tlbS (k : Task) : State := { withK k with cores := [(0, { Core.empty with tlb := [te], tlbGen := [(3, 5)] })] }

theorem witness_translation_hit : Ready (tlbS (kx 0x10FFFF 6)) (kx 0x10FFFF 6) [5, 6] ∧
    ((tlbS (kx 0x10FFFF 6)).core 0).lookup 0 0x10FFFF = some te ∧ (tlbS (kx 0x10FFFF 6)).handingAt te.base = false ∧
    (tlbS (kx 0x10FFFF 6)).foreign 0 te.base = false ∧ reservedPage te.base te.size = false ∧ isDevReg te.base = false :=
  ⟨⟨rfl, rfl⟩, by decide +kernel⟩

theorem witness_translation_miss : ((tlbS (kx 0x110000 6)).core 0).lookup 0 0x110000 = none := by decide +kernel

def kWalk (va : Nat) : Task := { k0 with walk := some va }
def mapS (k : Task) : State :=
  { withK k with hif := { State.reset.hif with slots := [(0, { RSlot.empty with isize := 0x20000, image := [0x50000, 0x70000], mapOk := true })] } }

theorem witness_walks : find (mapS (kWalk (windowBase 0 + 0x1ABCD))).tasks 192 = some (kWalk (windowBase 0 + 0x1ABCD)) ∧
    (∃ l, (mapS (kWalk (windowBase 0 + 0x1ABCD))).walk 0 (windowBase 0 + 0x1ABCD) = .leaf l) ∧ (mapS (kWalk 5)).walk 0 5 = .absent :=
  ⟨rfl, ⟨{ base := 0x70000, size := 65536, r := true, w := false, pin := false }, by decide +kernel⟩, by decide +kernel⟩

/-- A block of 16 KiB in channel 3 of site 0, with its name. -/
def nm0 : Nat := mkName 0 3 16 5
def kName : Task := { kx (BitVec.ofNat 64 nm0) 6 with h := [(4, { hd1 with name := some nm0 })] }
def blockS (k : Task) : State :=
  { withK k with site0 := { State.reset.site0 with arena := (List.range 4).map fun i => (unitKey 3 (16 + i),
      { AUnit.none with exist := true, gen := 5, size := if i = 0 then 16384 else 0 }), rights := [0] } }

theorem witness_names : Ready (blockS kName) kName [5] ∧ (blockS kName).handing (nameSite nm0) = false ∧
    (blockS kName).blockOf 0 nm0 = some 16384 ∧ ((blockS kName).site (nameSite nm0)).owner = kName.die :=
  ⟨⟨rfl, rfl⟩, by decide +kernel⟩

theorem witness_hand_over : Ready (blockS (kx 0 0xFFFFF)) (kx 0 0xFFFFF) [5, 6] ∧
    ((blockS (kx 0 0xFFFFF)).site 0).rights.contains ((blockS (kx 0 0xFFFFF)).ascOf (kx 0 0xFFFFF)) = true ∧
    (blockS (kx 0 0xFFFFF)).handing 0 = false ∧ ((blockS (kx 0 0xFFFFF)).site 0).owner = 0 ∧
    (blockS (kx 0 0xFFFFF)).underReset (fileDie ((blockS (kx 0 0xFFFFF)).fileOf (kx 0 0xFFFFF))) = false ∧ performed k0.slice = true :=
  ⟨⟨rfl, rfl⟩, by decide +kernel⟩

/-- A block on its way back, with nothing left that uses it. -/
def leavingS : State := { withK k0 with site0 := { State.reset.site0 with used := [(0, 4)], arena := (List.range 4).map fun i => (unitKey 3 (16 + i),
      { AUnit.none with exist := true, gen := 6, size := if i = 0 then 16384 else 0, leaving := decide (i = 0) }) } }

theorem witness_block_freed : (get AUnit.none (leavingS.site 0).arena (unitKey 3 16)).leaving = true ∧ leavingS.handing 0 = false ∧
    (get AUnit.none (leavingS.site 0).arena (unitKey 3 16)).size = 16384 ∧
    (∀ e ∈ leavingS.tasks, ∀ a ∈ e.2.slice ++ e.2.ldqOut ++ e.2.stqOut, a.touches (arenaAddr 0 3 16) 16384 = false) ∧
    (∀ e ∈ leavingS.ce.cmds, e.2.state = .ended ∨ mkName 0 3 16 5 ∉ e.2.names) := by
  refine ⟨by decide +kernel, by decide +kernel, by decide +kernel, ?_, ?_⟩
  · intro e he; simp only [leavingS, withK, List.mem_singleton] at he; subst he; intro a ha; cases ha
  · intro e he; cases he

/-! #### Semaphores, the barograph, commands, launches, fences -/

/-- A sum that stays in range, and an aborted counter. -/
theorem witness_signals : Ready (withK (kx 0x7FFFFFFF 6)) (kx 0x7FFFFFFF 6) [9, 5] ∧
    (0 : Int) ≤ ((withK (kx 0x7FFFFFFF 6)).sem 0 200).toInt ∧ ((withK (kx 0x7FFFFFFF 6)).sem 0 200).toInt + (kx 0x7FFFFFFF 6 |>.rx 5).toInt < 2 ^ 31 ∧
    (((withK (kx (-5) 6)).setSem 0 200 (-7)).sem 0 200).toInt < 0 :=
  ⟨⟨rfl, rfl⟩, by decide +kernel⟩

theorem witness_barograph : firstOfCycle { withK (kx 5 6) with time := 9 } ∧
    (∀ t, get 0 ({ withK (kx 5 6) with time := 9 }.core (kx 5 6).coreKey).baroAt (kx 5 6).ctx = t + 1 → t + 256 ≤ 9) :=
  ⟨by unfold firstOfCycle; decide +kernel, by
    intro t h
    have h0 : get 0 ({ withK (kx 5 6) with time := 9 }.core (kx 5 6).coreKey).baroAt (kx 5 6).ctx = 0 := by decide +kernel
    omega⟩

/-- An entry, and the same entry issued. -/
def ent (i : Instr) : Entry := { instr := i, pos := 0, pc := windowBase 0 + 0x900, h := Handle.invalid, xa := 0, xb := 0, seed := 0, popped := none }
def gone (i : Instr) : Issued :=
  { entry := ent i, holding := true, busy := false, skipped := false, flags := 3, push := none, fills := [], got := [], olds := [], oldm := [] }
def kFlags : Task := { k0 with ord := { k0.ord with cmq := { k0.ord.cmq with issued := [gone .nop] } } }
theorem witness_flags_in_flight : Ready (withK kFlags) kFlags [5] ∧ kFlags.ord.inFlight ++ kFlags.hnd.inFlight ≠ [] :=
  ⟨⟨rfl, rfl⟩, by decide +kernel⟩

/-- PREFETCH without an entry, as the builder has it and as a template with doubleword 2 from the builder. -/
def kCmd : Task := { kx 0x400000080 6 with cb := [(0, 0x106)], slice := [.load 30 0x1000 8 false 3 0 []] }
def tmplS (k : Task) : State :=
  { withK k with hif := { State.reset.hif with slots := [(0, { RSlot.empty with tmpl := [0x50000], tmplLen := 256 })] },
                 mem := [(0x50080, 6), (0x50081, 1), (0x50090, 9)] }

/-- What CEGO waits for has been performed where no store is left; the load of kCmd may be (R325). -/
theorem storesOut_of {k : Task} {m : W16} (h : k.released m = true) : storesOut k m := by
  intro cells c w p hm
  simpa using List.all_eq_true.mp h _ hm

theorem witness_storesOut : storesOut kCmd 0xFFFF := storesOut_of (by decide +kernel)

theorem witness_commands : cmdOk ((List.range 16).map fun n => get 0 kCmd.cb n) = true ∧ (withK kCmd).fifoLen kCmd.die 2 < 64 ∧
    bits (dwOf ((List.range 16).map fun n => get 0 kCmd.cb n) 0) 8 8 = 1 ∧
    (kCmd.rx 5).toNat % 2 ^ 32 + 128 ≤ ((tmplS kCmd).rslot ((tmplS kCmd).slotOf kCmd)).tmplLen ∧
    ((List.range 16).all fun n => !((tmplS kCmd).template ((tmplS kCmd).slotOf kCmd) 128 n).2) = true ∧
    (∀ p ∈ (tmplS kCmd).templateAt ((tmplS kCmd).slotOf kCmd) 128, (tmplS kCmd).heldAt p = false) ∧
    cmdOk ((List.range 16).map fun n => if (kCmd.rx 5).getLsbD (32 + n) then get 0 kCmd.cb n
      else ((tmplS kCmd).template ((tmplS kCmd).slotOf kCmd) 128 n).1) = true := by
  decide +kernel

theorem witness_launch : performed k0.slice = true ∧ (withK k0).poolOcc k0.die < ((withK k0).pool k0.die).hwm ∧
    ((withK k0).pool k0.die).ring = [] ∧ ((withK k0).pool k0.die).waiting.contains ((withK k0).cur, k0.pc) = false := by
  decide +kernel

theorem witness_fence : ((dropFences k0.slice).filter Access.isFence).length < 16 ∧ (∀ q, q ≤ 2 → (k0.fencesLeft k0.inTrap q).length < 16) :=
  ⟨by decide, by intro q h; interval_cases q <;> decide +kernel⟩

def tl0 : TSlot :=
  { TSlot.empty with state := .live, owner := 192, declared := 9, shares := [(192, 3)], gen := 255, data := 0x123456789ABCDEF }
def kTile : Task := { kx 3 8 with partBase := 4, partSize := 8 }
def tileS (k : Task) (t : TSlot) : State := { withK k with cores := [(0, { Core.empty with slots := [(7, t)] })] }

theorem witness_settle : Ready (tileS kTile tl0) kTile [9, 5, 6] ∧ kTile.tilesRead = true ∧ (tileS kTile tl0).view 192 kTile 3 = .tile tl0 ∧
    kTile.mmaReads 3 = false ∧ noReads (tileS kTile tl0) 192 3 ∧ shareOf tl0.shares 192 ≠ 0 :=
  ⟨⟨rfl, rfl⟩, by decide +kernel, rfl, by decide +kernel, fun p hp a ha => by
    simp only [tileS, withK, List.mem_singleton] at hp
    subst hp; exact absurd ha (List.not_mem_nil), by decide +kernel⟩

/-! #### Traps -/

def kHnd : Task := { k0 with tvec := 64 }
theorem witness_trap_entry : taker 0x05 = .handler ∧ kHnd.tvec ≠ 0 ∧ kHnd.inTrap = false ∧ kHnd.drained = true ∧
    { kHnd with ord := kFlags.ord }.drained = false := by
  decide +kernel

/-- Never taken by a handler, no handler, in a handler. -/
theorem witness_fatal : taker 0x40 = .never ∧ taker 0x05 = .handler ∧ k0.tvec = 0 ∧ kTrap.inTrap = true ∧ k0.esem = none ∧
    ((withK k0).packet 0).cluster = false ∧ ((withK k0).packet 0).status = 0 := by
  decide +kernel

def kEret (info : W64) : Task :=
  { k0 with inTrap := true, tvec := 64, tpc := 0x880, tinfo := info, tcause := 9,
            ord := { k0.ord with cmq := { k0.ord.cmq with entries := [ent .nop] } } }

theorem witness_return : Ready (img (withK (kEret 0x20000000))) (kEret 0x20000000) [] ∧ (kEret 0x20000000).hnd.allDone = true ∧
    (kEret 0x20000000).ord.faulted = false ∧ (kEret 0x20000000).tinfo.getLsbD 0 = false ∧
    ((img (withK (kEret 0x20000000))).fetch (kEret 0x20000000) (windowBase 0 + 0x880)).isSome = true ∧
    (kEret 0x20000000).hnd.nrq = [] ∧ (kEret 0x20000000).hnd.names = [] ∧ (kEret 0x20000000).mma = none ∧
    MayLand (img (withK (kEret 0x20000000))) (kEret 0x20000000) (windowBase 0 + 0x880) :=
  ⟨⟨rfl, rfl⟩, by decide +kernel, by decide +kernel, by decide +kernel, by decide +kernel, rfl, rfl, rfl, landsOk (by decide +kernel)⟩

theorem witness_skip : (kEret 0x20000001).tinfo.getLsbD 0 = true ∧ (kEret 0x20000001).tinfo.toNat / 2 ^ 28 % 16 = 1 + 1 ∧
    (kEret 0x20000001).tcause ≠ 0x1B ∧ ((kEret 0x20000001).ord.rq 1).entries ≠ [] := by
  decide +kernel

/-! #### Heads of the routed queues -/

/-- Entry e of instruction i at the head of queue q of the ordinary set of context k, with one behind it and CTQ entries. -/
def headK (k : Task) (q : Nat) (e : Entry) (ctq : List CtqEntry) : Task :=
  { k with ord := ((k.ord.setRq q { k.ord.rq q with entries := [e, ent .nop] }).setCtq q ctq) }

def fL : VM := { pfx := none, tok := 0, mask := 0, ty := 0, cls := 0, h := 4, xo := 0, v := 1, tail := 0 }
def headS (s : State) (q : Nat) : State := { s with turn := .head q false }

def headVals (i : Instr) (k : Task) (q : Nat) (e : Entry) : List CtqEntry :=
  match gate i (k.set false) q e with | .run v => v | _ => []

def headNext (i : Instr) (s : State) (k : Task) : State := (s.claims s.cur k (i.units k)).2

/-- The hypotheses of AtHead, evaluated. -/
def headOk (i : Instr) (s : State) (q : Nat) (k : Task) (e : Entry) : Bool :=
  decide (s.turn = .head q false) && decide (find s.tasks s.cur = some k) && decide (((k.set false).rq q).entries = [e, ent .nop]) &&
    decide (e.instr = i) && k.headsRun false && ((k.set false).rq q).open &&
    (match gate i (k.set false) q e with | .run _ => true | _ => false) && !operandWait s s.cur k i ((k.set false).rq q) &&
    !fenceWait k q ((k.set false).rq q) e i && decide (((k.set false).rq q).issued.length < 16) && (s.claims s.cur k (i.units k)).1 &&
    !k.starved i && decide (racing ((k.set false).others q) (i.reads ++ i.writes) = ([], [])) &&
    (match i.counted with
     | none => true
     | some T => !countBad T (countOf i.pfx (takenOf i.pfx i.fields (headVals i k q e)).pfx))

theorem headOk_sound {i : Instr} {s : State} {q : Nat} {k : Task} {e : Entry} (h : headOk i s q k e = true) :
    AtHead i s q false k e [ent .nop] (headVals i k q e) (headNext i s k) := by
  simp only [headOk, Bool.and_eq_true, decide_eq_true_eq, Bool.not_eq_true'] at h
  obtain ⟨⟨⟨⟨⟨⟨⟨⟨⟨⟨⟨⟨⟨h1, h2⟩, h3⟩, h4⟩, h5⟩, h6⟩, h7⟩, h8⟩, h9⟩, h10⟩, h11⟩, h13⟩, h14⟩, h12⟩ := h
  refine ⟨h1, h2, h3, h4, h5, h6, ?_, h8, h9, fun _ => h10, ?_, h13, h14, ?_⟩
  · unfold headVals; split at h7
    · rename_i v hv; rw [hv]
    · cases h7
  · exact Prod.ext h11 rfl
  · intro T hT; rw [hT] at h12; simpa using h12

/-- Instruction i at its head in a plain context. -/
def plainHead (i : Instr) (q : Nat) (ctq : List CtqEntry := [{ kind := .scalar, val := 5 }]) : Bool :=
  headOk i (headS (withK (headK k0 q (ent i) ctq)) q) q (headK k0 q (ent i) ctq) (ent i)

def fF : V4 := v4 none 0 0 0 1 2 3 4
def fI : V4 := v4 none 0 0 9 1 2 3 4

theorem witness_vector_elements : ([.vadd fF, .vsub fF, .vmul fF, .vfma fF, .vfnma fF, .vmin fF, .vmax fF, .vabs fF, .vneg fF, .vclamp fF,
    .vrcp fF, .vrsq fF, .vexp2 fF, .vlog2 fF, .vmov fF, .viadd fI, .visub fI, .vimul fI, .vimad fI, .vand fI, .vor fI, .vxor fI, .vnot fI,
    .vshl fI, .vshr fI, .vsar fI, .vimin fI, .vimax fI, .vrmax fF, .vrmin fF, .vrsum fF, .vcsum fF, .vshuf fF, .vrot { fF with vb := 768 },
    .vtrn fF] : List Instr).all (fun i => plainHead i 1) = true := by decide +kernel

theorem witness_lane_rows : (∃ r, IsLane (.vadd fF) fF r) ∧ (∃ r, IsLane (.vsub fF) fF r) ∧ (∃ r, IsLane (.vmul fF) fF r) ∧
    (∃ r, IsLane (.vfma fF) fF r) ∧ (∃ r, IsLane (.vfnma fF) fF r) ∧ (∃ r, IsLane (.vmin fF) fF r) ∧ (∃ r, IsLane (.vmax fF) fF r) ∧
    (∃ r, IsLane (.vabs fF) fF r) ∧ (∃ r, IsLane (.vneg fF) fF r) ∧ (∃ r, IsLane (.vclamp fF) fF r) ∧ (∃ r, IsLane (.vrcp fF) fF r) ∧
    (∃ r, IsLane (.vrsq fF) fF r) ∧ (∃ r, IsLane (.vexp2 fF) fF r) ∧ (∃ r, IsLane (.vlog2 fF) fF r) ∧ (∃ r, IsLane (.vmov fF) fF r) ∧
    (∃ r, IsLane (.viadd fI) fI r) ∧ (∃ r, IsLane (.visub fI) fI r) ∧ (∃ r, IsLane (.vimul fI) fI r) ∧ (∃ r, IsLane (.vimad fI) fI r) :=
  ⟨⟨_, .vadd _⟩, ⟨_, .vsub _⟩, ⟨_, .vmul _⟩, ⟨_, .vfma _⟩, ⟨_, .vfnma _⟩, ⟨_, .vmin _⟩, ⟨_, .vmax _⟩, ⟨_, .vabs _⟩, ⟨_, .vneg _⟩,
    ⟨_, .vclamp _⟩, ⟨_, .vrcp _⟩, ⟨_, .vrsq _⟩, ⟨_, .vexp2 _⟩, ⟨_, .vlog2 _⟩, ⟨_, .vmov _⟩, ⟨_, .viadd _⟩, ⟨_, .visub _⟩, ⟨_, .vimul _⟩,
    ⟨_, .vimad _⟩⟩

theorem witness_lane_rows_more : (∃ r, IsLane (.vand fI) fI r) ∧ (∃ r, IsLane (.vor fI) fI r) ∧ (∃ r, IsLane (.vxor fI) fI r) ∧
    (∃ r, IsLane (.vnot fI) fI r) ∧ (∃ r, IsLane (.vshl fI) fI r) ∧ (∃ r, IsLane (.vshr fI) fI r) ∧ (∃ r, IsLane (.vsar fI) fI r) ∧
    (∃ r, IsLane (.vimin fI) fI r) ∧ (∃ r, IsLane (.vimax fI) fI r) ∧ (∃ r, IsLane (.vrmax fF) fF r) ∧ (∃ r, IsLane (.vrmin fF) fF r) ∧
    (∃ r, IsLane (.vrsum fF) fF r) ∧ (∃ r, IsLane (.vcsum fF) fF r) ∧ (∃ r, IsLane (.vshuf fF) fF r) ∧ (∃ r, IsLane (.vrot fF) fF r) ∧
    (∃ r, IsLane (.vtrn fF) fF r) :=
  ⟨⟨_, .vand _⟩, ⟨_, .vor _⟩, ⟨_, .vxor _⟩, ⟨_, .vnot _⟩, ⟨_, .vshl _⟩, ⟨_, .vshr _⟩, ⟨_, .vsar _⟩, ⟨_, .vimin _⟩, ⟨_, .vimax _⟩,
    ⟨_, .vrmax _⟩, ⟨_, .vrmin _⟩, ⟨_, .vrsum _⟩, ⟨_, .vcsum _⟩, ⟨_, .vshuf _⟩, ⟨_, .vrot _⟩, ⟨_, .vtrn _⟩⟩

theorem witness_row_forms : plainHead (.vsel fF) 1 = true ∧ plainHead (.vrscan fF) 1 = true ∧
    headOk (.vsel { fF with pfx := some (.pxc 1 32 0) }) (headS (withK (headK k0 1 (ent (.vsel { fF with pfx := some (.pxc 1 32 0) })) [])) 1) 1
      (headK k0 1 (ent (.vsel { fF with pfx := some (.pxc 1 32 0) })) []) (ent (.vsel { fF with pfx := some (.pxc 1 32 0) })) = true := by
  decide +kernel

theorem witness_masks : plainHead (.vcmp 2 fF) 1 = true ∧ isSink fF.vd = false ∧ fF.vd.toNat ≠ 0 ∧
    ([0, 1, 2, 3, 4, 5] : List VField).all (fun c => plainHead (.vmsk { fF with vc := c }) 1) = true ∧
    plainHead (.vmaskq fF) 1 [{ kind := .maskDesc, val := 0x4800_0C00_0000_0000 }] = true ∧ descBad 0x4800_0C00_0000_0000 0 = false := by
  decide +kernel

theorem witness_defer : plainHead (.vdefer { fF with vd := 0 }) 1 = true ∧ plainHead (.vdefer fF) 1 = true ∧ plainHead (.vdrain { fF with va := 0 }) 1 = true ∧
    k0.dq0.length + 2048 ≤ 4096 := by
  decide +kernel

theorem witness_return_value : ([0, 1, 2] : List VField).all (fun c => plainHead (.vret { fF with vc := c }) 1) = true ∧
    (k0.set false).rtq.length + ((k0.set false).cmq.issued.filter fun i => i.push.isSome).length < 16 := by
  decide +kernel

/-- A head that waits for a token, one with a CTQ entry of a wrong kind, and one that its predicate skips. -/
def vAdd (p : Option Pfx) (tok : BitVec 4) (a : VField) : Instr := .vadd { fF with pfx := p, tok := tok, va := a }
theorem witness_waits : ((headK k0 1 (ent (vAdd none 1 2)) []).set false).cmq.open = true ∧ (headK k0 1 (ent (vAdd none 1 2)) []).headsRun false = true ∧
    (match gate (vAdd none 1 2) ((headK k0 1 (ent (vAdd none 1 2)) []).set false) 1 (ent (vAdd none 1 2)) with
     | .wait 1 => true | _ => false) = true ∧
    serve [{ kind := .pred, val := 1 }] (vAdd none 0 768).demands = some [{ kind := .pred, val := 1 }] ∧
    kindsOk [{ kind := .pred, val := 1 }] (vAdd none 0 768).demands = false ∧
    (match gate (vAdd (some .pxp) 0 2) ((headK k0 1 (ent (vAdd (some .pxp) 0 2)) [{ kind := .pred, val := 0 }]).set false) 1
       (ent (vAdd (some .pxp) 0 2)) with | .skip => true | _ => false) = true := by
  decide +kernel

/-- A head that awaits its unit, one behind a fence point, and a predicate that is none. -/
def kUnit : Task :=
  let k := headK k0 1 (ent (vAdd none 0 2)) []
  k.withSet false (k.ord.setRq 1 { k.ord.cmq with issued := [{ gone (vAdd none 0 5) with holding := true }] })
def eL : Entry := { ent (.vld fL) with pos := 2 }
def kFence : Task :=
  let k := headK { k0 with ldqOut := [.read [(0, 64)] 0 0, .fence 0 1] } 0 eL []
  k.withSet false (k.ord.setRq 0 { k.ord.ldq with fences := [(1, 1)] })
theorem witness_operand_waits : operandWait (withK kUnit) 192 kUnit (vAdd none 0 2) (kUnit.set false).cmq = true ∧
    (kUnit.set false).cmq.entries.head? = some (ent (vAdd none 0 2)) ∧ kUnit.headsRun false = true ∧ (kUnit.set false).cmq.open = true ∧
    kUnit.starved (vAdd none 0 2) = false ∧
    (match gate (vAdd none 0 2) (kUnit.set false) 1 (ent (vAdd none 0 2)) with | .run _ => true | _ => false) = true ∧
    fenceWait kFence 0 (kFence.set false).ldq eL (.vld fL) = true ∧
    operandWait (withK kFence) 192 kFence (.vld fL) (kFence.set false).ldq = false ∧
    (match gate (.vld fL) (kFence.set false) 0 eL with | .run _ => true | _ => false) = true ∧
    (vAdd (some .pxp) 0 2).pfx = some .pxp ∧ ({ kind := .scalar, val := 1 } : CtqEntry).kind ≠ .pred ∧ kTrap.headsRun false = false := by
  decide +kernel

/-- A head that claims a bank of another task's. -/
def claimed : State :=
  { withK (headK k0 1 (ent (vAdd none 0 2)) []) with
      cores := [(0, { Core.empty with units := [(0, { holder := some 193, pass := .idle })] })], tasks := [(192, headK k0 1 (ent (vAdd none 0 2)) []), (193, k0)] }
theorem witness_unit_claimed : (claimed.claims 192 (headK k0 1 (ent (vAdd none 0 2)) [])
    ((vAdd none 0 2).units (headK k0 1 (ent (vAdd none 0 2)) []))).1 = false := by decide +kernel

/-- A routed instruction at the slice. -/
theorem witness_routing : (vAdd none 1 2).home = some 1 ∧ Ready (withK k0) k0 [0, 0] ∧ (vAdd none 1 2).check k0 = none ∧
    (k0.qset.rq 1).entries.length < (k0.qset.rq 1).depth := ⟨rfl, ⟨rfl, rfl⟩, by decide +kernel⟩

/-! #### Vector memory and tiles -/

/-- Instruction i at the head of queue q with a handle and captured registers; the context has a partition of eight slots. -/
def accE (i : Instr) (h : Handle) (xa xb : W64) : Entry := { ent i with h := h, xa := xa, xb := xb }
def accK (k : Task) (i : Instr) (q : Nat) (h : Handle) (xa xb : W64) : Task :=
  headK { k with partBase := 4, partSize := 8 } q (accE i h xa xb) [{ kind := .scalar, val := 256 }]
def accS (g : State → State) (k : Task) (i : Instr) (q : Nat) (h : Handle) (xa xb : W64) : State :=
  headS (g (withK (accK k i q h xa xb))) q
def accHead (i : Instr) (q : Nat) (h : Handle := hd1) (xa xb : W64 := 0) (g : State → State := id) (k : Task := k0) : Bool :=
  headOk i (accS g k i q h xa xb) q (accK k i q h xa xb) (accE i h xa xb)
/-- What it sees. -/
def accX (i : Instr) (q : Nat) (h : Handle) (xa : W64) : Hd :=
  seen i (accS id k0 i q h xa 0) (headNext i (accS id k0 i q h xa 0) (accK k0 i q h xa 0)) (accK k0 i q h xa 0) false (accE i h xa 0)
    (headVals i (accK k0 i q h xa 0) q (accE i h xa 0))

def fA : VM := fL
def accPasses (i : Instr) (q : Nat) (p : Bool) (xa : W64) : Bool :=
  accHead i q hd1 xa && decide (accFault hd1 p (accesses i (accX i q hd1 xa)) = none) &&
    (accesses i (accX i q hd1 xa)).all fun a =>
      !(accX i q hd1 xa).s.held (hd1.addr a.off) a.len && !(accX i q hd1 xa).s.badIn (hd1.addr a.off) a.len

/-- The last rows of the page, and an index register of zeros. -/
theorem witness_vector_accesses : accPasses (.vld fA) 0 true 57344 = true ∧ accPasses (.vlds fA) 0 true 57344 = true ∧
    accPasses (.vst fA) 2 true 57344 = true ∧ accPasses (.vsts fA) 2 true 57344 = true ∧ isDevReg hd1.base = false := by
  decide +kernel

def fG : VM := { fA with pfx := some (.pxc 0 3 0), tail := 2 }
theorem witness_indexed_accesses : accPasses (.vgath fG) 0 true 65532 = true ∧ accPasses (.vscat fG) 2 true 65532 = true := by decide +kernel

theorem witness_access_rows_vector : IsVectorAccess (.vld fA) fA true 0 (fun x j => x.e.xa.toInt + fA.tail.toInt +
      256 * (j / perRow fA.ty.toNat : Nat) + (j % perRow fA.ty.toNat * width fA.ty.toNat / 8 : Nat)) ∧
    (∃ o, IsVectorAccess (.vlds fA) fA true 0 o) ∧ (∃ o, IsVectorAccess (.vgath fG) fG true 0 o) ∧ (∃ o, IsVectorAccess (.vst fA) fA false 2 o) ∧
    (∃ o, IsVectorAccess (.vsts fA) fA false 2 o) ∧ (∃ o, IsVectorAccess (.vscat fG) fG false 2 o) :=
  ⟨.vld fA, ⟨_, .vlds _⟩, ⟨_, .vgath _⟩, ⟨_, .vst _⟩, ⟨_, .vsts _⟩, ⟨_, .vscat _⟩⟩

/-- Validity, permission, and the first access outside on either side. -/
theorem witness_vector_faults : accHead (.vld fA) 0 Handle.invalid = true ∧
    (accFault Handle.invalid false (accesses (.vld fA) (accX (.vld fA) 0 Handle.invalid 0))).map Prod.fst = some 0x08 ∧
    (accFault hd1 false (accesses (.vld fA) (accX (.vld fA) 0 hd1 0))).map Prod.fst = some 0x0A ∧
    accFault hd1 true (accesses (.vld fA) (accX (.vld fA) 0 hd1 57600)) = some (0x09, 65536) ∧
    accFault hd1 true (accesses (.vld fA) (accX (.vld fA) 0 hd1 (-1))) = some (0x09, -1) := by
  decide +kernel

/-- A store into the page of a slot's image, and one where no slot maps a page. -/
theorem witness_read_only : accHead (.vst fA) 2 hd1 57344 0 (imgAt 0x10000) = true ∧
    (headNext (.vst fA) (accS (imgAt 0x10000) k0 (.vst fA) 2 hd1 57344 0) (accK k0 (.vst fA) 2 hd1 57344 0)).readOnly 0x1E000 4 = true ∧
    ∀ a n, (headNext (.vst fA) (accS id k0 (.vst fA) 2 hd1 57344 0) (accK k0 (.vst fA) 2 hd1 57344 0)).readOnly a n = false :=
  ⟨by decide +kernel, by decide +kernel, fun _ _ => rfl⟩

/-- A site whose arena has one free block of 64 KiB, in channel 3, and quota for it. -/
def arenaS (s : State) : State :=
  { s with site0 := { s.site0 with quota := [(0, 16)], arena := (List.range 16).map fun i =>
      (unitKey 3 (16 + i), { AUnit.none with exist := true, free := true, gen := 3 }) } }

theorem arena_free (s : State) (k : Task) (hf : mostFree (s.arenas k.die (s.ascOf k) 16 false) = some (0, [(3, 16)])) (pick : Nat) :
    s.choose k.die (s.ascOf k) 16 pick = .block 0 3 16 := by
  simp [State.choose, hf, Nat.mod_one, lowest]

def fN : VM := { fA with h := 0, tail := 2 + 4 * 7 }
def oneBlock (i : Instr) (q : Nat) (g : State → State) : Bool :=
  let s1 := headNext i (accS g k0 i q hd1 0 0) (accK k0 i q hd1 0 0)
  decide (mostFree (s1.arenas 0 (s1.ascOf (accK k0 i q hd1 0 0)) 16 false) = some (0, [(3, 16)])) && decide (s1.unitGen 0 3 16 < 256) &&
    !s1.held (arenaAddr 0 3 16) 65536

theorem witness_nameless : accHead (.nstv fN) 2 hd1 0 0 arenaS = true ∧ oneBlock (.nstv fN) 2 arenaS = true ∧ fN.block = 65536 := by
  decide +kernel

def fT0 : TL := { pfx := none, tok := 0, ta := 3, c := 0, hint := 0, cls := 0, h := 4, xa := 0, xb := 0, n12 := 5, tr := 0 }
def emptyAt (i : Instr) (q : Nat) (g : State → State) (k : Task) (n : Nat) : Bool :=
  match (headNext i (accS g k i q hd1 0 0) (accK k i q hd1 0 0)).view 192 (accK k i q hd1 0 0) n with | .empty => true | _ => false

theorem witness_tile_fetch : accHead (.tfetch fT0) 0 = true ∧ emptyAt (.tfetch fT0) 0 id k0 3 = true ∧ shapeOf 0 (rowWidth 0) = some (128, 512) ∧
    rowsFault hd1 hd1.r 0 128 512 512 = none ∧ (List.range 128).all (fun r => !(withK k0).held (hd1.addr 0 + r * 512) 512 &&
      !(withK k0).badIn (hd1.addr 0 + r * 512) 512) = true := by
  decide +kernel

/-- A window of two slots of four groups: one row of 512 bytes each. -/
def wDesc : W64 := 4 * 2 ^ 48 + 1 * 2 ^ 40 + 1 * 2 ^ 34 + 1 * 2 ^ 32
def win0 : Window := { pos := 0, first := 3, size := 2, groups := 4, rows := 1, pitch := 512, count := 5, tr := 0, cls := 0, h := hd1,
                       off := 0, next := 2, oldest := 1 }
def kWin (n : Nat) : Task := { k0 with win := [(3, some { win0 with next := n })] }
def fT1 : TL := { fT0 with n12 := 0, h := 0 }

theorem witness_windows : accHead (.twin fT0) 0 hd1 0 wDesc = true ∧
    windowOf fT0 (accE (.twin fT0) hd1 0 wDesc) = some { win0 with next := 0, oldest := 0 } ∧
    emptyAt (.twin fT0) 0 id k0 3 = true ∧ emptyAt (.twin fT0) 0 id k0 4 = true ∧ rowsFault hd1 hd1.r 512 1 512 512 = none ∧
    accHead (.tadv fT1) 0 hd1 0 0 id (kWin 2) = true ∧ accHead (.tadv fT1) 0 hd1 0 0 id (kWin 4) = true ∧
    emptyAt (.tadv fT1) 0 id (kWin 2) 4 = true := by
  decide +kernel

/-- Tile 3 of the partition with a count of three, and a task of the same packet on the other context. -/
def tlS (t : TSlot) (s : State) : State :=
  { s with cores := [(0, { Core.empty with slots := [(7, t)], ctxA := { run := some 192, susp := none }, ctxB := { run := some 193, susp := none } })],
           tasks := s.tasks ++ [(193, { k0 with ctx := 1 })] }
def viewIs (i : Instr) (q : Nat) (xa xb : W64) (g : State → State) (t : TSlot) : Prop :=
  (headNext i (accS g k0 i q hd1 xa xb) (accK k0 i q hd1 xa xb)).view 192 (accK k0 i q hd1 xa xb) 3 = .tile t

theorem witness_shares : accHead (.tshare fT1) 0 hd1 4 3 (tlS tl0) = true ∧ viewIs (.tshare fT1) 0 4 3 (tlS tl0) tl0 ∧
    (headNext (.tshare fT1) (accS (tlS tl0) k0 (.tshare fT1) 0 hd1 4 3) (accK k0 (.tshare fT1) 0 hd1 4 3)).holderOf 192
      (accK k0 (.tshare fT1) 0 hd1 4 3) 4 = some 193 ∧ shareOf tl0.shares 192 = 3 ∧
    (setShare (setShare tl0.shares 192 0) 193 3).length ≤ 4 :=
  ⟨by decide +kernel, rfl, by decide +kernel, by decide +kernel, by decide +kernel⟩

theorem witness_park : accHead (.tpark fT1) 2 hd1 0 0 (fun s => arenaS (tlS tl0 s)) = true ∧
    viewIs (.tpark fT1) 2 0 0 (fun s => arenaS (tlS tl0 s)) tl0 ∧ oneBlock (.tpark fT1) 2 (fun s => arenaS (tlS tl0 s)) = true ∧
    tl0.state = .live ∧ tl0.owner = 192 ∧ tl0.poison = false :=
  ⟨by decide +kernel, rfl, by decide +kernel, rfl, rfl, rfl⟩

def park0 : Parked := { declared := 9, owner := 3, shares := [(193, 2)], tr := 0, poison := false }
def nmP : Nat := mkName 0 3 16 3
def parkS (s : State) : State :=
  { s with site0 := { s.site0 with arena := [(unitKey 3 16, { AUnit.none with exist := true, gen := 3, size := 65536, parked := some park0 })] } }
def xP : W64 := BitVec.ofNat 64 nmP

theorem witness_unpark : accHead (.tunpark fT1) 0 hd1 xP 0 parkS = true ∧ (parkS (withK k0)).blockOf 0 nmP = some 65536 ∧
    (parkS (withK k0)).parkedOf nmP = some park0 ∧ (parkS (withK k0)).handing (nameSite nmP) = false ∧
    ((parkS (withK k0)).site (nameSite nmP)).owner = 0 ∧ emptyAt (.tunpark fT1) 0 parkS k0 3 = true ∧
    (parkS (withK k0)).held (nameAddr nmP) 65536 = false ∧ shareSum park0.shares + park0.owner ≠ 0 ∧ xP.toNat = nmP := by
  decide +kernel

theorem witness_tile_reads : accHead (.vldt { fT1 with c := 1 }) 0 hd1 57344 0 (tlS tl0) = true ∧
    viewIs (.vldt { fT1 with c := 1 }) 0 57344 0 (tlS tl0) tl0 ∧ accHead (.vldx fT1) 0 hd1 0 8 (tlS tl0) = true ∧
    viewIs (.vldx fT1) 0 0 8 (tlS tl0) tl0 ∧ accHead (.twb fT0) 2 hd1 0 0 (tlS tl0) = true ∧ viewIs (.twb fT0) 2 0 0 (tlS tl0) tl0 ∧
    accHead (.twr fT0) 2 = true ∧ emptyAt (.twr fT0) 2 id k0 3 = true :=
  ⟨by decide +kernel, rfl, by decide +kernel, rfl, by decide +kernel, rfl, by decide +kernel, by decide +kernel⟩

/-- A context with one item in the LDQ's stream, for an issued entry of instruction i at position 0 that fills slots of tiles. -/
def outK (a : Access) (i : Instr) (fills : List Nat) : Task :=
  { k0 with partBase := 4, partSize := 8, ldqOut := [a],
            ord := { k0.ord with ldq := { k0.ord.ldq with issued := [{ gone i with busy := true, fills := fills }] } } }

def mayRead? (want : List (Nat × Nat)) (i : Instr) (fills : List Nat) : Bool :=
  let k := outK (.read want 3 0) i fills
  mayPerform (.read want 3 0) [] && (want.all fun w => !(withK k).heldAt w.2) &&
    decide (k.issuedAt 0 = some { gone i with busy := true, fills := fills })

theorem mayReadOf {want : List (Nat × Nat)} {i : Instr} {fills : List Nat} (h : mayRead? want i fills = true) :
    mayRead (withK (outK (.read want 3 0) i fills)) 192 (outK (.read want 3 0) i fills) 0 want 3 0
      { gone i with busy := true, fills := fills } := by
  simp only [mayRead?, Bool.and_eq_true, decide_eq_true_eq, List.all_eq_true, Bool.not_eq_true'] at h
  exact ⟨rfl, rfl, h.1.1, h.1.2, h.2⟩

/-- The last element of a register, of which one byte is poisoned; a byte of tile slot 7; a parked tile. -/
def lastElement : List (Nat × Nat) := [(8188, 64), (8189, 65), (8190, 66), (8191, 67)]
theorem witness_reads : mayRead? lastElement (.vld fA) [] = true ∧ mayRead? [(65536 * 8 + 65535, 64)] (.tfetch fT0) [7] = true ∧
    mayRead? [(65536 * 8, 64)] (.tunpark fT1) [7] = true ∧ dropFences (dropAt [Access.read lastElement 3 0] 0) = [] ∧
    (lastElement.map fun w => w.1).Nodup := by decide +kernel

/-- The slot that the entry at position 0 fills, and a TUNPARK whose work is over. -/
theorem witness_fills : let s := tlS { tl0 with state := .filling, filler := 0 } (withK (outK (.read [(65536 * 8, 64)] 3 0) (.tunpark fT1) [7]))
    (s.tslot 0 7).state = .filling ∧ (s.tslot 0 7).owner = 192 ∧ (s.tslot 0 7).filler = 0 ∧
    ((outK (.fence 0 0) (.tunpark fT1) []).set false).ldq.issued = [{ gone (.tunpark fT1) with busy := true }] ∧
    (gone (.tunpark fT1)).skipped = false ∧ (gone (.tunpark fT1)).busy = false := by
  decide +kernel

/-- A consuming read of a tile on its way, one of several and the last. -/
theorem witness_tile_read : (outK (.tile 192 3 57344 true 0) (.vldt fT1) []).ldqOut[0]? = some (.tile 192 3 57344 true 0) ∧
    (outK (.tile 192 3 57344 true 0) (.vldt fT1) []).issuedAt 0 = some { gone (.vldt fT1) with busy := true } ∧
    (tlS tl0 (withK (outK (.tile 192 3 57344 true 0) (.vldt fT1) []))).view 192 (outK (.tile 192 3 57344 true 0) (.vldt fT1) []) 3 = .tile tl0 ∧
    shareSum (setShare tl0.shares 192 (shareOf tl0.shares 192 - 1)) ≠ 0 ∧
    (tlS { tl0 with shares := [(192, 1)] } (withK (outK (.tile 192 3 57344 true 0) (.vldt fT1) []))).tileQueue 192 3 =
      [(192, .tile 192 3 57344 true 0)] ∧ dropAt [Access.tile 192 3 57344 true 0] 0 = [] :=
  ⟨rfl, by decide +kernel, rfl, by decide +kernel, by decide +kernel, by decide +kernel⟩

/-! #### Matrix and conversion -/

/-- Values within the range of a type and beyond it, the scales of an element, a block, and the operands of a group. -/
theorem witness_rounding : rat (.fin true 3 2) = some (-3 / 2) ∧ largest 3 448 ∧ leastNormal 3 (1 / 64) ∧ rat (.fin false 500 1) = some 500 := by
  have h1 : valueOf 3 (maxFinite 3) = .fin false 448 1 := by decide +kernel
  have h2 : valueOf 3 (2 ^ mant 3) = .fin false 8 512 := by decide +kernel
  unfold largest leastNormal
  rw [h1, h2]
  norm_num [rat]

theorem witness_scales : rat (valueOf 0 0x3F800000) = some 1 ∧ scales 1 VReg.empty 7 1 1 ∧ scales 0 VReg.empty 7 0 0 ∧
    rat (ofInt 1) = some 1 ∧ rat (valueOf 3 (0 / 2 ^ (4096 * 3 + 8 * 5) % 2 ^ 8)) = some 0 := by
  have h1 : valueOf 0 0x3F800000 = .fin false (2 ^ 23) (2 ^ 23) := by decide +kernel
  have h2 : valueOf 6 (VReg.empty.elem 8 (7 / 8)) = .fin false 0 128 := by decide +kernel
  have h3 : valueOf 1 (VReg.empty.elem 16 2048) = .fin false 0 (2 ^ 133) := by decide +kernel
  have h4 : ofInt 1 = .fin false 1 1 := by decide +kernel
  have h5 : valueOf 3 (0 / 2 ^ (4096 * 3 + 8 * 5) % 2 ^ 8) = .fin false 0 512 := by decide +kernel
  unfold scales
  rw [h1, h2, h3, h4, h5]
  norm_num [rat]

def fX : MX := { pfx := none, tok := 0, acc := 2, hint := 0, ta := 3, ac := 0, tb := 3, bc := 0, va := 0, vb := 0, mask := 0, ty := 0 }
def kMma : Task := { k0 with fmtq := [(0, 0)] }
theorem witness_mma : accHead (.mma fX) 1 hd1 0 0 (tlS tl0) kMma = true ∧
    (headNext (.mma fX) (accS (tlS tl0) kMma (.mma fX) 1 hd1 0 0) (accK kMma (.mma fX) 1 hd1 0 0)).view 192
      (accK kMma (.mma fX) 1 hd1 0 0) 3 = .tile tl0 := ⟨by decide +kernel, rfl⟩

def run0 (n : Nat) : MmaRun := { acc := 2, next := n, rows := 1, desc := 0, band := 0, stopped := false, held := true }
def kGroup (n : Nat) : Task :=
  { k0 with mma := some (run0 n), ord := { k0.ord with cmq := { k0.ord.cmq with issued := [{ gone (.mma fX) with busy := true }] } } }
/-- A group in the middle, and the last. -/
theorem witness_mma_groups : find (withK (kGroup 6)).tasks 192 = some (kGroup 6) ∧ (kGroup 6).ord.cmq.issued = [{ gone (.mma fX) with busy := true }] ∧
    (run0 6).next + 1 < microSteps (run0 6) ∧ microSteps (run0 7) ≤ (run0 7).next + 1 ∧ (kGroup 7).phase = .running ∧
    racing ((kGroup 6).ord.others 1) ((Instr.mma fX).blockScales (run0 6).desc) = ([], []) ∧ (kGroup 6).inTrap = false ∧
    (withK (kGroup 6)).tasks = [(192, kGroup 6)] ∧ (kGroup 6).ldqOut = [] := by
  decide +kernel

theorem witness_accumulators : plainHead (.accz fX) 1 = true ∧ plainHead (.accld fX) 1 = true ∧ plainHead (.accrd { fX with ty := 4 }) 1 = true ∧
    plainHead (.vcvt { fF with ty := 3, vc := 0 }) 1 = true ∧ plainHead (.vqnt { fF with vc := 4 }) 1 = true ∧ isVReg fF.vd = true ∧ fF.vd ≠ fF.vc := by
  decide +kernel

/-- A block of zeros under a band scale of 1. -/
theorem witness_block : ((List.range 8).map fun j => 8 * 3 + j).filter (fun _ => true) ≠ [] ∧
    ∀ e ∈ ((List.range 8).map fun j => 8 * 3 + j).filter (fun _ => true),
      ∃ v, rat (valueOf 0 (runSrc (accX (.vld fA) 0 hd1 0) 0 2 e)) = some v ∧ (0 : Rat) = v / 1 := by
  have h : (((List.range 8).map fun j => 8 * 3 + j).filter (fun _ => true)).all (fun e =>
      decide (valueOf 0 (runSrc (accX (.vld fA) 0 hd1 0) 0 2 e) = .fin false 0 (2 ^ 149))) = true := by decide +kernel
  refine ⟨by decide, fun e he => ⟨0, ?_, by norm_num⟩⟩
  rw [of_decide_eq_true (List.all_eq_true.mp h e he)]
  norm_num [rat]

/-- The operands of a group of zeros. -/
theorem witness_group : ∀ n, n < 32 → (mmaVal (kGroup 6) 0 (formatType 0) 0 0 0 0 5 (32 * 6 + n)).1 = .fin false 0 (2 ^ 133) := by
  have h : (List.range 32).all (fun n =>
      decide ((mmaVal (kGroup 6) 0 (formatType 0) 0 0 0 0 5 (32 * 6 + n)).1 = .fin false 0 (2 ^ 133))) = true := by decide +kernel
  intro n hn
  exact of_decide_eq_true (List.all_eq_true.mp h n (List.mem_range.mpr hn))

/-! ### Steps of the device: a state for each row of each table -/

namespace Steps

/-- State s meets the condition of a row of a table. -/
structure Met (T : Instr → (State → Prop) → (State → State → Prop) → Prop) {i : Instr} {pre : State → Prop} {post : State → State → Prop}
    (_ : T i pre post) (s : State) : Prop where
  ok : pre s

def f0 : V4 := { pfx := none, tok := 0, mask := 0, ty := 0, vd := 1, va := 2, vb := 3, vc := 4 }
def entry (i : Instr) : Entry := { instr := i, pos := 0, pc := windowBase 0 + 0x800, h := Handle.invalid, xa := 0, xb := 0, seed := 0, popped := none }
def issued (i : Instr) : Issued :=
  { entry := entry i, holding := false, busy := false, skipped := false, flags := 3, push := none, fills := [], got := [], olds := [], oldm := [] }
/-- Context k with an issued entry, or a waiting entry, in queue q of its ordinary set. -/
def gone (k : Task) (q : Nat) (it : Issued) : Task := k.withSet false (k.ord.setRq q { k.ord.rq q with issued := [it] })
def waiting (k : Task) (q : Nat) (e : Entry) : Task := k.withSet false (k.ord.setRq q { k.ord.rq q with entries := [e] })


theorem fetchedIs {f : Fetched} {i : Instr} (h : (match f with | .unit j => decide (j = i) | _ => false) = true) : f = .unit i := by
  cases f <;> simp_all

theorem allMem {α : Type} (l : List α) (P : α → Prop) [DecidablePred P] (h : l.all (fun e => decide (P e)) = true) : ∀ e ∈ l, P e := by
  intro e he; have := List.all_eq_true.mp h e he; simpa using this

/-- No read of tile slot n of task t is on its way. -/
def noReads? (s : State) (t n : Nat) : Bool :=
  s.tasks.all fun p => p.2.ldqOut.all fun a => match a with | .tile o m _ _ _ => decide (o ≠ t ∨ m ≠ n) | _ => true

theorem noReadsOf {s : State} {t n : Nat} (h : noReads? s t n = true) : noReads s t n := by
  intro p hp a ha
  have := List.all_eq_true.mp (List.all_eq_true.mp h p hp) a ha
  cases a <;> simp_all

namespace Entries

def itA : Issued := { issued (.vadd { f0 with tok := 2 }) with push := some 7 }
def kA : Task := gone k0 1 itA
def kO : Task := { kA with ord := { kA.ord with tok := [(3, 63)] } }
def kT : Task := { k0 with inTrap := true }
def unitsOf (u : Nat) (x : Machine.PUnit) : State :=
  { withK { k0 with saved := [3] } with
    tasks := [(192, { k0 with saved := [3] }), (193, k0)], cores := [(0, { Core.empty with units := [(u, x)] })] }
def tile0 : TSlot := { TSlot.empty with state := .live, owner := 192, declared := 1, shares := [(192, 1)], gen := 5, data := 9 }
def tilesOf (c : Core) : State := { withK k0 with cores := [(0, c)] }

def vm0 : VM := { pfx := none, tok := 0, mask := 0, ty := 0, cls := 0, h := 0, xo := 0, v := 1, tail := 0 }
def kS : Task := let k := waiting k0 0 (entry (.vld vm0)); k.withSet false (k.ord.setRq 0 { k.ord.ldq with stall := 1048576, await := 23 })
def kN : Task := { k0 with hnd := { k0.hnd with names := [{ name := 77, wid := 0 }] }, stqOut := [.write [(0, 1)] 0 1 0], inTrap := true }


theorem met_entryStep :
    Met EntryStep (.drained 192 1 { kA with phase := .ended } itA) (withK { kA with phase := .ended }) ∧
    Met EntryStep (.stall 192 0 false kS (entry (.vld vm0)) []) (withK kS) ∧
    Met EntryStep (.fill 0 63) (tilesOf { Core.empty with slots := [(63, { tile0 with state := .filling })] }) := by
  and_intros <;> refine ⟨?_⟩ <;> first | decide +kernel | (unfold worked; decide +kernel)

theorem met_entryEnds :
    Met EntryStep (.complete 192 1 false kA itA []) (withK kA) ∧ Met EntryStep (.overflow 192 1 false kO itA []) (withK kO) := by
  and_intros <;> refine ⟨?_⟩ <;>
    exact ⟨by decide +kernel, by decide, by decide +kernel, by unfold worked; decide +kernel, nofun, by decide +kernel, by decide +kernel⟩

theorem met_entryStepOthers :
    Met EntryStep (.holdEnd 192 1 false (gone k0 1 { itA with holding := true })) (withK (gone k0 1 { itA with holding := true })) ∧
    Met EntryStep (.name 192 true kN { name := 77, wid := 0 } []) (withK kN) := by
  and_intros <;> refine ⟨?_⟩
  · refine ⟨by decide +kernel, { itA with holding := true }, ?_⟩; decide +kernel
  · refine ⟨by decide +kernel, by decide +kernel, by simp [kN], by decide +kernel⟩

theorem met_unitStep :
    Met UnitStep (.save 0 15 193 192 { k0 with saved := [3] }) (unitsOf 15 { holder := some 192, pass := .saving 193 }) ∧
    Met UnitStep (.save 0 81 193 192 { k0 with saved := [3] }) (unitsOf 81 { holder := some 192, pass := .saving 193 }) ∧
    Met UnitStep (.restore 0 3 192 { k0 with saved := [3] }) (unitsOf 3 { holder := some 193, pass := .restoring 192 }) ∧
    Met UnitStep (.restoreTile 0 2 192 { task := 192, slot := 2, tile := { tile0 with state := .saved } }) (tilesOf { Core.empty with savedTiles := [{ task := 192, slot := 2, tile := { tile0 with state := .saved } }], units := [(18, { holder := none, pass := .restoring 192 })] }) := by
  and_intros <;> refine ⟨?_⟩ <;> decide +kernel

theorem met_unitStepOthers :
    Met UnitStep (.saveTile 0 2 193) ({ tilesOf { Core.empty with slots := [(2, tile0)], units := [(18, { holder := some 192, pass := .saving 193 })] } with tasks := [(192, k0), (193, k0)] }) := by
  refine ⟨?_⟩
  refine ⟨by decide, by decide +kernel, by decide +kernel, by decide +kernel, noReadsOf (by decide +kernel)⟩

end Entries

namespace Slices

def sRun : State := { State.reset.withFetchWord 64 ((encode (.vadd { f0 with vc := 0 })).foldr (fun w n => w + 2 ^ 32 * n) 0) with agenda := [], cur := 192 }
def kM : Task := { k0 with missing := some 5 }
def kY : Task := { k0 with yieldLeft := 1 }
def kC : Task := { k0 with cycle := 2560 }
def sC : State := { withK kC with lfe := { (withK kC).lfe with packets := [(0, { p0 with record := BitVec.ofNat 1024 (10 * 2 ^ 320) })] } }
def fr : FaultRec := { cause := 0x1B, addr := windowBase 0 + 0x800, data := 0, src := 2, await := 0, pos := 3 }
def kF : Task := k0.withSet false (k0.ord.setRq 1 { k0.ord.cmq with fault := some fr })
def kL : Task := kF.withSet false (kF.ord.setRq 1 { kF.ord.cmq with late := [fr] })
def kD : Task := { k0 with tvec := 64, phase := .drainTrap fr 7 }
def fF : FaultRec := { fr with cause := 0x0B, src := 0 }
def kW : Task := { k0 with phase := .drainFw fF }
def kV : Task := { k0 with phase := .switchedOut fF }
def kP : Task := { k0 with phase := .drainPre 193 true }
def kNew : Task := { k0 with phase := .arriving, packet := 1, pc := 0 }
def sP : State := { withK kP with tasks := [(192, kP), (193, kNew)], lfe := { (withK k0).lfe with packets := [(0, p0), (1, p0)], nextPacket := 2 } }


theorem met_sliceStep :
    Met SliceStep (.fill kM 5) (withK kM) ∧
    Met SliceStep (.yieldEnd kY) (withK kY) ∧
    Met SliceStep (.bound kC) (sC) ∧
    Met SliceStep (.arrival kF 1 fr) (withK kF) ∧
    Met SliceStep (.lateArrival kL 1 fr []) (withK kL) ∧
    Met SliceStep (.trap kD fr 7) (withK kD) ∧
    Met SliceStep (.switchOut kW fF) (withK kW) ∧
    Met SliceStep (.resume kV fF) (withK kV) ∧
    Met SliceStep (.fatal kV fF) (withK kV) ∧
    Met SliceStep (.preEmpt kP 193 0 true kNew) (sP) := by
  and_intros <;> refine ⟨?_⟩ <;> decide +kernel

theorem met_sliceStepOthers :
    Met SliceStep (.route (sRun.task 192) (.vadd { f0 with vc := 0 }) 1) (sRun) := by
  refine ⟨?_⟩
  refine ⟨by decide +kernel, by decide +kernel, by decide +kernel, by decide +kernel, by decide +kernel, fetchedIs (by decide +kernel), ?_⟩; decide +kernel

end Slices

namespace Fronts

/-- a loop record: level 0 is C with extent 8 and rank 0; part 0. -/
def rec0 : Nat := 2 ^ 64 * (8 + 2 ^ 16 + 2 * 2 ^ 28)
def recOf (n : Nat) : BitVec 1024 := BitVec.ofNat 1024 n
def q1 : Queue := { Queue.empty with en := true, notified := 1, qbase := 4096 }
def sQ (q : Queue) : State := (State.reset.setQueue 5 q).perform (cellsAt 4096 (bytesOf 128 rec0))
def sP (p : Packet) : State := { State.reset with cur := 0, lfe := { State.reset.lfe with packets := [(0, p)], nextPacket := 1, sems := [(0x107, 3)] } }
def hp : Packet := { Packet.empty with record := recOf rec0, file := 1 }
/-- wait entry 0: V=1, threshold/counter -/
def hpw (th c : Nat) : Packet := { hp with record := recOf (rec0 + 2 ^ 192 * (2 ^ 20 + th * 2 ^ 8 + c)) }
def sSlot (st : RState) (k : Nat) : State → State := fun s =>
  s.setRslot 0 { RSlot.empty with state := st, image := [65536], isize := 4096, mapOk := true, kcnt := 1, kernels := [BitVec.ofNat 256 k] }
def spl : State := ({ sP { hp with phase := .spilled, child := true, record := 0 } with cur := 0 }.setPool 1 { Pool.empty with ring := [0], spill := 4096, slog := 4 }).perform
  (cellsAt 4096 (bytesOf 128 rec0))
def tb (ecount rcount : Nat) : Nat := 1 + 2 ^ 64 * (2 ^ 51 + 2 ^ 34) + 2 ^ 128 * rcount + 2 ^ 160 * ecount
def tp (rc : Nat) : Packet := { hp with record := recOf (tb 5 rc), phase := .dispatched }
def sW (p : Packet) (b : List Byte) : State :=
  ((sP p).setRslot 0 { RSlot.empty with state := .resident, image := [65536], isize := 4096, mapOk := true, kcnt := 1, weights := [131072] }).perform (cellsAt 131072 b)
def wA : Walker := { Walker.start with haveArray := true, entries := [0, 0, 0, 0, 0] }
def arr : List Byte := bytesOf 32 (0x100 + 2 ^ 32 * 0x101)
def recs (r : Nat) : List Byte := bytesOf 32 0 ++ bytesOf 16 r


theorem met_frontStepA :
    Met FrontStep (.read 5 q1 false) (sQ q1) ∧
    Met FrontStep (.read 5 q1 true) (State.poisonAll (sQ q1) [4100]) ∧
    Met FrontStep (.skipped 5 { q1 with skips := [0, 3] }) (sQ { q1 with skips := [0, 3] }) ∧
    Met FrontStep (.refill 1 0 [] { hp with phase := .spilled, child := true, record := 0 }) (spl) ∧
    Met FrontStep (.malformed { hp with record := recOf 2 }) (sP { hp with record := recOf 2 }) ∧
    Met FrontStep (.passes (hpw 3 7)) (sP (hpw 3 7)) ∧
    Met FrontStep (.aborted (hpw 3 7)) ((sP (hpw 3 7)).setSem 1 7 (-5)) ∧
    Met FrontStep (.waits (hpw 2 7)) (sP (hpw 2 7)) ∧
    Met FrontStep (.notResident { hp with phase := .passed }) (sP { hp with phase := .passed }) ∧
    Met FrontStep (.resident { hp with phase := .passed }) (sSlot .resident 2048 (sP { hp with phase := .passed })) ∧
    Met FrontStep (.dispatch { hp with phase := .ready, order := 7 }) (sSlot .resident 2048 (sP { hp with phase := .ready, order := 7 })) ∧
    Met FrontStep (.dispatchEmpty { hp with phase := .ready, record := recOf (2 ^ 92 * 2) }) (sSlot .unloading 2048 (sP { hp with phase := .ready, record := recOf (2 ^ 92 * 2) })) := by
  and_intros <;> refine ⟨?_⟩ <;> first | decide +kernel | (unfold sawAbort; decide +kernel) | (unfold satisfied; decide +kernel) | (unfold satisfied; unfold sawAbort; decide +kernel)

/-- Queue 5 with a byte of its next record read apart. -/
def sE : State := { sQ q1 with lfe := { (sQ q1).lfe with early := [(.record 5, 4100, 9, false)] } }

theorem met_readApart :
    Met FrontStep (.readPart 5 0 5 q1) (sQ q1) ∧ Met FrontStep (.read 5 q1 false) sE := by
  and_intros <;> refine ⟨?_⟩
  · unfold whole; decide +kernel
  · decide +kernel

theorem met_frontStepB :
    Met FrontStep (.record { tp 3 with walker := some wA } wA (bytesOf 16 (2 + 2 ^ 16 * 7))) (sW { tp 3 with walker := some wA } (recs (2 + 2 ^ 16 * 7))) ∧
    Met FrontStep (.badRecord { tp 3 with walker := some wA } wA (bytesOf 16 (2 + 2 ^ 124 + 2 ^ 116 * 9))) (sW { tp 3 with walker := some wA } (recs (2 + 2 ^ 124 + 2 ^ 116 * 9))) ∧
    Met FrontStep (.absent { tp 3 with walker := some wA } wA) (sP { tp 3 with walker := some wA }) ∧
    Met FrontStep (.answer 0 { tp 3 with walker := some { wA with held := true } } { wA with held := true }) (sP { tp 3 with walker := some { wA with held := true } }) ∧
    Met FrontStep (.fatal 0 { tp 3 with walker := some { wA with held := true } } { wA with held := true }) (sP { tp 3 with walker := some { wA with held := true } }) := by
  and_intros <;> refine ⟨?_⟩ <;> decide +kernel

theorem met_frontStepBOthers :
    Met FrontStep (.array { tp 3 with walker := some Walker.start } Walker.start arr) (sW { tp 3 with walker := some Walker.start } arr) := by
  refine ⟨?_⟩
  and_intros
  case refine_2.refine_2.refine_2.refine_2.refine_2.refine_2.refine_2.refine_2.refine_2.refine_2 => exact allMem _ _ (by decide +kernel)
  all_goals decide +kernel

end Fronts

namespace Places

def rec0 : Nat := 2 ^ 64 * (8 + 2 ^ 16 + 2 * 2 ^ 28) + 2 ^ 384 * 77
def recOf (n : Nat) : BitVec 1024 := BitVec.ofNat 1024 n
def hp : Packet := { Packet.empty with record := recOf rec0, file := 1, phase := .dispatched, hi0 := 4, lo1 := 4, hi1 := 8, queue := 5 }
def sP (p : Packet) : State := { State.reset with cur := 0, lfe := { State.reset.lfe with packets := [(0, p)], nextPacket := 1, sems := [(0x107, 3)] } }
def tb (ecount rcount : Nat) : Nat := 1 + 2 ^ 64 * (2 ^ 51 + 2 ^ 34) + 2 ^ 128 * rcount + 2 ^ 160 * ecount
def wR : Walker := { Walker.start with haveArray := true, entries := [0, 0, 0, 0, 0], record := some (BitVec.ofNat 128 (2 + 2 ^ 16 * 7 + 2 ^ 32 * 9 + 2 ^ 64 * 11 + 2 ^ 124 + 2 ^ 116 * 6)) }
def tp : Packet := { hp with record := recOf (tb 5 3), walker := some wR, hi0 := 0, lo1 := 0, hi1 := 0 }
def kA : Task := { Task.empty with packet := 0, partSize := 4, ticket := 3 }
def sK (k : Task) (p : Packet) : State := { sP p with tasks := [(192, k)], nextTask := 193, cur := 192 }
def kHdr : Nat := 2048 + 2 ^ 32 * 3 + 2 ^ 40 * 2 + 2 ^ 48
def sSlot (s : State) : State :=
  s.setRslot 0 { RSlot.empty with state := .resident, image := [65536], isize := 4096, mapOk := true, kcnt := 1, kernels := [BitVec.ofNat 256 kHdr] }
def kE : Task := { kA with phase := .ended }
def tileS : TSlot := { TSlot.empty with state := .live, owner := 192, declared := 1, shares := [(192, 1)] }
def withTile (s : State) : State := s.setCore 0 { Core.empty with slots := [(0, tileS)], ctxA := { run := some 192, susp := none } }
def cp : Packet := { hp with phase := .completing, cidx := 0, qidx := 5, retired := 3, resid := 2, record := recOf (rec0 + 0x99 * 2 ^ 16 + 2 ^ 7) }
def qc : Queue := { Queue.empty with cbase := 65536, cwrite := 17, cread := 2 }
def sC (p : Packet) : State := (sP p).setQueue 5 qc
def sv (p : Packet) : State := (sC p).setVector 0 0 { Vector.empty with masked := false }
def sS : State := { sP { hp with lo0 := 4, prio := 1 } with hif := { State.reset.hif with reset1 := true } }
def sg (g : Sig) (v : W32) : State := { (State.reset.setSem 1 7 v) with lfe := { (State.reset.setSem 1 7 v).lfe with signals := [{ g with delta := 1, counter := 9 }, g] } }
def g0 : Sig := { file := 1, counter := 7, delta := -2, abort := false, packet := none }

/-- Core c is served next, by packet id. -/
def served? (s : State) (c id : Nat) (p : Packet) (ctx base : Nat) : Bool :=
  decide (c < 192) && decide (s.preempts (c / 96) = none) && decide (s.asker (c / 96) = some c) &&
    ((s.select 0 (c / 96) (s.asks c)).map (fun e => e.1) == some id) && decide (find s.lfe.packets id = some p) && !p.cluster && decide (s.seat c (partSlots p.part) = some (ctx, base))

theorem servedOf {s : State} {c id ctx base : Nat} {p : Packet} (h : served? s c id p ctx base = true) : IsServed s c id p ctx base := by
  simp only [served?, Bool.and_eq_true, decide_eq_true_eq, Bool.not_eq_true', beq_iff_eq, Option.map_eq_some_iff] at h
  obtain ⟨⟨⟨⟨⟨⟨h1, h2⟩, h3⟩, ⟨e, h4, rfl⟩⟩, h5⟩, h7⟩, h8⟩ := h
  exact ⟨h1, h2, h3, ⟨e.2, h4⟩, h5, h7, h8⟩

/-- A walker with these requests, whose next record is read or not, and its packet. -/
def wA (l : List (Nat × Nat)) (read : Bool) : Walker := { wR with asks := l, record := if read then wR.record else none }
def tA (l : List (Nat × Nat)) (read : Bool) : Packet := { tp with walker := some (wA l read) }
/-- Core 0 waits at the walker since time 0, core 96 of the other die since then too. -/
def two : List (Nat × Nat) := [(0, 96), (0, 0)]

theorem met_placeStep :
    Met PlaceStep (.arrive kA hp) (sK kA hp) ∧
    Met PlaceStep (.start { kA with phase := .starting } hp) (sSlot (sK { kA with phase := .starting } hp)) ∧
    Met PlaceStep (.retire kE hp 0 (((sSlot (sK kE hp)).settle 192).2)) (sSlot (sK kE hp)) ∧
    Met PlaceStep (.retire kE { hp with tasks := 1 } 1 (((withTile (sSlot (sK kE { hp with tasks := 1 }))).settle 192).2)) (withTile (sSlot (sK kE { hp with tasks := 1 }))) ∧
    Met PlaceStep (.strict kE { hp with tasks := 1, record := recOf (rec0 + 2 ^ 6) } 1 (((withTile (sSlot (sK kE { hp with tasks := 1, record := recOf (rec0 + 2 ^ 6) }))).settle 192).2)) (withTile (sSlot (sK kE { hp with tasks := 1, record := recOf (rec0 + 2 ^ 6) }))) := by
  and_intros <;> refine ⟨?_⟩ <;> decide +kernel

theorem met_placeStepOthers :
    Met PlaceStep (.pull 0 0 0 0 0 4 hp) (sP hp) ∧
    Met PlaceStep (.handout 0 0 0 0 tp wR (BitVec.ofNat 128 (2 + 2 ^ 16 * 7 + 2 ^ 32 * 9 + 2 ^ 64 * 11 + 2 ^ 124 + 2 ^ 116 * 6))) (sP tp) ∧
    Met PlaceStep (.claim 0 0 0 0 (tA [(5, 100)] false) (wA [(5, 100)] false)) (sP (tA [(5, 100)] false)) ∧
    Met PlaceStep (.next 0 0 0 0 (tA two true) (wA two true) (wR.record.getD 0) two 0) (sP (tA two true)) ∧
    Met PlaceStep (.turn 96 0 (tA two true) (wA two true) (wR.record.getD 0) two (0, 0)) (sP (tA two true)) ∧
    Met PlaceStep (.steal 0 0 0 0 4 8 { hp with lo0 := 4, prio := 1 }) (sS) := by
  and_intros <;> refine ⟨?_⟩
  · refine ⟨servedOf (by decide +kernel), ?_⟩; decide +kernel
  · refine ⟨servedOf (by decide +kernel), ?_⟩; decide +kernel
  · refine ⟨servedOf (by decide +kernel), ?_⟩; decide +kernel
  · unfold AtWalker; decide +kernel
  · unfold AtWalker; decide +kernel
  · refine ⟨servedOf (by decide +kernel), ?_⟩; decide +kernel

theorem met_doneStep :
    Met DoneStep (.over { hp with lo0 := 4, lo1 := 8 }) (sP { hp with lo0 := 4, lo1 := 8 }) ∧
    Met DoneStep (.issue cp) (sC cp) ∧
    Met DoneStep (.full cp) ((sP cp).setQueue 5 { qc with cwrite := 18 }) ∧
    Met DoneStep (.body { cp with phase := .body, status := 5, who := 3, cause := 0x13 } 0 [])
      (sC { cp with phase := .body, status := 5, who := 3, cause := 0x13 }) ∧
    Met DoneStep (.body { cp with phase := .body, partly := some (7, [65560]) } 7 [65560]) (sC { cp with phase := .body, partly := some (7, [65560]) }) ∧
    Met DoneStep (.bodyPart 0 0 5 { cp with phase := .body }) (sC { cp with phase := .body }) ∧
    Met DoneStep (.header { cp with phase := .header, cidx := 17 }) (sC { cp with phase := .header, cidx := 17 }) ∧
    Met DoneStep (.interrupt { cp with phase := .signalled }) (sv { cp with phase := .signalled }) ∧
    Met DoneStep (.expiry 3 4) (State.reset.setVector 3 4 { Vector.empty with pending := 2, since := 0, masked := false }) ∧
    Met DoneStep (.unmask 3 4) (State.reset.setVector 3 4 { Vector.empty with pbit := true }) ∧
    Met DoneStep (.signal 1 g0) (sg g0 3) ∧
    Met DoneStep (.below 1 g0) (sg g0 1) ∧
    Met DoneStep (.forced 1 { g0 with abort := true }) (sg { g0 with abort := true } 3) := by
  and_intros <;> refine ⟨?_⟩ <;> first | exact trivial | decide +kernel

end Places

namespace Commands

def dws (l : List (Nat × Nat)) : List W64 := (List.range 16).map fun i => BitVec.ofNat 64 ((l.filter fun e => e.1 == i).map (fun e => e.2) |>.headD 0)
def cm (l : List (Nat × Nat)) : Cmd := { Cmd.empty with task := 192, packet := 0, file := 1, dw := dws l }
def hp : Packet := { Packet.empty with file := 1, phase := .dispatched, commands := 1 }
/-- slot window: image 0x0 .. weights map -/
def base (cs : List (Nat × Cmd)) : State :=
  { State.reset with cur := 0, tasks := [(192, { Task.empty with packet := 0 })], nextTask := 193, lfe := { State.reset.lfe with packets := [(0, hp)], nextPacket := 1, sems := [(0x107, 3)] }, ce := { State.reset.ce with cmds := cs, nextCmd := 8 } }
def win : Nat := 2 ^ 51 + 2 ^ 34
def withW (s : State) : State := (s.setRslot 0 { RSlot.empty with state := .resident, mapOk := true, weights := [131072], writable := true }).perform (cellsAt 131072 (bytesOf 64 0x0102030405060708090A0B0C0D0E0F101112131415161718191A1B1C1D1E1F202122232425262728292A2B2C2D2E2F303132333435363738393A3B3C3D3E3F40))
def sC (c : Cmd) : State := base [(0, c)]
def sW (c : Cmd) : State := withW (base [(0, c)])
/-- COPY 2 x 1 x 1 x 1 elements of 4 bytes -/
def cCopy : Cmd := cm [(5, 2 * 16), (3, win), (4, win + 32), (6, 2 + 2 ^ 16 + 2 ^ 32 + 2 ^ 48)]
def cCopyW (th n : Nat) : Cmd := { cCopy with dw := dws [(1, 2 ^ 20 + th * 2 ^ 8 + n), (5, 2 * 16), (3, win), (4, win + 32), (6, 2 + 2 ^ 16 + 2 ^ 32 + 2 ^ 48)] }
def run' (c : Cmd) : Cmd := { c with state := .running }
def cSig : Cmd := cm [(0, 6)]
def cPre (va dl : Nat) : Cmd := run' (cm [(0, 4), (3, va), (6, 4096 + dl * 2 ^ 32)])
def cR : Cmd := run' (cm [(0, 7), (3, win), (4, win + 64), (5, win + 128), (6, win + 192), (7, win + 256), (8, 16 * 2 ^ 32), (9, 1 + 2 * 2 ^ 32)])

def cAcc (op ty : Nat) : Cmd := run' (cm [(0, 1), (5, op * 256 + ty * 4096 + ty * 2 ^ 16), (3, win), (4, win + 32), (6, 2 + 2 ^ 16 + 2 ^ 32 + 2 ^ 48)])
def cRot : Cmd := run' (cm [(0, 2), (5, 2 * 2 ^ 8 + 2 ^ 32), (3, win), (4, win + 32), (6, win + 16), (7, 1), (8, 4 + 4 * 2 ^ 32)])
def cFill (va : Nat) : Cmd := run' (cm [(0, 5), (5, 2 * 16), (3, 0x12345678), (4, va), (6, 2 + 2 ^ 16 + 2 ^ 32 + 2 ^ 48)])
def cRem : Cmd := run' (cm [(0, 8), (5, 2 * 16), (3, win), (4, 7 * 2 ^ 52 + 64), (6, 2 + 2 ^ 16 + 2 ^ 32 + 2 ^ 48)])
def cRsig : Cmd := run' (cm [(0, 8 + 2 * 16), (10, 7 * 2 ^ 52 + 5 * 2 ^ 32 + 2 ^ 20 + 0xFFF * 2 ^ 8 + 9)])
def cScan (th : Nat) : Cmd := run' (cm [(0, 3), (3, win), (4, win + 32), (5, 0 + th * 2 ^ 32), (6, 4 + 2 * 2 ^ 32)])

def oks (r : Run) : List Nat := match r with | .ok l => l | _ => []
/-- What a command reads its next element from, and where it goes. -/
def src (c : Cmd) : Run × Nat × Cmd := (sW c).fetchBytes 0 c false c.sform (c.d 3) (c.walkSrc c.progress) c.ssz
def dst (c c1 : Cmd) : Run × Cmd := (sW c).reachAll true c.dform (c.d 4) (c.walkDst c.progress) c.dsz c1
/-- The pair of a rotation, its cosine and sine, and where it goes. -/
def pairOf (c : Cmd) : Run × Nat × Cmd :=
  (sW c).fetchBytes 0 c false c.sform (c.d 3) (c.progress / c.pairs * bits (c.d 8) 31 0 + 4 * (c.progress % c.pairs) : Nat) 4
def tableOf (c : Cmd) : Run × Nat × Cmd := (sW c).fetchBytes 0 (pairOf c).2.2 true (bits (c.d 5) 5 4) (c.d 6)
  (8 * ((strideOf (c.d 5) true).natAbs * c.pairs + c.progress % c.pairs) : Nat) 8
def turnTo (c : Cmd) : Run × Cmd := (sW c).reachAll true c.dform (c.d 4)
  (c.progress / c.pairs * bits (c.d 8) 63 32 + 4 * (c.progress % c.pairs) : Nat) 4 (tableOf c).2.2
/-- The first byte of a fill's next part, and the last of 32. -/
def first (c : Cmd) : Cmd := ((sW c).reach c false (eaddr c.sform (c.d 3) c.count)).2
def last (c : Cmd) : Cmd :=
  ((sW c).reach (first c) false (eaddr c.sform (c.d 3) (c.count + min 32 (bits (c.d 6) 31 0 - c.count) - 1 : Nat))).2
/-- The next value of a scan. -/
def scanned (c : Cmd) : Run × Nat × Cmd := (sW c).fetchBytes 0 c true c.sform (c.d 3)
  ((scanFrom c + c.got.length) * (if bits (c.d 5) 7 4 = 0 then 4 else 2) : Nat) (if bits (c.d 5) 7 4 = 0 then 4 else 2)
/-- A scan that has read its values. -/
def full (c : Cmd) : Cmd := { c with got := [0x3F800000, 0, 0xBF800000, 0x40000000] }
/-- The same with the threshold infinite, and a pair on its way; a scan of a range without a mapping. -/
def cNone : Cmd := full (cScan 0x7F800000)
def cPair : Cmd := { cNone with out := [(1, 0, 8, 77)] }
def cLost : Cmd := { cScan 0 with dw := (cScan 0).dw.set 3 4096 }
/-- Where the next pair of a scan goes. -/
def place (c : Cmd) : Run × Cmd := (sW c).reachAll true c.dform (c.d 4) (8 * c.out.length : Nat) 8 c

theorem noPairOf {c : Cmd} (h : c.progress = c.out.length) (h2 : (c.got.all fun v => !above c v) = true) : noPair c := by
  refine ⟨h, .inr fun i v hv ha => ?_⟩
  have := List.all_eq_true.mp h2 v (List.mem_of_getElem? hv)
  simp [ha] at this
/-- A routing job that reads its logits, and one at an address without a mapping. -/
def cRaw : Cmd := { cR with dw := cR.dw.set 8 (BitVec.ofNat 64 (16 * 2 ^ 32 + 2 * 2 ^ 14)) }
def cOff : Cmd := { cRaw with dw := cRaw.dw.set 3 4096 }
def sJ (c : Cmd) : State := (sW c).setJob 0 (some 0)
def read (c : Cmd) : Run × Nat × Cmd := logitOf (sJ c) c
/-- A copy with one write in flight. -/
def post : Post := { row := 0, cells := [(131104, 1), (131105, 2)] }
def cFly : Cmd := { run' cCopy with progress := 1, flight := [post] }

theorem landing {s : State} {src id st : Nat} (h : s.ce.inbox = []) (h2 : s.ce.refused = []) : isLanding s src id st := by
  refine ⟨?_, by rw [h2]; exact List.not_mem_nil⟩
  rintro ⟨e, he, -⟩
  rw [h] at he; exact absurd he List.not_mem_nil

theorem bound_eq {s : State} {a va n : Nat} {l : List Nat} (h : (s.bound a va n).1 = .ok l) : s.bound a va n = (.ok l, (s.bound a va n).2) :=
  Prod.ext h rfl

def late (c : Cmd) : State := { sW c with time := 50 }

theorem met_commandLife :
    Met CommandStep (.dequeue cCopy) (sC cCopy) ∧
    Met CommandStep (.aborted (cCopyW 2 7)) ((sC (cCopyW 2 7)).setSem 1 7 (-1)) ∧
    Met CommandStep (.illegal { cCopy with progress := 3, dw := dws [(0, 3 * 2 ^ 16), (5, 2 * 16), (3, win), (4, win + 32), (6, 2 + 2 ^ 16 + 2 ^ 32 + 2 ^ 48)] }) (sC { cCopy with progress := 3, dw := dws [(0, 3 * 2 ^ 16), (5, 2 * 16), (3, win), (4, win + 32), (6, 2 + 2 ^ 16 + 2 ^ 32 + 2 ^ 48)] }) ∧
    Met CommandStep (.start { cCopyW 3 7 with state := .waiting }) (sC { cCopyW 3 7 with state := .waiting }) ∧
    Met CommandStep (.again { cCopy with state := .resumed }) (sC { cCopy with state := .resumed }) ∧
    Met CommandStep (.resume { cCopy with state := .held }) (sC { cCopy with state := .held }) ∧
    Met CommandStep (.fatal { cCopy with state := .held }) (sC { cCopy with state := .held }) ∧
    Met CommandStep (.done { run' cCopy with progress := 2 }) (sC { run' cCopy with progress := 2 }) ∧
    Met CommandStep (.unperformed cFly) (sW cFly) ∧
    Met CommandStep (.abort { cCopy with state := .aborting }) (sC { cCopy with state := .aborting }) ∧
    Met CommandStep (.signal (run' cSig)) (sC (run' cSig)) := by
  and_intros <;> refine ⟨?_⟩ <;> first
    | (unfold isCmd; unfold isNext; unfold cmdAborts; decide +kernel)
    | (unfold isCmd; unfold isNext; decide +kernel)
    | (unfold isCmd; unfold cmdReady; decide +kernel)
    | (unfold isCmd; decide +kernel)

theorem met_fills :
    Met CommandStep (.prefetch (cPre win 50) (first (cPre win 50)) (last (cPre win 50)) 32 131072 131103) (sW (cPre win 50)) ∧
    Met CommandStep (.late (cPre win 60) 32) (late (cPre win 60)) ∧
    Met CommandStep (.unmapped (cPre 4096 50) 32) (sW (cPre 4096 50)) ∧
    Met CommandStep (.cancel (cPre win 60)) (late (cPre win 60)) := by
  and_intros <;> refine ⟨?_⟩
  · unfold isFill; unfold isCmd
    decide +kernel
  · unfold isCmd
    decide +kernel
  · refine ⟨by unfold isFill; unfold isCmd; decide +kernel, by decide +kernel, first (cPre 4096 50), by decide +kernel⟩
  · unfold isCmd
    decide +kernel

theorem met_routing :
    Met CommandStep (.job cR) (sC cR) ∧
    Met CommandStep (.logit cRaw (read cRaw).2.2 (oks (read cRaw).1) (read cRaw).2.1) (sJ cRaw) ∧
    Met CommandStep (.logitFault cOff (read cOff).2.2 (read cOff).2.1) (sJ cOff) ∧
    Met CommandStep (.routed 0 0 { cRaw with got := [5, 7] }) (sJ { cRaw with got := [5, 7] }) := by
  and_intros <;> refine ⟨?_⟩ <;> first
    | (unfold readsLogit; unfold isCmd; decide +kernel)
    | (unfold isCmd; decide +kernel)
    | decide +kernel

theorem met_moves :
    Met ElementStep (.copy (run' cCopy) (src (run' cCopy)).2.2 (dst (run' cCopy) (src (run' cCopy)).2.2).2 (oks (src (run' cCopy)).1) [131104, 131105, 131106, 131107] (src (run' cCopy)).2.1) (sW (run' cCopy)) ∧
    Met ElementStep (.accw (cAcc 0 9) (src (cAcc 0 9)).2.2 (dst (cAcc 0 9) (src (cAcc 0 9)).2.2).2 (oks (src (cAcc 0 9)).1) [131104, 131105, 131106, 131107] (src (cAcc 0 9)).2.1) (sW (cAcc 0 9)) ∧
    Met ElementStep (.rotate cRot (pairOf cRot).2.2 (tableOf cRot).2.2 (turnTo cRot).2 (oks (pairOf cRot).1) (oks (tableOf cRot).1) (oks (turnTo cRot).1) (pairOf cRot).2.1 (tableOf cRot).2.1) (sW cRot) ∧
    Met ElementStep (.fill (cFill win) (dst (cFill win) (cFill win)).2 [131072, 131073, 131074, 131075]) (sW (cFill win)) ∧
    Met ElementStep (.held (cFill 4096) (dst (cFill 4096) (cFill 4096)).2) (sW (cFill 4096)) ∧
    Met ElementStep (.remote cRem (src cRem).2.2 [131072, 131073, 131074, 131075] (src cRem).2.1) (sW cRem) ∧
    Met ElementStep ((.remoteSignal cRsig (7, 5, 9, -1))) (sW cRsig) := by
  and_intros <;> refine ⟨?_⟩ <;> first
    | (unfold isDoing; unfold isCmd; decide +kernel)
    | (unfold isCmd; decide +kernel)

theorem met_posts :
    Met ElementStep (.performed 0 0 cFly post) (sW cFly) ∧ Met ElementStep (.chunks 0 0 1 cFly post) (sW cFly) := by
  and_intros <;> refine ⟨?_⟩
  · unfold postFree
    decide +kernel
  · refine ⟨by decide +kernel, by decide +kernel, by unfold postFree; decide +kernel, by decide +kernel, fun l => ?_⟩
    simp [State.blocked]

/-- The same scan from its second element on (R293). -/
def cLater : Cmd := { cScan 0 with dw := (cScan 0).dw.set 0 (BitVec.ofNat 64 (2 ^ 16 + 3)) }

theorem met_scanFrom :
    Met ElementStep (.scanned cLater (scanned cLater).2.2 (oks (scanned cLater).1) (scanned cLater).2.1) (sW cLater) := by
  refine ⟨?_⟩
  unfold isScan isCmd
  exact ⟨by decide +kernel, noPairOf (by decide +kernel) (by decide +kernel), by decide +kernel, by decide +kernel⟩

theorem met_scans :
    Met ElementStep (.scanned (cScan 0) (scanned (cScan 0)).2.2 (oks (scanned (cScan 0)).1) (scanned (cScan 0)).2.1) (sW (cScan 0)) ∧
    Met ElementStep (.scanPair (full (cScan 0)) (place (full (cScan 0))).2 3 0x40000000 (oks (place (full (cScan 0))).1)) (sW (full (cScan 0))) ∧
    Met ElementStep (.scanFault cLost (scanned cLost).2.2 (scanned cLost).2.1) (sW cLost) ∧
    Met ElementStep (.none cNone) (sW cNone) ∧ Met ElementStep (.scanEnds cNone) (sW cNone) ∧
    Met ElementStep (.pair cPair ((sW cPair).reachAll true cPair.dform (cPair.d 4) (0 : Nat) 8 cPair).2 1 0 8 77
      (oks ((sW cPair).reachAll true cPair.dform (cPair.d 4) (0 : Nat) 8 cPair).1)) (sW cPair) := by
  and_intros <;> refine ⟨?_⟩ <;> try unfold isScan isCmd
  · exact ⟨by decide +kernel, noPairOf (by decide +kernel) (by decide +kernel), by decide +kernel, by decide +kernel⟩
  · unfold hasPlace
    decide +kernel
  · exact ⟨by decide +kernel, noPairOf (by decide +kernel) (by decide +kernel), by decide +kernel, by decide +kernel, by decide +kernel⟩
  · exact ⟨by decide +kernel, noPairOf (by decide +kernel) (by decide +kernel), by decide +kernel⟩
  · exact ⟨by decide +kernel, noPairOf (by decide +kernel) (by decide +kernel), by decide +kernel, by decide +kernel⟩
  · exact ⟨by decide +kernel, noPairOf (by decide +kernel) (by decide +kernel), by decide +kernel, by decide +kernel, by decide +kernel,
      by decide +kernel⟩

/-- An element that waits here, one of a refused command, and a page that is held. -/
def early : Flit := .write 0 5 8 win [9]
def queued (s : State) : State := { s with ce := { s.ce with inbox := [(3, early)] } }
def turnedAway (s : State) : State := { s with ce := { s.ce with refused := [(3, 0)] } }
def hot (s : State) : State := { s with site0 := { s.site0 with hot := true } }

theorem met_arrivals :
    Met ElementStep (.arrives 3 0 5 8 win [1, 2, 3, 4] [131072, 131073, 131074, 131075] ((sW cRem).bound (Config.binding 3 5 - 1) win 4).2) (sW cRem) ∧
    Met ElementStep (.wide 3 0 5 8 (win + 6) [1, 2, 3, 4] [131078, 131079, 131080, 131081] ((sW cRem).bound (Config.binding 3 5 - 1) (win + 6) 4).2) (sW cRem) ∧
    Met ElementStep (.adds 3 0 5 8 win 0 0 0 0 0 7 [131072, 131073, 131074, 131075] ((sW cRem).bound (Config.binding 3 5 - 1) win 4).2) (sW cRem) ∧
    Met ElementStep (.behind 3 0 5 8 win [1]) (queued (sW cRem)) ∧
    Met ElementStep (.elementHeld 3 0 5 8 win [1, 2, 3, 4] [131072, 131073, 131074, 131075] ((hot (sW cRem)).bound (Config.binding 3 5 - 1) win 4).2) (hot (sW cRem)) ∧
    Met ElementStep (.unbound 3 0 5 8 win [1, 2, 3, 4]) (sW cRem) ∧
    Met ElementStep (.afterRefusal 3 0 5 8 win [1]) (turnedAway (sW cRem)) ∧
    Met ElementStep (.ack 3 0 2 1 cRem) (sW cRem) ∧
    Met ElementStep (.nack 3 0 0x0A cRem) (sW cRem) := by
  and_intros <;> refine ⟨?_⟩
  · exact ⟨landing rfl rfl, bound_eq (by decide +kernel), by decide +kernel, by decide +kernel, by decide +kernel⟩
  · exact ⟨landing rfl rfl, bound_eq (by decide +kernel), by decide +kernel⟩
  · exact ⟨landing rfl rfl, bound_eq (by decide +kernel), by decide +kernel, by decide +kernel⟩
  · exact ⟨⟨(3, early), by decide, rfl, 0, rfl⟩, by decide⟩
  · exact ⟨landing rfl rfl, bound_eq (by decide +kernel), by decide +kernel⟩
  · exact landing rfl rfl
  · decide
  · decide +kernel
  · decide +kernel

end Commands

namespace Hosts

def rec0 : Nat := 2 ^ 64 * (8 + 2 ^ 16 + 2 * 2 ^ 28) + 0x99 * 2 ^ 16
def hp : Packet := { Packet.empty with record := BitVec.ofNat 1024 rec0, phase := .dispatched, queue := 5, qidx := 7, hi0 := 4 }
def R0 : State := State.reset
def qd : Queue := { Queue.empty with func := 3 }
def qe : Queue := { Queue.empty with func := 3, en := true, readIdx := 7, notified := 8 }
def s3 : State := R0.setQueue 5 qd
def s3e : State := (R0.setQueue 5 qe).setFunc 3 { Func.empty with en := true }
def s3p (p : Packet) : State := { s3e with lfe := { s3e.lfe with packets := [(0, p)], nextPacket := 1 }, tasks := [(192, { Task.empty with packet := 0 }), (193, { Task.empty with packet := 0, phase := .running })] }
def base : State := { s3p hp with lfe := { (s3p hp).lfe with queues := [(5, { qe with notified := 7 })] } }
def heldP : Packet := { hp with phase := .held }
def baseH : State := { base with lfe := { base.lfe with packets := [(0, heldP)] } }


theorem met_hostStepA :
    Met HostStep (.qbase 3 5 0xFEDCBA9876543210) (s3) ∧
    Met HostStep (.cbase 3 5 0xFEDCBA9876543210) (s3) ∧
    Met HostStep (.qstat 3 5 3) (R0.setQueue 5 { qd with cfgerr := true, cfull := true }) ∧
    Met HostStep (.foreignQueue 4 5 127 0xFEDCBA9876543210) (s3) ∧
    Met HostStep (.notPhysical 4 0x00300000 0xFEDCBA9876543210) (s3) ∧
    Met HostStep (.weight 63 0x10000) (R0) ∧
    Met HostStep (.share 1 32) (R0) ∧
    Met HostStep (.swap 7 0xFEDCBA9876543210) (R0) ∧
    Met HostStep (.strip 1 0x1000F) (R0) ∧
    Met HostStep (.budget 31 0xFEDCBA9876543210) (R0) ∧
    Met HostStep (.moderation 63 0xFEDCBA9876543210) (R0) ∧
    Met HostStep (.pool 1 (256 + 2 ^ 16 + 16 * 2 ^ 17)) (R0) := by
  and_intros <;> refine ⟨?_⟩ <;> first | decide +kernel | (unfold owns; decide +kernel)

theorem met_hostStepB :
    Met HostStep (.mailbox 63 0xC1) (R0) ∧
    Met HostStep (.mask 63 2047 1) (R0) ∧
    Met HostStep (.enable 3 5 (4 * 2 ^ 20 + 16 * 2 ^ 15 + 1 + 9 * 2 ^ 40 + 7 * 2 ^ 25) { qd with asc := 9, semf := 7, clog := 4, qlog := 16 }) ({ s3 with hif := { R0.hif with ownFile := [(7, 3)], ownAsc := [(9, 3)] } }) ∧
    Met HostStep (.refuse 3 5 (3 * 2 ^ 20 + 16 * 2 ^ 15 + 1)) (s3) ∧
    Met HostStep (.reset 3 5 (4 * 2 ^ 20 + 4 * 2 ^ 15)) (s3p { hp with phase := .waiting }) ∧
    Met HostStep (.notify 3 5 (7 + 16)) (s3e) ∧
    Met HostStep (.range 3 5 (7 + 17)) (s3e) ∧
    Met HostStep (.dropped 3 5 8) (s3) ∧
    Met HostStep (.withdraw 3 5 0 0x99 heldP) (baseH) ∧
    Met HostStep (.withdrawNone 3 5 0) (base) ∧
    Met HostStep (.withdrawLater 3 5 9) (base.setQueue 5 { qe with busy := true }) ∧
    Met HostStep (.consumed 3 5 0xFEDCBA9876543210) (s3) := by
  and_intros <;> refine ⟨?_⟩ <;> first | decide +kernel | (unfold owns; decide +kernel)

/-- Function 3 with a memory write of its host not yet performed. -/
def posted : State := s3e.setFunc 3 { Func.empty with en := true, posted := [.mem [(4096, 1)]] }

theorem met_hostStepD :
    Met HostStep (.requestBase 63 0xFEDCBA9876543210) R0 ∧
    Met HostStep (.responseBase 63 0xFEDCBA9876543210) R0 ∧
    Met HostStep (.notifyBehind 3 5 8) posted ∧
    Met HostStep (.counterBehind 3 7 255 9) posted ∧
    Met HostStep (.withdrawBehind 3 5 8) posted ∧
    Met HostStep (.killBehind 3 5 8) posted ∧
    Met HostStep (.requestsBehind 3 8) posted ∧
    Met HostStep (.foreignCounter 3 7 255 9) R0 ∧
    Met HostStep (.noRequests 3 1) { R0 with hif := { R0.hif with health := .storm } } := by
  and_intros <;> refine ⟨?_⟩ <;> first | exact trivial | decide +kernel

/-- A memory write, a notify and a counter write at the head of what a host has posted. -/
theorem witness_posted : mayPostMem R0 0 ∧ mayPostMem s3e 3 ∧ (posted.func 3).posted = [.mem [(4096, 1)]] ∧
    (∀ c ∈ [((4096 : Nat), (1 : Byte))], posted.heldAt c.1 = false) := by
  unfold mayPostMem; decide +kernel

theorem met_hostStepC :
    Met HostStep (.counter 3 7 255 9) ({ R0 with hif := { R0.hif with ownFile := [(7, 3)] } }) ∧
    Met HostStep (.kill 3 5 0 (2 ^ 32 + 7) hp) (base) ∧
    Met HostStep (.killWaiting 3 5 0 (2 ^ 32 + 7) heldP) (baseH) ∧
    Met HostStep (.requests 63 16) (R0.setFunc 63 { Func.empty with en := true, mbEn := true, mbLog := 4 }) := by
  and_intros <;> refine ⟨?_⟩ <;> first | decide +kernel | (unfold owns; decide +kernel)

theorem met_hostStepCOthers :
    Met HostStep (.flr 3) ({ base with lfe := { base.lfe with packets := [(0, { hp with func := 3 })] } }) := by
  refine ⟨?_⟩
  refine ⟨by decide, by decide, by decide +kernel, ?_⟩; decide +kernel

theorem met_resetStep :
    Met ResetStep (.cold) ({ s3 with fabno := 4, time := 9 }) ∧
    Met ResetStep (.complete 1) ({ R0 with hif := { R0.hif with reset1 := true } }) ∧
    Met ResetStep (.tooLate 1) ({ R0 with hif := { R0.hif with reset1 := true }, time := 4194305 }) ∧
    Met ResetStep (.timeout 1) ({ base with hif := { R0.hif with reset1 := true }, time := 4194305 }) ∧
    Met ResetStep (.inTime 1) R0 ∧
    Met ResetStep (.freeze) (R0) ∧
    Met ResetStep (.unfreeze) (R0) ∧
    Met ResetStep (.warm 0) (R0) := by
  and_intros <;> refine ⟨?_⟩ <;> first | exact trivial | decide +kernel

end Hosts

namespace Mails

def R0 : State := State.reset
def win : Nat := 2 ^ 51 + 9 * 2 ^ 42 + 2 ^ 34
/-- request n of function fn: code, tag 0xABCD, operand bytes -/
def req (code : Nat) (ops : List (Nat × Nat)) : Nat := sumNat (ops.map fun e => e.2 * 2 ^ (8 * e.1)) + code * 2 + 0xABCD * 2 ^ 48
def ask (fn w : Nat) (s : State) : State :=
  (s.setFunc fn { Func.empty with en := true, mbEn := true, mbLog := 4, mbQbase := 0x8000, mbRbase := 0xC000, mbNotified := 1 }).perform (cellsAt 0x8000 (bytesOf 64 w))
def own : State := { R0 with hif := { R0.hif with ownSlot := [(5, 3)], ownAsc := [(4, 3)] } }.setRslot 9 { RSlot.empty with state := .resident, mapOk := true, func := 3, weights := [131072, 262144], writable := true }
def S (fn code : Nat) (ops : List (Nat × Nat)) : State := ask fn (req code ops) own
def W (code : Nat) (ops : List (Nat × Nat)) : Nat := req code ops
def lops : List (Nat × Nat) := [(8, 5), (9, 1), (10, 4), (16, win), (24, 4096), (32, win + 65536), (40, 128), (48, win), (56, 1)]
def rl (_k : Nat) : RSlot := { RSlot.empty with state := .loading, gen := 4, func := 3, image := [65536], isize := 4096, mapOk := true, owed := [owed 3 (W 1 [])] }
def sL (k : Nat) : State := ((own.setFunc 3 { Func.empty with mbEn := true, mbLog := 4, mbRbase := 0xC000 }).setRslot 5 (rl k)).perform (cellsAt 65536 (bytesOf 64 k))
def hv : Handle := { Handle.invalid with v := true, base := 131072, size := 65536, asc := 4, va := win }
def sRev : State := { S 3 3 [(8, 4), (16, win), (24, 65536)] with tasks := [(192, { Task.empty with h := [(2, hv)] })] }
def au : AUnit := { AUnit.none with exist := true, free := true }
def arenaS : State := (S 0 4 [(8, 4), (10, 6), (12, 77)]).setSite 6 { R0.site6 with arena := [(unitKey 0 0, au)] }
def im : FwImage := { addr := 4096, len := 4096, version := 7, hash := 0 }
def fw (s : State) (x : FwState) : State := { s with hif := { s.hif with fwState := x, staged := some im } }
def pinS : State := (S 3 7 [(8, 4), (16, win), (24, 131072)]).setSite 0 { R0.site0 with pins := [2, 4] }
def lastS : State := { fw own .switching with cores := (List.range 191).map fun c => (c + 1, { Core.empty with fwSwitched := true }) }
def backS : State := { own with cores := [(5, { Core.empty with fwOld := some im })] }
/-- A fault on core 5 that the firmware answers. -/
def busyS : State :=
  let f : FaultRec := { cause := 0x0B, addr := 0, data := 0, src := 0, await := 0, pos := 0 }
  { own with tasks := [(192, { Task.empty with core := 5, phase := .switchedOut f })] }
/-- The page of an image, or of function 3's next response, takes part in a swap. -/
def imageHeld (s : State) : State := { s with site0 := { s.site0 with swapping := some (1, 0) } }
def replyHeld (s : State) : State := imageHeld (s.setFunc 3 { s.func 3 with mbRbase := 0x1C000 })
/-- Site 1 is held, and the root table of address-space context 4 lies in it. -/
def tableHeld (s : State) : State := { s with site1 := { s.site1 with hot := true }, roots := [(4, some (2 ^ 38))] }
def wops : List (Nat × Nat) := [(8, 5), (9, 1), (10, 4), (16, 65536), (24, 4096)]

theorem everyBelow {n : Nat} {P : Nat → Prop} [DecidablePred P] (h : ((List.range n).all fun a => decide (P a)) = true) :
    ∀ a, a < n → P a := fun a ha => by
  have := List.all_eq_true.mp h a (List.mem_range.mpr ha); simpa using this

/-- Core c is at an idle point. -/
def idle? (s : State) (c : Nat) : Bool :=
  (s.tasks.all fun e => e.2.coreKey != c || (match e.2.phase with | .switchedOut _ => false | _ => true)) &&
    (s.hif.slots.all fun e => e.2.owed.isEmpty) && (s.hif.revs.all fun e => e.2.owed.isNone) && (find s.tasks c).isNone &&
    s.hif.replies.isEmpty && s.ce.cmds.isEmpty && s.lfe.packets.isEmpty

theorem idleOf {s : State} {c : Nat} (h : idle? s c = true) : idlePoint s c := by
  simp only [idle?, Bool.and_eq_true, List.all_eq_true] at h
  obtain ⟨⟨⟨⟨⟨⟨h1, h2⟩, h3⟩, h4⟩, h5⟩, h6⟩, h7⟩ := h
  rw [List.isEmpty_iff] at h5 h6 h7
  refine ⟨fun e he hc x hx => ?_, fun e he => by simpa using h2 e he, fun e he => by simpa using h3 e he, h5,
    fun e he => absurd (h6 ▸ he) List.not_mem_nil, fun e he => absurd (h7 ▸ he) List.not_mem_nil, fun k hk => ?_⟩
  · have := h1 e he
    rw [hx] at this; simp [hc] at this
  · rw [hk] at h4; cases h4

def rangeL (r : Range) : List Nat := match r with | .ok l => l | _ => []

theorem met_slotRequests :
    Met MailStep (.unknown (.clearPins 3) 3 (W 13 []) 7 false (.pins 3)) (S 3 13 []) ∧
    Met MailStep (.waiting (.clearPins 3) 3 (W 13 []) 7 false (.pins 3)) (replyHeld (S 3 13 [])) ∧
    Met MailStep (.notYours (.siteRight 3) 3 (W 5 [(8, 4)]) 5 (.right 3)) (S 3 5 [(8, 4)]) ∧
    Met MailStep (.load 3 (W 1 lops) 5 [131072] [262144] [131072]) (S 3 1 lops) ∧
    Met MailStep (.loadWaits 3 (W 1 wops) 5) (tableHeld (S 3 1 wops)) ∧
    Met MailStep (.badLoad 5 (rl 4096) 0) (sL 4096) ∧
    Met MailStep (.loadHeld 5 (rl 4096)) (imageHeld (sL 4096)) ∧
    Met MailStep (.unloadNone 3 (W 2 [(8, 5)])) (S 3 2 [(8, 5)]) ∧
    Met MailStep (.unload 3 (W 2 [(8, 5)])) ((S 3 2 [(8, 5)]).setRslot 5 { RSlot.empty with state := .resident, func := 3, gen := 6 }) ∧
    Met MailStep (.unloading 3 (W 2 [(8, 5)])) ({ ((S 3 2 [(8, 5)]).setRslot 5 { RSlot.empty with state := .resident, func := 3, gen := 6 }) with lfe := { R0.lfe with packets := [(0, { Packet.empty with record := 5 * 2 ^ 40, phase := .dispatched, hi0 := 1 })] } }) := by
  and_intros <;> refine ⟨?_⟩ <;> first | decide +kernel | (unfold asks; decide +kernel) | (unfold mayReply; decide +kernel) |
    (unfold asks mayReply; decide +kernel)

theorem met_slotLoaded : Met MailStep (.loaded 5 (rl 2048) 3 (W 1 [])) (sL 2048) := by
  refine ⟨?_⟩
  unfold mayReply
  decide +kernel

theorem met_rangeRequests :
    Met MailStep (.revoke 3 (W 3 [(8, 4), (16, win), (24, 65536)])) (sRev) ∧
    Met MailStep (.revoked 2 3 (W 3 []) { owed := some (owed 3 (W 3 [])), cmds := [], writes := [] }) ({ sL 0 with hif := { (sL 0).hif with revs := [(2, { owed := some (owed 3 (W 3 [])), cmds := [], writes := [] })] } }) ∧
    Met MailStep (.revoking 2 192 { owed := none, cmds := [], writes := [(some 192, 131072, 65536)] } 131072 65536
      { Task.empty with slice := [.write [(131073, 1)] 0 0 0] }) ({ sRev with tasks := [(192, { Task.empty with slice := [.write [(131073, 1)] 0 0 0] })], hif := { sRev.hif with revs := [(2, { owed := none, cmds := [], writes := [(some 192, 131072, 65536)] })] } }) ∧
    Met MailStep (.quota (W 4 [(8, 4), (10, 6), (12, 77)]) 6) (arenaS) ∧
    Met MailStep (.right (W 5 [(8, 4), (10, 7), (11, 1)]) 7) (S 0 5 [(8, 4), (10, 7), (11, 1)]) ∧
    Met MailStep (.assignQueue (W 6 [(8, 0), (10, 2047), (12, 63)])) (S 0 6 [(8, 0), (10, 2047), (12, 63)]) ∧
    Met MailStep (.assignFile (W 6 [(8, 1), (10, 511), (12, 63)])) (S 0 6 [(8, 1), (10, 511), (12, 63)]) ∧
    Met MailStep (.assignSlot (W 6 [(8, 2), (10, 255), (12, 63)])) (S 0 6 [(8, 2), (10, 255), (12, 63)]) ∧
    Met MailStep (.pins 3 (W 7 [(8, 4), (16, win), (24, 131072)]) [131072, 262144]) (pinS) := by
  and_intros <;> refine ⟨?_⟩ <;> first | decide +kernel | (unfold asks; decide +kernel) | (unfold mayReply; decide +kernel) |
    (unfold asks mayReply; decide +kernel)

theorem met_images :
    Met MailStep (.imageBeyond (W 8 [(16, 2 ^ 60), (24, 4096)]) true 7) (S 0 8 [(16, 2 ^ 60), (24, 4096)]) ∧
    Met MailStep (.coreLate 5) ({ fw own .switching with time := 2 ^ 24 + 1 }) ∧
    Met MailStep (.switch (W 9 [])) (fw (S 0 9 []) .staged) ∧
    Met MailStep (.discard (W 10 [])) (fw (S 0 10 []) .staged) ∧
    Met MailStep (.rollBack 5) ({ fw own .switching with time := 2 ^ 24 + 1 }) ∧
    Met MailStep (.inTime 5) (fw own .switching) := by
  and_intros <;> refine ⟨?_⟩ <;> first | decide +kernel | (unfold asks; decide +kernel) | (unfold asks mayReply; decide +kernel) |
    exact ⟨by decide, idleOf (by decide +kernel), by decide +kernel, by decide +kernel, by decide +kernel, by decide +kernel⟩

theorem met_staging :
    Met MailStep (.stage (W 8 [(16, 4096), (24, 4096)]) 7) (S 0 8 [(16, 4096), (24, 4096)]) ∧
    Met MailStep (.unsigned (W 8 [(16, 4096), (24, 4096)]) 7) (S 0 8 [(16, 4096), (24, 4096)]) := by
  have quiet (a : Nat) : (S 0 8 [(16, 4096), (24, 4096)]).heldAt a = false := heldAt_quiet _ (by decide +kernel) a
  and_intros <;> refine ⟨?_⟩ <;> unfold asks <;> try unfold mayReply
  all_goals
    simp only [quiet, implies_true, and_true]
    decide +kernel

theorem met_idlePoints :
    Met MailStep (.coreSwitch 0) (fw own .switching) ∧ Met MailStep (.coreBack 5) backS ∧ Met MailStep (.notIdle 5) busyS ∧
    Met MailStep (.commit 0 im) (lastS) := by
  and_intros <;> refine ⟨?_⟩
  · exact ⟨by decide, idleOf (by decide +kernel), by decide +kernel, by decide +kernel, by decide +kernel, 1, by decide, by decide, by decide +kernel⟩
  · exact ⟨by decide, idleOf (by decide +kernel), by decide +kernel, by decide +kernel⟩
  · intro h
    exact h.1 _ (List.mem_singleton.mpr rfl) (by decide +kernel) _ rfl
  · refine ⟨by decide, idleOf (by decide +kernel), by decide +kernel, by decide +kernel, by decide +kernel, ?_, by decide +kernel⟩
    exact everyBelow (n := 192) (P := fun d => d ≠ 0 → (lastS.core d).fwSwitched = true) (by decide +kernel)

theorem met_reports :
    Met MailStep (.report 3 (W 11 [(40, 4), (48, win)]) (rangeL ((taken (S 3 11 [(40, 4), (48, win)]) 3).rangeOf 4 (fun x => x.w) 1 win 2964))) (S 3 11 [(40, 4), (48, win)]) ∧
    Met MailStep (.noLeaf 3 (W 11 [(40, 4), (48, win)])) ({ S 3 11 [(40, 4), (48, win)] with hif := { (S 3 11 []).hif with leaf := 2 ^ 20 } }) ∧
    Met MailStep (.key 3 (W 12 [(40, 4), (48, win)]) (rangeL ((taken (S 3 12 [(40, 4), (48, win)]) 3).rangeOf 4 (fun x => x.w) 1 win 56))) (S 3 12 [(40, 4), (48, win)]) := by
  and_intros <;> refine ⟨?_⟩ <;> (unfold asks mayReply; decide +kernel)

end Mails

namespace Sites

def R0 : State := State.reset
def st (i : Nat) (f : Site → Site) : State := R0.setSite i (f (R0.site i))
def hd : HandOver := { file := 1, counter := 7, delta := 2 }
def baro (s : State) : State := { s with hif := { s.hif with baro := { s.hif.baro with total := 5, head := 5 } } }

theorem reservedBelow : ((List.range 64).all fun a => !reserved (4096 + a) && R0.stands (4096 + a)) = true := by decide +kernel


theorem met_siteStepA :
    Met SiteStep (.writingBack 7) (st 7 fun x => { x with hstate := .draining }) ∧
    Met SiteStep (.switching 7) (st 7 fun x => { x with hstate := .writingBack }) ∧
    Met SiteStep (.over 7 hd) ((st 7 fun x => { x with hstate := .switching, hand := some hd })) ∧
    Met SiteStep (.swap 7 786431 2) (st 7 fun x => { x with shadow := [(786432 * 2 + 786431, 16)] }) ∧
    Met SiteStep (.pinnedMeanwhile 7 3 2) (st 7 fun x => { x with swapping := some (3, 2), pins := [3 + 786432 * x.fastSlot 3] }) ∧
    Met SiteStep (.hold 7) (R0) ∧
    Met SiteStep (.release 7) (st 7 fun x => { x with hot := true }) ∧
    Met SiteStep (.releaseLate 7) ({ (st 7 fun x => { x with hot := true, timedOut := true }) with time := 1879701 }) ∧
    Met SiteStep (.longHold 7) ({ (st 7 fun x => { x with hot := true }) with time := 1879701 }) := by
  and_intros <;> refine ⟨?_⟩ <;> first | decide +kernel | (unfold firstOfCycle; decide +kernel)

theorem met_siteStepAOthers :
    Met SiteStep (.draining 7) (st 7 fun x => { x with hstate := .revoking }) ∧
    Met SiteStep (.swapped 7 3 2) (st 7 fun x => { x with swapping := some (3, 2) }) ∧
    Met SiteStep (.uncorrected 4096 64) (R0) ∧
    Met SiteStep (.inTable (2 ^ 38 - 2 ^ 38 + 240 * 2 ^ 30 - 8) 8) (R0) ∧ Met SiteStep (.noByte (2 ^ 45) 8) R0 := by
  and_intros <;> refine ⟨?_⟩
  · refine ⟨by decide, by decide +kernel, ?_, ?_, ?_⟩ <;> (intro e he; exact absurd he List.not_mem_nil)
  · exact ⟨by decide, by decide +kernel, by decide +kernel, by decide, by decide +kernel, by decide +kernel, 0, by decide +kernel⟩
  · refine ⟨by decide +kernel, fun a h1 h2 => ?_, by decide +kernel⟩
    have := List.all_eq_true.mp reservedBelow (a - 4096) (List.mem_range.mpr (by omega))
    rw [Nat.add_sub_cancel' h1] at this
    simpa using this
  · refine ⟨by decide +kernel, ⟨240 * 2 ^ 30 - 4, by decide, by decide, by decide +kernel⟩, by decide +kernel⟩
  · decide +kernel

theorem met_siteStepB :
    Met SiteStep (.strip 191) (R0.setCore 191 { Core.empty with mmas := 4096 }) ∧
    Met SiteStep (.passes 191 3) (R0.setCore 191 { Core.empty with strip := true, fenced := 7 }) ∧
    Met SiteStep (.fails 191 3) (R0.setCore 191 { Core.empty with strip := true, fenced := 4 }) ∧
    Met SiteStep (.withdrawn 191 0x1FF) (R0.setCore 191 { Core.empty with strip := true, fenced := 4 }) ∧
    Met SiteStep (.retrain 95) ({ baro R0 with time := 9 }) ∧
    Met SiteStep (.lost 3) (R0) ∧
    Met SiteStep (.decay 7) ({ R0 with time := 2 ^ 24 }) ∧
    Met SiteStep (.early 7) (R0) := by
  and_intros <;> refine ⟨?_⟩ <;> first | decide +kernel | (unfold firstOfCycle; decide +kernel)

theorem met_siteStepBOthers :
    Met SiteStep (.corrected 7 (7 * 2 ^ 38)) (R0) ∧
    Met SiteStep (.counted 7 (7 * 2 ^ 38)) (st 7 fun x => { x with correctedAt := some 0 }) := by
  and_intros <;> refine ⟨?_⟩
  · refine ⟨by decide, by decide +kernel, by decide +kernel, ?_, by decide +kernel⟩; intro t h; cases h
  · exact ⟨by decide, by decide +kernel, by decide +kernel, .inr ⟨0, by decide +kernel⟩⟩

end Sites

end Steps

/-! ### Worked examples of the spec -/

def rounds (n d : Nat) (neg : Bool) (rnd sat : Nat) : Nat × BitVec 6 :=
  roundTo (.fin neg n d) 3 { Mode.default with rnd := rnd, sat := sat } 0

/-- SHA-256 of "abc" (FIPS 180-4). -/
theorem test_sha256 : wordOfBytes (sha256 [0x61, 0x62, 0x63]).reverse =
    0xBA7816BF8F01CFEA414140DE5DAE2223B00361A396177A9CB410FF61F20015AD := by decide +kernel

/-- The table of f32 to e4m3 of 03_numbers.md. -/
theorem test_round_e4m3 : rounds 300 1 false 0 0 = (0x79, flagNX) ∧ rounds 460 1 false 0 0 = (0x7E, flagNX) ∧
    rounds 470 1 false 0 0 = (0x7F, flagOF ||| flagNX) ∧ rounds 470 1 false 0 1 = (0x7E, flagOF ||| flagNX ||| flagSC) ∧
    rounds 1 1000 false 0 0 = (0x01, flagNX ||| flagUF) ∧ rounds 1 1000 true 1 0 = (0x80, flagNX ||| flagUF) ∧
    roundTo (.inf false) 3 { Mode.default with sat := 1 } 0 = (0x7E, flagSC) := by decide +kernel

/-- 0.375 ulp above 1 in bf16: down under rne, and up under rsr exactly from r = 40,960 (R65, log 34). -/
theorem test_round_bf16 : (roundTo (.fin false 1027 1024) 1 Mode.default 0).1 = 0x3F80 ∧
    (roundTo (.fin false 1027 1024) 1 { Mode.default with rnd := 5 } 40960).1 = 0x3F81 ∧
    (roundTo (.fin false 1027 1024) 1 { Mode.default with rnd := 5 } 40959).1 = 0x3F80 := by decide +kernel

/-- 300.7 to i8, and 100 + 100 in i8 (R70). -/
theorem test_round_i8 : roundTo (.fin false 3007 10) 7 { Mode.default with conv := true } 0 = (127, flagSC ||| flagNX ||| flagNV) ∧
    roundTo (.fin false 3007 10) 7 { Mode.default with conv := true, sat := 2 } 0 = (127, flagSC ||| flagNX) ∧
    roundTo (ofInt 200) 7 Mode.default 0 = (200, 0) ∧ intValue 7 200 = -56 ∧
    roundTo (ofInt 200) 7 { Mode.default with sat := 2 } 0 = (127, flagSC) := by decide +kernel

/-- The block of the example under R79. -/
def block8 : List Machine.Num := [.fin false 1 4, .fin true 5 4, .fin false 5 2, .fin false 0 1, .fin false 33 8, .fin true 3 4, .fin false 1 1, .fin false 13 4]
theorem test_block_scale : blockScale (amaxN block8) = 0x4C ∧
    block8.map (fun v => (packElem 0 0x4C 0 v).1) = [0x1, 0xC, 0x6, 0x0, 0x7, 0xA, 0x3, 0x6] := by decide +kernel

/-- Constants of R53: k.inv3 and k.ones32. -/
theorem test_constants : ((List.range 256).any fun n => romBits (768 + n) 1 == 0x3EAB) = true ∧ romBits 1020 0 = 0x43E00000 := by
  decide +kernel

/-- The address of the example under R184: site 3, group 327,683, slot 3, in capacity frame 2. -/
theorem test_page : siteOf 0x00E900031234 = some 3 ∧ pageGroup 0x00E900031234 = 327683 ∧ pageSlot 0x00E900031234 = 3 ∧
    (State.reset.site 3).frame 327683 3 = 3 := by decide +kernel

def xOf (i : Instr) (l : List (Nat × W64)) (d : Reg) : W64 :=
  match exec i (withK { k0 with x := l }) with | .next t => (t.task 192).rx d | _ => 0

/-- IDX2 and LIH of 07_control_slice.md. -/
theorem test_scalar_values : xOf (.idx2 9 4 5) [(4, 0x300000007), (5, 100)] 9 = 307 ∧
    xOf (.lih 10 0x00051100) [] 10 = 0x0005110000000000 ∧ xOf (.addi 4 4 (-8)) [(4, 8)] 4 = 0 := by decide +kernel

/-- CQPM.cm rows 4, x5 with x5 = 6 (R174). -/
theorem test_mask_payload : (match exec (.cqpm 1 5 0 1 4 0) (withK { k0 with x := [(5, 6)] }) with
    | .next t => (t.task 192).ord.ctqCm.map (·.val) | _ => []) = [0x48000C0000000000] := by decide +kernel

/-! ### The step -/

/-- Bits as the table numbers them decode, and stand where the step fetches its next instruction. -/
theorem test_table_words : decodeTableWord 32 0x68510904 = some (.idx2 9 4 5) ∧
    decodeTableWord 64 0x0005110004000A05 = some (.lih 10 0x00051100) ∧ decodeTableWord 32 0 = none := by
  decide +kernel

def placed1 : State := State.reset.withFetchWord 32 0x68510904
theorem witness_step_slice : placed1.agenda.head? = some (.issue 192) ∧ (find placed1.tasks 192).any (fun k =>
    decide (k.phase = .running) && decide (k.missing = none) && decide (k.yieldLeft = 0) &&
    decide (placed1.fetch k k.pc = some 0x68510904) && decide (placed1.lineNeeded k k.pc 0x68510904 = none) &&
    decide (decodeUnit (k.pc % 8 == 4) 0x68510904 (placed1.fetch k (k.pc + 4)) (placed1.fetch k (k.pc + 8)) = .ok (.idx2 9 4 5) 4) &&
    !placed1.fetchBad k k.pc &&
    hasIssued 192 k (exec (.idx2 9 4 5) ({ placed1 with agenda := [], cur := 192, turn := .slice }.setTask 192 { k with waitQ := some 3 })) &&
    { placed1 with agenda := [] }.mayTake 192 k) = true := by decide +kernel

/-- The same on both contexts of a core, of which A goes first; and with context F. -/
def both : State :=
  { placed1 with tasks := (0, { Task.empty with fw := true }) :: placed1.tasks ++ [(193, { placed1.task 192 with ctx := 1 })],
                 cores := [(0, { placed1.core 0 with ctxB := { run := some 193, susp := none } })] }
theorem witness_slots : (both.readyUsers 0).map (fun e => e.1) = [192, 193] ∧ both.mayTake 192 (both.task 192) = true ∧
    both.mayTake 193 (both.task 193) = false ∧ weightFn both (both.task 192) = weightFn both (both.task 193) ∧
    find both.tasks 0 = some { Task.empty with fw := true } ∧ (placed1.readyUsers 0).length = 1 ∧ State.reset.readyUsers 0 = [] := by
  decide +kernel

/-- A unit that waits for a load. -/
theorem witness_unit_waits : hasIssued 192 kLoad (exec (.sub 5 6 7) ((withK kLoad).setTask 192 { kLoad with waitQ := some 3 })) = false := by decide +kernel

/-- The placed instruction runs. -/
theorem test_placed_runs : (match step placed1 with | .next t => decide ((t.task 192).pc = (placed1.task 192).pc + 4) | _ => false) = true := by
  decide +kernel

def headState : State := { headS (withK (headK k0 1 (ent (vAdd none 1 2)) [])) 1 with agenda := [.head 192 1 false] }
theorem witness_step_head : find headState.tasks 192 = some (headK k0 1 (ent (vAdd none 1 2)) []) ∧
    ((headK k0 1 (ent (vAdd none 1 2)) []).set false |>.rq 1).entries = [ent (vAdd none 1 2), ent .nop] ∧
    (ent (vAdd none 1 2)).instr.home = some 1 := by decide +kernel

/-- A step of the device that is due, an empty agenda, and memory in its form. -/
theorem witness_step_event : (Instr.packageColdReset 0).hasWords = false ∧ (Instr.packageColdReset 0).wf = true := by decide
theorem witness_step_round : State.reset.agenda = [] := rfl
theorem witness_step_memory : State.reset.memWf ∧ placed1.memWf ∧ ∃ t, step placed1 = .next t := by
  refine ⟨by unfold State.memWf; decide +kernel, by unfold State.memWf; decide +kernel, ?_⟩
  have h : (match step placed1 with | .next _ => true | _ => false) = true := by decide +kernel
  revert h
  generalize step placed1 = o
  intro h
  cases o with
  | next t => exact ⟨t, rfl⟩
  | _ => cases h
theorem witness_round_trip : (Instr.add 1 2 3).wf = true ∧ (Instr.add 1 2 3).hasWords = true := by decide

/-! ### The end and the run of a command -/

namespace Steps
namespace Commands

theorem witness_command_ends : find (sC cCopy).ce.cmds 0 = some cCopy ∧ find (sC cCopy).tasks cCopy.task = some { Task.empty with packet := 0 } ∧
    find (sC cCopy).lfe.packets cCopy.packet = some hp ∧ cCopy.nr = false ∧ cCopy.signals = [] ∧ cCopy.kind ≤ 3 ∧ hp.status = 0 ∧
    ((sC cCopy).hif.funcs.all fun e => !e.2.flr) = true ∧ (sC cCopy).ce.cmds = [(0, cCopy)] := by decide +kernel

theorem witness_command_runs : isCmd (sW (run' cCopy)) (run' cCopy) ∧ (run' cCopy).work = 0 ∧ (sW (run' cCopy)).remote (run' cCopy) = false ∧
    isCmd (sW (cAcc 0 9)) (cAcc 0 9) ∧ (cAcc 0 9).work = 1 ∧ isCmd (sW cRot) cRot ∧ cRot.work = 2 ∧ isCmd (sW (cFill win)) (cFill win) ∧
    (cFill win).work = 5 ∧ isCmd (sW cRem) cRem ∧ cRem.rsub = 0 ∧ (sW cRem).remote cRem = true ∧ cRem.state = .running := by
  unfold isCmd; decide +kernel

end Commands
end Steps

/-- The hypothesis of NopWord is met: a prefix word that is well formed. -/
theorem witness_nop_prefix : decPfx 0x242 = .ok (.pxm 0 1 1) := by decide

/-- So is that of its clause on the words of NOP. -/
theorem witness_nop_word : (∀ w ∈ [0xFC], w < 2 ^ 32) ∧ decodeWords [0xFC] = .ok .nop 4 := by decide

/-- What the clauses of EarlyBytes ask is met: an address read apart, with a later read of it by another reader, and one that is not. -/
theorem witness_early_bytes :
    let l : List (LfeRead × Nat × Byte × Bool) := [(.record 5, 64, 7, false), (.table 1, 64, 9, true)]
    mapped 64 = true ∧ mapped 65 = true ∧ (∀ e ∈ l, e.1 = .record 5 → e.2.1 ≠ 65) ∧
      (∀ e ∈ l.drop 1, e.1 = .record 5 → e.2.1 ≠ 64) := by decide

end Sys2Proof.Tests
end

section
/-! SUPPORT. What a host read of a register returns, by block of the register map, and what the tables hold at reset (O60). -/

namespace Sys2Proof.Machine

/-! ### The register map of W0, as the physical function reads it (R6) -/

/-- Queue q's block: register r of the queue (R108). -/
theorem readReg_queue (s : State) {q r : Nat} (hq : q < 2048) (hr : r < 128) :
    s.readReg 0 (0x00100000 + 128 * q + r) = BitVec.ofNat 64 ((s.queue q).reg r) := by
  have hblock : 0x00100000 ≤ 0x00100000 + 128 * q + r ∧ 0x00100000 + 128 * q + r < 0x00140000 := by omega
  have hslots : ¬(0x00010000 ≤ 0x00100000 + 128 * q + r ∧ 0x00100000 + 128 * q + r < 0x00010800) := by omega
  have hindex : (0x00100000 + 128 * q + r) / 128 % 2048 = q := by omega
  have hoff : (0x00100000 + 128 * q + r) % 128 = r := by omega
  have hreach : s.reaches 0 q = true := by simp [State.reaches, hq]
  simp only [State.readReg, hslots, hblock, hindex, hoff, hreach, and_self, if_true, if_false]

/-- Past the counters every register but HIF_HEALTH is one of the physical function's own. -/
theorem readReg_readPf (s : State) {off : Nat} (hlow : 0x00280000 ≤ off) (hhealth : off ≠ 0x00780008) :
    s.readReg 0 off = BitVec.ofNat 64 (s.readPf off) := by
  have hslots : ¬(0x00010000 ≤ off ∧ off < 0x00010800) := by omega
  have hqueues : ¬(0x00100000 ≤ off ∧ off < 0x00140000) := by omega
  have hsems : ¬(0x00200000 ≤ off ∧ off < 0x00280000) := by omega
  simp only [State.readReg, hslots, hqueues, hsems, hhealth, if_true, if_false]

/-- HIF_HEALTH reads alike in every function (R384). -/
theorem readReg_health (s : State) (fn : Nat) : s.readReg fn 0x00780008 = BitVec.ofNat 64 s.healthWord := by
  simp [State.readReg]

/-- LFE_CPCFG of die d (R129). -/
theorem readReg_cpcfg (s : State) {d : Nat} (hd : d ≤ 1) : s.readReg 0 (0x00300000 + 64 * d) =
    BitVec.ofNat 64 ((s.pool d).slog * 2 ^ 17 + (s.pool d).sen.toNat * 2 ^ 16 + (s.pool d).hwm) := by
  have hblock : 0x00300000 ≤ 0x00300000 + 64 * d ∧ 0x00300000 + 64 * d < 0x00300080 := by omega
  have hindex : (0x00300000 + 64 * d) / 64 % 2 = d := by omega
  have hoff : (0x00300000 + 64 * d) % 64 = 0 := by omega
  rw [readReg_readPf s (by omega) (by omega)]
  simp only [State.readPf, hblock, hindex, hoff, and_self, if_true]

/-- LFE_VFWEIGHT of function f (R147). -/
theorem readReg_vfweight (s : State) {f : Nat} (hf : f < 64) :
    s.readReg 0 (0x00301000 + 8 * f) = BitVec.ofNat 64 (s.func f).weight := by
  have hpool : ¬(0x00300000 ≤ 0x00301000 + 8 * f ∧ 0x00301000 + 8 * f < 0x00300080) := by omega
  have hblock : 0x00301000 ≤ 0x00301000 + 8 * f ∧ 0x00301000 + 8 * f < 0x00301200 := by omega
  have hindex : (0x00301000 + 8 * f) / 8 % 64 = f := by omega
  rw [readReg_readPf s (by omega) (by omega)]
  simp only [State.readPf, hpool, hblock, hindex, and_self, if_true, if_false]

/-- LFE_FSHARE of die d (R148). -/
theorem readReg_fshare (s : State) {d : Nat} (hd : d ≤ 1) :
    s.readReg 0 (0x00302000 + 8 * d) = BitVec.ofNat 64 (if d = 0 then s.lfe.share0 else s.lfe.share1) := by
  rw [readReg_readPf s (by omega) (by omega)]
  obtain rfl | rfl : d = 0 ∨ d = 1 := by omega
  · simp [State.readPf]
  · simp [State.readPf]

/-- MS_SWAPCFG of site n (R188). -/
theorem readReg_swapcfg (s : State) {n : Nat} (hn : n < 8) : s.readReg 0 (0x00400008 + 64 * n) =
    BitVec.ofNat 64 ((s.site n).enable.toNat * 2 ^ 16 + (s.site n).thresh * 2 ^ 8 + (s.site n).decay) := by
  have hpool : ¬(0x00300000 ≤ 0x00400008 + 64 * n ∧ 0x00400008 + 64 * n < 0x00300080) := by omega
  have hweight : ¬(0x00301000 ≤ 0x00400008 + 64 * n ∧ 0x00400008 + 64 * n < 0x00301200) := by omega
  have hshare0 : 0x00400008 + 64 * n ≠ 0x00302000 := by omega
  have hshare1 : 0x00400008 + 64 * n ≠ 0x00302008 := by omega
  have hblock : 0x00400000 ≤ 0x00400008 + 64 * n ∧ 0x00400008 + 64 * n < 0x00400200 := by omega
  have hindex : (0x00400008 + 64 * n) / 64 % 8 = n := by omega
  have hoff : (0x00400008 + 64 * n) % 64 = 8 := by omega
  rw [readReg_readPf s (by omega) (by omega)]
  simp only [State.readPf, hpool, hweight, hshare0, hshare1, hblock, hindex, hoff, and_self, if_true, if_false,
    Nat.succ_ne_zero]

/-- CD_STRIPCFG of die d (R274). -/
theorem readReg_stripcfg (s : State) {d : Nat} (hd : d ≤ 1) : s.readReg 0 (0x00500000 + 8 * d) =
    BitVec.ofNat 64 (if d = 0 then s.hif.strip0.toNat * 2 ^ 16 + s.hif.ilog0 else s.hif.strip1.toNat * 2 ^ 16 + s.hif.ilog1) := by
  rw [readReg_readPf s (by omega) (by omega)]
  obtain rfl | rfl : d = 0 ∨ d = 1 := by omega
  · simp [State.readPf]
  · simp [State.readPf]

/-- CE_PFCFG of engine n of the package (R310). -/
theorem readReg_pfcfg (s : State) {n : Nat} (hn : n < 32) :
    s.readReg 0 (0x00600000 + 8 * n) = BitVec.ofNat 64 (get 128 s.ce.budget n) := by
  have hblock : 0x00600000 ≤ 0x00600000 + 8 * n ∧ 0x00600000 + 8 * n < 0x00600100 := by omega
  have hindex : (0x00600000 + 8 * n) / 8 % 32 = n := by omega
  rw [readReg_readPf s (by omega) (by omega)]
  unfold State.readPf
  iterate 8 rw [if_neg (by omega)]
  rw [if_pos hblock, hindex]

/-- HIF_BAROCTL (R379). -/
theorem readReg_baro (s : State) : s.readReg 0 0x00780000 =
    BitVec.ofNat 64 (s.hif.baro.total.toNat * 2 ^ 32 + s.hif.baro.frozen.toNat * 2 ^ 31 + s.hif.baro.head) := by
  rw [readReg_readPf s (by omega) (by omega)]
  simp [State.readPf]

/-! ### The tables at reset -/

theorem reset_sem (f n : Nat) : State.reset.sem f n = 0 := rfl
theorem reset_queue (q : Nat) : State.reset.queue q = Queue.empty := rfl
theorem reset_func (f : Nat) : State.reset.func f = Func.empty := rfl
theorem reset_budget (n : Nat) : get 128 State.reset.ce.budget n = 128 := rfl

/-- LFE_QCFG of a queue at reset: disabled, and both rings of 2^4 slots (R109). -/
theorem queueEmpty_qcfg : Queue.empty.reg 0 = 4 * 2 ^ 20 + 4 * 2 ^ 15 := rfl

theorem reset_pool (d : Nat) : State.reset.pool d = Pool.empty := by
  unfold State.pool
  split <;> rfl

theorem reset_share (d : Nat) : (if d = 0 then State.reset.lfe.share0 else State.reset.lfe.share1) = 2 := by
  split <;> rfl

theorem reset_strip (d : Nat) : (if d = 0 then State.reset.hif.strip0.toNat * 2 ^ 16 + State.reset.hif.ilog0
    else State.reset.hif.strip1.toNat * 2 ^ 16 + State.reset.hif.ilog1) = 2 ^ 16 + 12 := by
  split <;> rfl

/-- Sites 0 to 3 are die 0's and 4 to 7 die 1's (R17): each site holds its own reset record. -/
theorem reset_site {i : Nat} (hi : i < 8) : State.reset.site i = Site.reset i := by
  interval_cases i <;> rfl

end Sys2Proof.Machine

namespace Sys2Proof.Claims
open Sys2Proof Sys2Proof.Machine

/-- Settles O60: each register is read through its place in the register map, and its table holds its reset record there. -/
theorem resetValues : Obligations.ResetValues := by
  refine ⟨reset_sem, fun i hi => ?sites, fun q hq => ?queues, fun d hd => ⟨?pool, ?share, ?strip⟩, fun f hf => ?weights,
    fun n hn => ?swap, fun n hn => ?prefetch, ?health, ?baro⟩
  case sites => rw [reset_site (by omega)]; exact ⟨rfl, rfl, rfl⟩
  case queues => exact (readReg_queue _ (r := 0) hq (by decide)).trans (by rw [reset_queue, queueEmpty_qcfg])
  case pool => rw [readReg_cpcfg _ hd, reset_pool]; rfl
  case share => rw [readReg_fshare _ hd, reset_share]; rfl
  case strip => rw [readReg_stripcfg _ hd, reset_strip]
  case weights => rw [readReg_vfweight _ hf, reset_func]; rfl
  case swap => rw [readReg_swapcfg _ hn, reset_site hn]; simp [Site.reset]
  case prefetch => rw [readReg_pfcfg _ hn, reset_budget]; rfl
  case health => rw [readReg_health]; rfl
  case baro => rw [readReg_baro]; rfl

end Sys2Proof.Claims
end

section
/-! SUPPORT. The encoder against the decoder: what each format's encoding holds, field by field (R26, R28 to R32, R37), and that a unit
built from a well-formed instruction decodes to it (O56). -/

namespace Sys2Proof

/-! ### Fields -/

/-- A field whose bits are those of v is v. -/
theorem fld_eq {n w lo : Nat} (v : BitVec n) (h : w / 2 ^ lo % 2 ^ n = v.toNat) : fld n w lo = v :=
  BitVec.eq_of_toNat_eq (by simpa [fld] using h)

/-- Reserved bits that are zero are no bar. -/
theorem mustZero_of_eq {n : Nat} {k : Dec} (h : n = 0) : mustZero n k = k := if_pos h

theorem checked_of_wf {i : Instr} (h : i.wf = true) : checked i = .ok i := if_pos h

/-! ### Prefix words (R37 to R44) -/

theorem encPfx_selector (p : Pfx) : encPfx p % 4 = 2 := by
  cases p <;> simp only [encPfx] <;> omega

/-- The kind of a prefix stands in bits 5 to 2 of its word. -/
theorem encPfx_kind (p : Pfx) : bits (encPfx p) 5 2 = p.kind := by
  cases p <;> simp only [encPfx, bits, Pfx.kind] <;> omega

theorem decPfx_encPfx {p : Pfx} (h : p.wf = true) : decPfx (encPfx p) = .ok p := by
  have hk := encPfx_kind p
  cases p with
  | pxm nan sat rnd =>
    have hn : fld 2 (encPfx (.pxm nan sat rnd)) 11 = nan := fld_eq _ (by simp only [encPfx]; omega)
    have hs : fld 2 (encPfx (.pxm nan sat rnd)) 9 = sat := fld_eq _ (by simp only [encPfx]; omega)
    have hr : fld 3 (encPfx (.pxm nan sat rnd)) 6 = rnd := fld_eq _ (by simp only [encPfx]; omega)
    have htop : encPfx (.pxm nan sat rnd) / 2 ^ 13 = 0 := by simp only [encPfx]; omega
    simp only [decPfx, hk, Pfx.kind, hn, hs, hr, htop, h, BEq.rfl, Bool.and_self, if_true]
  | pxc unit n src =>
    have hu : fld 1 (encPfx (.pxc unit n src)) 21 = unit := fld_eq _ (by simp only [encPfx]; omega)
    have hn : fld 14 (encPfx (.pxc unit n src)) 7 = n := fld_eq _ (by simp only [encPfx]; omega)
    have hs : fld 1 (encPfx (.pxc unit n src)) 6 = src := fld_eq _ (by simp only [encPfx]; omega)
    have htop : encPfx (.pxc unit n src) / 2 ^ 22 = 0 := by simp only [encPfx]; omega
    simp only [decPfx, hk, Pfx.kind, hu, hn, hs, htop, h, BEq.rfl, Bool.and_self, if_true]
  | pxp => rfl
  | pxr first cnt =>
    have hf : fld 6 (encPfx (.pxr first cnt)) 6 = first := fld_eq _ (by simp only [encPfx]; omega)
    have hc : fld 5 (encPfx (.pxr first cnt)) 12 = cnt := fld_eq _ (by simp only [encPfx]; omega)
    have htop : encPfx (.pxr first cnt) / 2 ^ 17 = 0 := by simp only [encPfx]; omega
    simp only [decPfx, hk, Pfx.kind, hf, hc, htop, h, BEq.rfl, Bool.and_self, if_true]
  | pxo c =>
    have hc : fld 4 (encPfx (.pxo c)) 6 = c := fld_eq _ (by simp only [encPfx]; omega)
    have htop : encPfx (.pxo c) / 2 ^ 10 = 0 := by simp only [encPfx]; omega
    simp only [decPfx, hk, Pfx.kind, hc, htop, h, BEq.rfl, Bool.and_self, if_true]
  | pxs mode =>
    have hm : fld 2 (encPfx (.pxs mode)) 6 = mode := fld_eq _ (by simp only [encPfx]; omega)
    have htop : encPfx (.pxs mode) / 2 ^ 8 = 0 := by simp only [encPfx]; omega
    simp only [decPfx, hk, Pfx.kind, hm, htop, h, BEq.rfl, Bool.and_self, if_true]

/-- A prefix of a kind that the major accepts is kept by the binding rule. -/
theorem bindable_eq {M : Nat} {p : Option Pfx} (h : pfxIn (kindsOf M) p = true) : bindable M p = p := by
  cases p with
  | none => rfl
  | some q =>
    have hk : (kindsOf M).contains q.kind = true := (Bool.and_eq_true_iff.mp h).2
    simp only [bindable, Option.filter, hk, if_true]

/-! ### Units -/

/-- A unit of one word. -/
theorem decodeWords_one {i : Instr} {w : Nat} (hsel : w % 4 = 0) (hd : dec32 w = .ok i) :
    decodeWords (one w) = .ok i (4 * (one w).length) := by
  simp [decodeWords, one, decodeUnit, decOne, hsel, hd]

/-- A 64-bit instruction with its prefix, where its major accepts one. -/
theorem decodeWords_two {i : Instr} {M w : Nat} {p : Option Pfx} (hsel : w % 4 = 1) (hM : bits w 7 2 = M)
    (hp : pfxIn (kindsOf M) p = true) (hd : dec64 p w = .ok i) :
    decodeWords (two p w) = .ok i (4 * (two p w).length) := by
  have hlow : w % 2 ^ 32 % 4 = 1 := by omega
  have hword : w % 2 ^ 32 + 2 ^ 32 * (w / 2 ^ 32) = w := Nat.mod_add_div w (2 ^ 32)
  cases p with
  | none => simp only [decodeWords, two, oddOf, decodeUnit, decOne, hlow, hword, hd, binds, List.getElem?_cons_zero]; rfl
  | some q =>
    obtain ⟨hq, hk⟩ := Bool.and_eq_true_iff.mp hp
    have hbinds : binds (some q) (w % 2 ^ 32) = true := by
      have hmajor : bits (w % 2 ^ 32) 7 2 = M := by rw [← hM]; simp only [bits]; omega
      simpa only [binds, hmajor, Option.all_some] using hk
    simp only [decodeWords, two, oddOf, decodeUnit, decOne, encPfx_selector, decPfx_encPfx hq, hlow, hword, hd, hbinds,
      List.getElem?_cons_zero, List.getElem?_cons_succ]
    rfl

/-! ### The 32-bit formats (R26) -/

section S3
variable {major minor xd xa xb : Nat}

theorem encS3_selector : encS3 major minor xd xa xb % 4 = 0 := by unfold encS3; omega

theorem encS3_major (h : major < 64) : bits (encS3 major minor xd xa xb) 7 2 = major := by
  simp only [encS3, bits]; omega

theorem encS3_minor (h : major < 64) (hd : xd < 64) (ha : xa < 64) (hb : xb < 64) (hm : minor < 64) :
    bits (encS3 major minor xd xa xb) 31 26 = minor := by
  simp only [encS3, bits]; omega

theorem encS3_second (h : major < 64) (hd : xd < 64) (ha : xa < 64) (hb : xb < 64) :
    bits (encS3 major minor xd xa xb) 25 20 = xb := by
  simp only [encS3, bits]; omega

theorem encS3_xd {v : Reg} (h : major < 64) : fld 6 (encS3 major minor v.toNat xa xb) 8 = v :=
  fld_eq v (by simp only [encS3]; omega)

theorem encS3_hd {v : BitVec 5} (h : major < 64) : fld 5 (encS3 major minor v.toNat xa xb) 8 = v :=
  fld_eq v (by simp only [encS3]; omega)

theorem encS3_xa {v : Reg} (h : major < 64) (hd : xd < 64) : fld 6 (encS3 major minor xd v.toNat xb) 14 = v :=
  fld_eq v (by simp only [encS3]; omega)

theorem encS3_ha {v : BitVec 5} (h : major < 64) (hd : xd < 64) : fld 5 (encS3 major minor xd v.toNat xb) 14 = v :=
  fld_eq v (by simp only [encS3]; omega)

theorem encS3_xb {v : Reg} (h : major < 64) (hd : xd < 64) (ha : xa < 64) : fld 6 (encS3 major minor xd xa v.toNat) 20 = v :=
  fld_eq v (by simp only [encS3]; omega)

end S3

section SI
variable {major xd xa imm : Nat}

theorem encSI_selector : encSI major xd xa imm % 4 = 0 := by unfold encSI; omega

theorem encSI_major (h : major < 64) : bits (encSI major xd xa imm) 7 2 = major := by
  simp only [encSI, bits]; omega

theorem encSI_xd {v : Reg} (h : major < 64) : fld 6 (encSI major v.toNat xa imm) 8 = v :=
  fld_eq v (by simp only [encSI]; omega)

theorem encSI_xa {v : Reg} (h : major < 64) (hd : xd < 64) : fld 6 (encSI major xd v.toNat imm) 14 = v :=
  fld_eq v (by simp only [encSI]; omega)

theorem encSI_imm {v : BitVec 12} (h : major < 64) (hd : xd < 64) (ha : xa < 64) : fld 12 (encSI major xd xa v.toNat) 20 = v :=
  fld_eq v (by simp only [encSI]; omega)

theorem encSI_counter {v : BitVec 8} (h : major < 64) (hd : xd < 64) (ha : xa < 64) : fld 8 (encSI major xd xa v.toNat) 20 = v :=
  fld_eq v (by simp only [encSI]; omega)

theorem encSI_engine {v : BitVec 4} (h : major < 64) (hd : xd < 64) (ha : xa < 64) : fld 4 (encSI major xd xa v.toNat) 20 = v :=
  fld_eq v (by simp only [encSI]; omega)

/-- Bit 24 of CEGO tells its template form, which holds the engine below it (R324). -/
theorem encSI_template {v : BitVec 4} (h : major < 64) (hd : xd < 64) (ha : xa < 64) :
    bits (encSI major xd xa (16 + v.toNat)) 24 24 = 1 ∧ fld 4 (encSI major xd xa (16 + v.toNat)) 20 = v :=
  ⟨by simp only [encSI, bits]; omega, fld_eq v (by simp only [encSI]; omega)⟩

theorem encSI_noTemplate {v : BitVec 4} (h : major < 64) (hd : xd < 64) (ha : xa < 64) :
    bits (encSI major xd xa v.toNat) 24 24 = 0 := by
  simp only [encSI, bits]; omega

end SI

theorem encSJ_selector {major disp : Nat} : encSJ major disp % 4 = 0 := by unfold encSJ; omega

theorem encSJ_major {major disp : Nat} (h : major < 64) : bits (encSJ major disp) 7 2 = major := by
  simp only [encSJ, bits]; omega

theorem encSJ_disp {major : Nat} {v : BitVec 24} (h : major < 64) : fld 24 (encSJ major v.toNat) 8 = v :=
  fld_eq v (by simp only [encSJ]; omega)

/-! ### The 64-bit formats (R28 to R32) -/

section SL
variable {major minor xd xa xb imm : Nat}

theorem encSL_selector : encSL major minor xd xa xb imm % 4 = 1 := by unfold encSL; omega

theorem encSL_major (h : major < 64) : bits (encSL major minor xd xa xb imm) 7 2 = major := by
  simp only [encSL, bits]; omega

theorem encSL_minor (h : major < 64) (hd : xd < 64) (ha : xa < 64) (hb : xb < 64) (hm : minor < 64) :
    bits (encSL major minor xd xa xb imm) 31 26 = minor := by
  simp only [encSL, bits]; omega

theorem encSL_xd {v : Reg} (h : major < 64) : fld 6 (encSL major minor v.toNat xa xb imm) 8 = v :=
  fld_eq v (by simp only [encSL]; omega)

theorem encSL_xa {v : Reg} (h : major < 64) (hd : xd < 64) : fld 6 (encSL major minor xd v.toNat xb imm) 14 = v :=
  fld_eq v (by simp only [encSL]; omega)

theorem encSL_xb {v : Reg} (h : major < 64) (hd : xd < 64) (ha : xa < 64) : fld 6 (encSL major minor xd xa v.toNat imm) 20 = v :=
  fld_eq v (by simp only [encSL]; omega)

theorem encSL_imm {v : W32} (h : major < 64) (hd : xd < 64) (ha : xa < 64) (hb : xb < 64) (hm : minor < 64) :
    fld 32 (encSL major minor xd xa xb v.toNat) 32 = v :=
  fld_eq v (by simp only [encSL]; omega)

end SL

section SM
variable {major minor : Nat} {f : SM}

theorem encSM_selector : encSM major minor f % 4 = 1 := by unfold encSM; omega

theorem encSM_major (h : major < 64) : bits (encSM major minor f) 7 2 = major := by
  simp only [encSM, bits]; omega

theorem encSM_minor (h : major < 64) (hm : minor < 8) : bits (encSM major minor f) 31 29 = minor := by
  simp only [encSM, bits]; omega

theorem pxoOf_map (c : Option (BitVec 4)) : pxoOf (c.map .pxo) = c := by cases c <;> rfl

theorem decSM_encSM (h : major < 64) (hm : minor < 8) : decSM (f.pfx.map .pxo) (encSM major minor f) = f := by
  obtain ⟨pfx, cls, hn, xo, x, imm⟩ := f
  simp only [decSM, pxoOf_map, encSM, SM.mk.injEq, true_and]
  refine ⟨fld_eq _ ?_, fld_eq _ ?_, fld_eq _ ?_, fld_eq _ ?_, fld_eq _ ?_⟩ <;> omega

end SM

section V4
variable {major minor : Nat} {f : V4}

theorem encV4_selector : encV4 major minor f % 4 = 1 := by unfold encV4; omega

theorem encV4_major (h : major < 64) : bits (encV4 major minor f) 7 2 = major := by
  simp only [encV4, bits]; omega

theorem encV4_minor (h : major < 64) (hm : minor < 16) : bits (encV4 major minor f) 15 12 = minor := by
  simp only [encV4, bits]; omega

theorem decV4_encV4 (h : major < 64) (hm : minor < 16) : decV4 f.pfx (encV4 major minor f) = f := by
  obtain ⟨pfx, tok, mask, ty, vd, va, vb, vc⟩ := f
  simp only [decV4, encV4, V4.mk.injEq, true_and]
  refine ⟨fld_eq _ ?_, fld_eq _ ?_, fld_eq _ ?_, fld_eq _ ?_, fld_eq _ ?_, fld_eq _ ?_, fld_eq _ ?_⟩ <;> omega

/-- The minor of VCMP is its condition, below 8 (R254). -/
theorem encV4_cond {c : BitVec 3} (h : major < 64) :
    bits (encV4 major c.toNat f) 15 15 = 0 ∧ fld 3 (encV4 major c.toNat f) 12 = c :=
  ⟨by simp only [encV4, bits]; omega, fld_eq c (by simp only [encV4]; omega)⟩

end V4

section VM
variable {major minor : Nat} {f : VM}

theorem encVM_selector : encVM major minor f % 4 = 1 := by unfold encVM; omega

theorem encVM_major (h : major < 64) : bits (encVM major minor f) 7 2 = major := by
  simp only [encVM, bits]; omega

theorem encVM_minor (h : major < 64) (hm : minor < 16) : bits (encVM major minor f) 15 12 = minor := by
  simp only [encVM, bits]; omega

theorem decVM_encVM (h : major < 64) (hm : minor < 16) : decVM f.pfx (encVM major minor f) = f := by
  obtain ⟨pfx, tok, mask, ty, cls, hn, xo, v, tail⟩ := f
  simp only [decVM, encVM, VM.mk.injEq, true_and]
  refine ⟨fld_eq _ ?_, fld_eq _ ?_, fld_eq _ ?_, fld_eq _ ?_, fld_eq _ ?_, fld_eq _ ?_, fld_eq _ ?_, fld_eq _ ?_⟩ <;> omega

end VM

section TL
variable {major minor : Nat} {f : TL}

theorem encTL_selector : encTL major minor f % 4 = 1 := by unfold encTL; omega

theorem encTL_major (h : major < 64) : bits (encTL major minor f) 7 2 = major := by
  simp only [encTL, bits]; omega

theorem encTL_minor (h : major < 64) (hm : minor < 16) : bits (encTL major minor f) 15 12 = minor := by
  simp only [encTL, bits]; omega

/-- No field of the format lies above bit 58. -/
theorem encTL_top (h : major < 64) (hm : minor < 16) : bits (encTL major minor f) 63 59 = 0 := by
  simp only [encTL, bits]; omega

theorem decTL_encTL (h : major < 64) (hm : minor < 16) : decTL f.pfx (encTL major minor f) = f := by
  obtain ⟨pfx, tok, ta, c, hint, cls, hn, xa, xb, n12, tr⟩ := f
  simp only [decTL, encTL, TL.mk.injEq, true_and]
  refine ⟨fld_eq _ ?_, fld_eq _ ?_, fld_eq _ ?_, fld_eq _ ?_, fld_eq _ ?_, fld_eq _ ?_, fld_eq _ ?_, fld_eq _ ?_, fld_eq _ ?_,
    fld_eq _ ?_⟩ <;> omega

end TL

section MX
variable {major minor : Nat} {f : MX}

theorem encMX_selector : encMX major minor f % 4 = 1 := by unfold encMX; omega

theorem encMX_major (h : major < 64) : bits (encMX major minor f) 7 2 = major := by
  simp only [encMX, bits]; omega

theorem encMX_minor (h : major < 64) (hm : minor < 16) : bits (encMX major minor f) 15 12 = minor := by
  simp only [encMX, bits]; omega

/-- No field of the format lies above bit 61. -/
theorem encMX_top (h : major < 64) (hm : minor < 16) : bits (encMX major minor f) 63 62 = 0 := by
  simp only [encMX, bits]; omega

theorem decMX_encMX (h : major < 64) (hm : minor < 16) : decMX f.pfx (encMX major minor f) = f := by
  obtain ⟨pfx, tok, acc, hint, ta, ac, tb, bc, va, vb, mask, ty⟩ := f
  simp only [decMX, encMX, MX.mk.injEq, true_and]
  refine ⟨fld_eq _ ?_, fld_eq _ ?_, fld_eq _ ?_, fld_eq _ ?_, fld_eq _ ?_, fld_eq _ ?_, fld_eq _ ?_, fld_eq _ ?_, fld_eq _ ?_,
    fld_eq _ ?_, fld_eq _ ?_⟩ <;> omega

end MX

/-! ### Units of the prefixed formats -/

section Forms
variable {i : Instr} {M m : Nat}

/-- A vector instruction, where the decoder's maps lead from its major and minor to it. -/
theorem roundTrip_V4 {f : V4} (h : M < 64) (hm : m < 16) (hp : pfxIn (kindsOf M) f.pfx = true) (hwf : i.wf = true)
    (hd : ∀ w, bits w 7 2 = M → bits w 15 12 = m → bindable M f.pfx = f.pfx → decV4 f.pfx w = f → dec64 f.pfx w = checked i) :
    decodeWords (two f.pfx (encV4 M m f)) = .ok i (4 * (two f.pfx (encV4 M m f)).length) :=
  decodeWords_two encV4_selector (encV4_major h) hp
    ((hd _ (encV4_major h) (encV4_minor h hm) (bindable_eq hp) (decV4_encV4 h hm)).trans (checked_of_wf hwf))

/-- A vector-memory instruction, likewise. -/
theorem roundTrip_VM {f : VM} (h : M < 64) (hm : m < 16) (hp : pfxIn (kindsOf M) f.pfx = true) (hwf : i.wf = true)
    (hd : ∀ w, bits w 7 2 = M → bits w 15 12 = m → bindable M f.pfx = f.pfx → decVM f.pfx w = f → dec64 f.pfx w = checked i) :
    decodeWords (two f.pfx (encVM M m f)) = .ok i (4 * (two f.pfx (encVM M m f)).length) :=
  decodeWords_two encVM_selector (encVM_major h) hp
    ((hd _ (encVM_major h) (encVM_minor h hm) (bindable_eq hp) (decVM_encVM h hm)).trans (checked_of_wf hwf))

/-- A tile instruction, likewise. -/
theorem roundTrip_TL {f : TL} (h : M < 64) (hm : m < 16) (hp : pfxIn (kindsOf M) f.pfx = true) (hwf : i.wf = true)
    (hd : ∀ w, bits w 7 2 = M → bits w 15 12 = m → bindable M f.pfx = f.pfx → decTL f.pfx w = f →
      dec64 f.pfx w = mustZero (bits w 63 59) (checked i)) :
    decodeWords (two f.pfx (encTL M m f)) = .ok i (4 * (two f.pfx (encTL M m f)).length) :=
  decodeWords_two encTL_selector (encTL_major h) hp
    ((hd _ (encTL_major h) (encTL_minor h hm) (bindable_eq hp) (decTL_encTL h hm)).trans
      ((mustZero_of_eq (encTL_top h hm)).trans (checked_of_wf hwf)))

/-- A matrix instruction, likewise. -/
theorem roundTrip_MX {f : MX} (h : M < 64) (hm : m < 16) (hp : pfxIn (kindsOf M) f.pfx = true) (hwf : i.wf = true)
    (hd : ∀ w, bits w 7 2 = M → bits w 15 12 = m → bindable M f.pfx = f.pfx → decMX f.pfx w = f →
      dec64 f.pfx w = mustZero (bits w 63 62) (checked i)) :
    decodeWords (two f.pfx (encMX M m f)) = .ok i (4 * (two f.pfx (encMX M m f)).length) :=
  decodeWords_two encMX_selector (encMX_major h) hp
    ((hd _ (encMX_major h) (encMX_minor h hm) (bindable_eq hp) (decMX_encMX h hm)).trans
      ((mustZero_of_eq (encMX_top h hm)).trans (checked_of_wf hwf)))

/-- A scalar access: only PXO binds to it, and any class is well formed. -/
theorem roundTrip_SM {f : SM} (h : M < 64) (hm : m < 8) (hk : kindsOf M = [4])
    (hd : ∀ w, bits w 7 2 = M → bits w 31 29 = m → bindable M (f.pfx.map .pxo) = f.pfx.map .pxo →
      decSM (f.pfx.map .pxo) w = f → dec64 (f.pfx.map .pxo) w = .ok i) :
    decodeWords (two (f.pfx.map .pxo) (encSM M m f)) = .ok i (4 * (two (f.pfx.map .pxo) (encSM M m f)).length) := by
  have hp : pfxIn (kindsOf M) (f.pfx.map .pxo) = true := by
    rw [hk]; cases f.pfx <;> rfl
  exact decodeWords_two encSM_selector (encSM_major h) hp
    (hd _ (encSM_major h) (encSM_minor h hm) (bindable_eq hp) (decSM_encSM h hm))

/-- A long scalar instruction, to which no prefix binds. -/
theorem roundTrip_SL {d a b n : Nat} (h : M < 64) (hd : dec64 none (encSL M m d a b n) = .ok i) :
    decodeWords (two none (encSL M m d a b n)) = .ok i (4 * (two none (encSL M m d a b n)).length) :=
  decodeWords_two encSL_selector (encSL_major h) rfl hd

end Forms

/-! ### Every instruction, by its home -/

/-- The first part of the well-formedness of a V4, a tile or a vector-memory form is the check of its prefix. -/
theorem V4.pfxIn_of_wf {ks : List Nat} {a b c : Bool} {f : V4} (h : f.wf ks a b c = true) : pfxIn ks f.pfx = true := by
  simp only [V4.wf, Bool.and_eq_true] at h
  obtain ⟨⟨⟨hp, -⟩, -⟩, -⟩ := h
  exact hp

theorem VM.pfxIn_of_wf {f : VM} (h : f.wf = true) : pfxIn [1, 2, 3, 4] f.pfx = true := by
  simp only [VM.wf, Bool.and_eq_true] at h
  obtain ⟨⟨hp, -⟩, -⟩ := h
  exact hp

theorem TL.pfxIn_of_wf {c n tr hn cls xa xb : Bool} {f : TL} (h : f.wf c n tr hn cls xa xb = true) :
    pfxIn [2, 4] f.pfx = true := by
  simp only [TL.wf, Bool.and_eq_true] at h
  obtain ⟨⟨⟨⟨⟨⟨⟨hp, -⟩, -⟩, -⟩, -⟩, -⟩, -⟩, -⟩ := h
  exact hp

theorem MX.pfxIn_of_wf {f : MX} (h : f.wf = true) : pfxIn [0, 2, 3] f.pfx = true := by
  simp only [MX.wf, Bool.and_eq_true] at h
  obtain ⟨⟨⟨hp, -⟩, -⟩, -⟩ := h
  exact hp

/-- The instructions of the slice: those of one word, and the long scalar ones. -/
theorem decodeWords_encode_slice (i : Instr) (hwf : i.wf = true) (hw : i.hasWords = true) (hh : i.home = none) :
    decodeWords (encode i) = .ok i (4 * (encode i).length) := by
  cases i with
  | add | sub | mul | mulh | mulhu | div | divu | rem | remu | and | or | xor | shl | shr | sar | min | max | minu | maxu | slt
  | sltu | seq | sel | idx2 | idx3 | bclamp | alignup | tsettle =>
    exact decodeWords_one encS3_selector
      (by simp (disch := omega) only [dec32, encS3_major, encS3_minor, encS3_xd, encS3_xa, encS3_xb])
  | addi | andi | ori | xori | shli | shri | sari | beq | bne | blt | bge | bltu | bgeu | loop =>
    exact decodeWords_one encSI_selector (by simp (disch := omega) only [dec32, encSI_major, encSI_xd, encSI_xa, encSI_imm])
  | br | call => exact decodeWords_one encSJ_selector (by simp (disch := omega) only [dec32, encSJ_major, encSJ_disp])
  | clz | ctz | popc | brtNz | brtZ | brt | cqp | cqpb | rqpop | npop | qdepth | cbw | xlt | xltn | hrel | hchk | nrel | shand
  | cbclr =>
    refine decodeWords_one encS3_selector ?_
    simp (disch := omega) only [dec32, encS3_major, encS3_minor, encS3_xd, encS3_xa, encS3_xb, encS3_hd, encS3_ha]
    exact mustZero_of_eq (by simp only [encS3, bits]; omega)
  | ret | tend | join | launch | eret | yield =>
    refine decodeWords_one encS3_selector ?_
    simp (disch := omega) only [dec32, encS3_major]
    exact mustZero_of_eq (by simp only [encS3, bits]; omega)
  | tstat =>
    exact decodeWords_one encS3_selector
      (by simp (disch := omega) only [dec32, encS3_major, encS3_minor, encS3_second, encS3_xd, encS3_xa])
  | tstatP =>
    refine decodeWords_one encS3_selector ?_
    simp (disch := omega) only [dec32, encS3_major, encS3_minor, encS3_second, encS3_xd]
    exact mustZero_of_eq (by simp only [encS3, bits]; omega)
  | liShort | endl | trap | srd | swr | baro | semw | sems | semrd | cepop =>
    refine decodeWords_one encSI_selector ?_
    simp (disch := omega) only [dec32, encSI_major, encSI_xd, encSI_xa, encSI_imm, encSI_counter, encSI_engine]
    exact mustZero_of_eq (by simp only [encSI, bits]; omega)
  | cego =>
    refine decodeWords_one encSI_selector ?_
    simp (disch := omega) only [dec32, encSI_major, encSI_noTemplate, encSI_xd, encSI_engine]
    exact mustZero_of_eq (by simp only [encSI, bits]; omega)
  | cegoT =>
    refine decodeWords_one encSI_selector ?_
    simp (disch := omega) only [dec32, encSI_major, encSI_template, encSI_xd, encSI_xa]
    exact mustZero_of_eq (by simp only [encSI, bits]; omega)
  | nop => rfl
  | li | lih | pbr | bnd =>
    refine roundTrip_SL (by omega) ?_
    simp (disch := omega) only [dec64, encSL_major, encSL_minor, encSL_xd, encSL_imm]
    exact mustZero_of_eq (by simp only [encSL, bits]; omega)
  | cqpm sel a b kind r0 c0 =>
    refine roundTrip_SL (by omega) ?_
    simp (disch := omega) only [dec64, encSL_major, encSL_minor, encSL_xd, encSL_xa, encSL_xb]
    rw [mustZero_of_eq (by simp only [encSL, bits]; omega), fld_eq kind (by simp only [encSL]; omega),
      fld_eq r0 (by simp only [encSL]; omega), fld_eq c0 (by simp only [encSL]; omega)]
    exact checked_of_wf hwf
  | fmtp a desc =>
    refine roundTrip_SL (by omega) ?_
    simp (disch := omega) only [dec64, encSL_major, encSL_xa]
    rw [mustZero_of_eq (by simp only [encSL, bits]; omega), fld_eq desc (by simp only [encSL]; omega)]
  | fenceC scope mask =>
    refine roundTrip_SL (by omega) ?_
    simp (disch := omega) only [dec64, encSL_major]
    rw [mustZero_of_eq (by simp only [encSL, bits]; omega), fld_eq scope (by simp only [encSL]; omega),
      fld_eq mask (by simp only [encSL]; omega)]
  | fenceM queues engines =>
    refine roundTrip_SL (by omega) ?_
    simp (disch := omega) only [dec64, encSL_major]
    rw [mustZero_of_eq (by simp only [encSL, bits]; omega), fld_eq queues (by simp only [encSL]; omega),
      fld_eq engines (by simp only [encSL]; omega)]
  | ldb | ldbs | ldh | ldhs | ldw | ldws | ldd | stb | sth | stw | std =>
    exact roundTrip_SM (by omega) (by omega) rfl fun w hM hm hb hf => by simp only [dec64, hM, hm, hb, hf]
  | vadd | vsub | vmul | vfma | vfnma | vmin | vmax | vabs | vneg | vclamp | vmov | vsel | vexp2 | vlog2 | vrcp | vrsq | viadd
  | visub | vimul | vimad | vand | vor | vxor | vnot | vshl | vshr | vsar | vimin | vimax | vrmax | vrmin | vrsum | vcsum | vrscan
  | vshuf | vrot | vtrn | vmsk | vmaskq | vdefer | vdrain | vret | vcvt | vqnt | vcmp | vld | vlds | vgath | vst | vsts | vscat
  | nstv | tfetch | twin | tadv | tshare | tunpark | vldt | vldx | tpark | twr | twb | mma | accz | accld | accrd => cases hh
  | _ => cases hw

/-- The instructions of the lanes and of the array. -/
theorem decodeWords_encode_cmq (i : Instr) (hwf : i.wf = true) (hh : i.home = some 1) :
    decodeWords (encode i) = .ok i (4 * (encode i).length) := by
  cases i with
  | vadd | vsub | vmul | vfma | vfnma | vmin | vmax | vabs | vneg | vclamp | vmov | vsel | vexp2 | vlog2 | vrcp | vrsq | viadd
  | visub | vimul | vimad | vand | vor | vxor | vnot | vshl | vshr | vsar | vimin | vimax | vrmax | vrmin | vrsum | vcsum | vrscan
  | vshuf | vtrn | vdefer =>
    exact roundTrip_V4 (by omega) (by omega) (V4.pfxIn_of_wf hwf) hwf fun w hM hm hb hf => by simp only [dec64, hM, hm, hb, hf]
  | vrot | vmsk | vmaskq | vdrain | vret | vcvt | vqnt =>
    exact roundTrip_V4 (by omega) (by omega) (by simp_all [Instr.wf, kindsOf]) hwf
      fun w hM hm hb hf => by simp only [dec64, hM, hm, hb, hf]
  | vcmp cond f =>
    refine roundTrip_V4 (by omega) (by omega) (Bool.and_elim_left (Bool.and_elim_left hwf)) hwf fun w hM hm hb hf => ?_
    have htop : bits w 15 15 = 0 := by simp only [bits] at hm ⊢; omega
    have hcond : fld 3 w 12 = cond := fld_eq cond (by simp only [bits] at hm; omega)
    simp only [dec64, hM, htop, hcond, hb, hf, if_true]
  | mma =>
    exact roundTrip_MX (by omega) (by omega) (MX.pfxIn_of_wf hwf) hwf fun w hM hm hb hf => by simp only [dec64, hM, hm, hb, hf]
  | accz | accld | accrd =>
    exact roundTrip_MX (by omega) (by omega) (by simp_all [Instr.wf, MX.wf, kindsOf]) hwf
      fun w hM hm hb hf => by simp only [dec64, hM, hm, hb, hf]
  | _ => cases hh

/-- The instructions on memory and on the tile store. -/
theorem decodeWords_encode_memory (i : Instr) (q : Nat) (hwf : i.wf = true) (hh : i.home = some q) (hq : q ≠ 1) :
    decodeWords (encode i) = .ok i (4 * (encode i).length) := by
  cases i with
  | vld | vlds | vst | vsts =>
    exact roundTrip_VM (by omega) (by omega) (VM.pfxIn_of_wf hwf) hwf fun w hM hm hb hf => by simp only [dec64, hM, hm, hb, hf]
  | vgath | vscat | nstv =>
    exact roundTrip_VM (by omega) (by omega) (by simp_all [Instr.wf, VM.wf, VM.wfIndexed, VM.wfNameless, kindsOf]) hwf
      fun w hM hm hb hf => by simp only [dec64, hM, hm, hb, hf]
  | tfetch | twin | tadv | tshare | tunpark | tpark | twb =>
    exact roundTrip_TL (by omega) (by omega) (TL.pfxIn_of_wf hwf) hwf fun w hM hm hb hf => by simp only [dec64, hM, hm, hb, hf]
  | vldt | vldx =>
    exact roundTrip_TL (by omega) (by omega) (TL.pfxIn_of_wf (Bool.and_elim_left hwf)) hwf
      fun w hM hm hb hf => by simp only [dec64, hM, hm, hb, hf]
  | twr =>
    exact roundTrip_TL (by omega) (by omega) (TL.pfxIn_of_wf (Bool.and_elim_left (Bool.and_elim_left hwf))) hwf
      fun w hM hm hb hf => by simp only [dec64, hM, hm, hb, hf]
  | _ => cases hh <;> exact absurd rfl hq

/-- Every instruction with words decodes from them. -/
theorem decodeWords_encode (i : Instr) (hwf : i.wf = true) (hw : i.hasWords = true) :
    decodeWords (encode i) = .ok i (4 * (encode i).length) := by
  cases hh : i.home with
  | none => exact decodeWords_encode_slice i hwf hw hh
  | some q =>
    by_cases hq : q = 1
    · exact decodeWords_encode_cmq i hwf (hq ▸ hh)
    · exact decodeWords_encode_memory i q hwf hh hq

end Sys2Proof

namespace Sys2Proof.Claims
open Sys2Proof

/-- Settles O56: each format's fields read back from its word, and the maps of R55 and R56 lead from the word's major and minor to its
instruction. -/
theorem roundTrip : Obligations.RoundTrip := decodeWords_encode

end Sys2Proof.Claims
end

section
/-! SUPPORT. Routed instructions: what exec runs for one, what the slice routes, and what a skipped head leaves (O21, O23). -/

namespace Sys2Proof.Machine

/-- A routed instruction is run by `routed`, with a body of its own (R178, R240). -/
theorem exec_eq_routed {i : Instr} {q : Nat} (h : i.home = some q) : ∃ body, ∀ s, exec i s = routed i q body s := by
  cases i with
  | vadd | vsub | vmul | vfma | vfnma | vmin | vmax | vabs | vneg | vclamp | vmov | vsel | vexp2 | vlog2 | vrcp | vrsq | viadd
  | visub | vimul | vimad | vand | vor | vxor | vnot | vshl | vshr | vsar | vimin | vimax | vrmax | vrmin | vrsum | vcsum | vrscan
  | vshuf | vrot | vtrn | vmsk | vmaskq | vdefer | vdrain | vret | vcvt | vqnt | vcmp | vld | vlds | vgath | vst | vsts | vscat
  | nstv | tfetch | twin | tadv | tshare | tunpark | vldt | vldx | tpark | twr | twb | mma | accz | accld | accrd =>
    cases h
    exact ⟨_, fun _ => rfl⟩
  | _ => cases h

/-- The context k once the slice has routed entry e to queue q with a prefix or none: the seed of an rsr prefix is used up, and fetch goes on
(R34, R46, R66, R155). -/
def Task.routing (k : Task) (q : Nat) (p : Option Pfx) (e : Entry) : Task :=
  { (k.setQset (k.qset.setRq q { k.qset.rq q with entries := (k.qset.rq q).entries ++ [e] })) with
    pc := k.pc + unitLen p, routed := k.routed + 1, waitQ := none, rsrseed := k.rsrseed + if usesSeed p then 1 else 0 }

theorem routeTo_routes (s : State) (k : Task) (i : Instr) (q : Nat) (p : Option Pfx) (regs : List Reg) (h : BitVec 5) (xa xb : Reg)
    (check : Task → Option Bad) (hk : find s.tasks s.cur = some k) (hc : check k = none) (hz : k.hazard regs = false)
    (hroom : (k.qset.rq q).entries.length < (k.qset.rq q).depth) :
    routeTo s i q p regs h xa xb check = .next (s.now (k.routing q p
      { instr := i, pos := k.routed, pc := k.pc, h := k.rh h, xa := k.rx xa, xb := k.rx xb, seed := k.rsrseed, popped := none })) := by
  have hfull : ¬(k.qset.rq q).depth ≤ (k.qset.rq q).entries.length := by omega
  simp only [routeTo, hk, hc, hz, hfull, Bool.false_eq_true, if_false]
  cases hu : usesSeed p <;> simp [Task.routing, Task.adv, hu]

/-- Routing touches the queues, pc, the position, the seed and nothing else of the context. -/
theorem routing_frame (k : Task) (q : Nat) (p : Option Pfx) (e : Entry) :
    k.routing q p e = { k with pc := (k.routing q p e).pc, routed := (k.routing q p e).routed, ord := (k.routing q p e).ord,
                               hnd := (k.routing q p e).hnd, waitQ := none, rsrseed := (k.routing q p e).rsrseed } := by
  simp [Task.routing]

theorem routing_qset (k : Task) (q : Nat) (p : Option Pfx) (e : Entry) :
    (k.routing q p e).qset = k.qset.setRq q { k.qset.rq q with entries := (k.qset.rq q).entries ++ [e] } := by
  simp only [Task.routing, Task.qset, Task.setQset]
  split <;> rfl

end Sys2Proof.Machine

namespace Sys2Proof.Claims
open Sys2Proof Sys2Proof.Machine

/-- Settles O21: the slice runs a routed instruction by routing it, and the context after it is `Task.routing`. -/
theorem routing : Obligations.Routing := by
  intro i q s k hi ht hready hc hroom
  obtain ⟨hk, hz⟩ := hready
  obtain ⟨body, hbody⟩ := exec_eq_routed hi
  refine ⟨k.routing q i.pfx _, ?_, rfl, rfl, routing_qset .., routing_frame .., rfl⟩
  rw [hbody, routed_slice i q body s ht]
  exact routeTo_routes s k i q i.pfx _ _ _ _ _ hk hc hz hroom

/-- Settles O23: a skipped head issues with no effect of its own (R40, R245). -/
theorem predicateSkips : Obligations.PredicateSkips := by
  intro i q hs s k e r hi ht hk he hinstr hrun hopen hskip hmma
  obtain ⟨body, hbody⟩ := exec_eq_routed hi
  rw [hbody, routed_head i q q hs body s ht, headIssue_skips i body s q hs k e r hk he hinstr hrun hopen hskip hmma,
    issueHead_eq s s.cur hs q e 1 i.tok false _ k (task_of_find s s.cur k hk)]
  simp [he, upd, State.setTask]

end Sys2Proof.Claims
end

section
/-! SUPPORT. The register file (R48, O3), the words written out in the manual (O55), and NOP (R27, O54). -/

namespace Sys2Proof

/-! ### What the decoder never answers -/

theorem mustZero_eq_ok {n : Nat} {k : Dec} {i : Instr} : mustZero n k = .ok i ↔ n = 0 ∧ k = .ok i := by
  unfold mustZero
  split <;> simp [*]

theorem checked_eq_ok {i j : Instr} : checked i = .ok j ↔ i.wf = true ∧ i = j := by
  unfold checked
  split <;> simp [*]

/-- Only major 0x3F with nothing above it is NOP (R55). -/
theorem dec32_nop {w : Nat} (h : dec32 w = .ok .nop) : bits w 7 2 = 0x3F ∧ bits w 31 8 = 0 := by
  unfold dec32 at h
  (repeat' split at h) <;> simp_all [mustZero_eq_ok]

/-- The 64-bit map holds no NOP (R56). -/
theorem dec64_ne_nop (p : Option Pfx) (w : Nat) : dec64 p w ≠ .ok .nop := by
  intro h
  unfold dec64 at h
  (repeat' split at h) <;> simp [mustZero_eq_ok, checked_eq_ok] at h

/-- A unit of NOP is the word alone, with no prefix. -/
theorem decOne_nop {p : Option Pfx} {odd : Bool} {w n : Nat} {next : Option Nat} {delta : BitVec 4}
    (h : decOne p odd w next delta = .ok .nop n) : p = none ∧ w % 4 = 0 ∧ dec32 w = .ok .nop ∧ n = delta.toNat + 4 := by
  have h64 := dec64_ne_nop p
  unfold decOne at h
  (repeat' split at h) <;> simp_all [rejected]

theorem decodeUnit_nop {odd : Bool} {w n : Nat} {w1 w2 : Option Nat} (h : decodeUnit odd w w1 w2 = .ok .nop n) :
    w % 4 = 0 ∧ dec32 w = .ok .nop ∧ n = 4 := by
  unfold decodeUnit at h
  split at h
  · (repeat' split at h)
    · cases h
    · cases h
    · exact absurd (decOne_nop h).1 (by simp)
  · obtain ⟨-, hsel, hd, hn⟩ := decOne_nop h
    exact ⟨hsel, hd, hn⟩

theorem decodeWords_nop {l : List Nat} {n : Nat} (hl : ∀ w ∈ l, w < 2 ^ 32) (h : decodeWords l = .ok .nop n) :
    l.head? = some 0xFC ∧ n = 4 := by
  cases l with
  | nil => cases h
  | cons w r =>
    obtain ⟨hsel, hd, hn⟩ := decodeUnit_nop h
    obtain ⟨hmajor, hrest⟩ := dec32_nop hd
    have hw : w < 2 ^ 32 := hl w List.mem_cons_self
    have hword : w = 0xFC := by simp only [bits] at hmajor hrest; omega
    exact ⟨congrArg some hword, hn⟩

/-- A word of NOP's major with something above the major. -/
theorem dec32_nop_reserved {m : Nat} (h0 : 0 < m) (hm : m < 2 ^ 24) : dec32 (0xFC + 256 * m) = .error .reserved := by
  have hmajor : bits (0xFC + 256 * m) 7 2 = 0x3F := by simp only [bits]; omega
  have hrest : bits (0xFC + 256 * m) 31 8 ≠ 0 := by simp only [bits]; omega
  simp only [dec32, hmajor]
  exact if_neg hrest

/-- What is one word, and no instruction. -/
theorem decodeWords_rejected {w : Nat} {e : Reject} (hsel : w % 4 = 0) (hd : dec32 w = .error e) :
    decodeWords [w] = .ok (.illegalEncoding e 0) 4 := by
  cases e <;> simp [decodeWords, decodeUnit, decOne, hsel, hd, rejected]

/-- A prefix before an instruction of one word has nothing to bind to (R44). -/
theorem decodeWords_orphan {w v : Nat} {p : Pfx} {i : Instr} (hw : w % 4 = 2) (hp : decPfx w = .ok p) (hv : v % 4 = 0)
    (hd : dec32 v = .ok i) : decodeWords [w, v] = .ok .orphanPrefix 8 := by
  simp [decodeWords, decodeUnit, decOne, hw, hp, hv, hd]

/-- Words that are the encoding of an instruction decode to it. -/
theorem decodeWords_of_encode {i : Instr} {ws : List Nat} {n : Nat} (he : encode i = ws) (hwf : i.wf = true)
    (hw : i.hasWords = true) (hn : n = 4 * ws.length) : decodeWords ws = .ok i n := by
  subst he hn
  exact decodeWords_encode i hwf hw

end Sys2Proof

namespace Sys2Proof.Machine
open Sys2Proof.Claims

/-! ### The register file -/

theorem rx_zero (k : Task) : k.rx 0 = 0 := rfl

theorem wx_zero (k : Task) (v : W64) : k.wx 0 v = k := rfl

/-- A read of register q after a write of register r that is not x0. -/
theorem rx_wx (k : Task) {r q : Reg} (v : W64) (hr : r ≠ 0) (hq : q ≠ 0) : (k.wx r v).rx q = if q = r then v else k.rx q := by
  have hkey : q.toNat = r.toNat ↔ q = r := BitVec.toNat_inj
  simp only [Task.rx, Task.wx, hr, hq, if_false, get_put, hkey]

/-! ### Precise faults of the slice (R347) -/

section
variable {s : State} {k : Task}

/-- A precise fault is the one taken at the pc of the current task. -/
theorem faults_eq_slip (hk : find s.tasks s.cur = some k) (c : Byte) (a : Nat) (d : W64) :
    faults s k c a d = .next (s.slip c a d) := by
  rw [State.slip, task_of_find s s.cur k hk]; rfl

/-- A check that fails at decode raises its cause at the pc. -/
theorem onDecode_faults {regs : List Reg} {bad : Task → Option Byte} {f : Task → State} {c : Byte}
    (hk : find s.tasks s.cur = some k) (hb : bad k = some c) : onDecode s regs bad f = faults s k c k.pc 0 := by
  rw [onDecode_raises s k regs bad f c hk hb, faults_eq_slip hk]

/-- An instruction of the slice that finds a fault at issue raises it. -/
theorem onSlice_faults {regs : List Reg} {f : Task → State} {c : Byte} {a : Nat} {d : W64}
    (hk : find s.tasks s.cur = some k) (hz : k.hazard regs = false) (hf : f k = s.slip c a d) :
    onSlice s regs f = faults s k c a d := by
  rw [onSlice_runs s k regs f hk hz, hf, faults_eq_slip hk]

/-- The same behind the checks of decode. -/
theorem onDecode_slips {regs : List Reg} {bad : Task → Option Byte} {f : Task → State} {c : Byte} {a : Nat} {d : W64}
    (hk : find s.tasks s.cur = some k) (hb : bad k = none) (hz : k.hazard regs = false) (hf : f k = s.slip c a d) :
    onDecode s regs bad f = faults s k c a d := by
  rw [onDecode_runs s k regs bad f hk hb hz, hf, faults_eq_slip hk]

theorem operand_bad {b : Bool} (h : b = true) : operand b k = some 0x03 := if_pos h

theorem operand_good {b : Bool} (h : b = false) : operand b k = none := by simp [operand, h]

/-- A unit that is no instruction (R55, R57): illegal operand where the manual says so, else illegal encoding. -/
theorem exec_illegalEncoding (hk : find s.tasks s.cur = some k) (why : Reject) (delta : BitVec 4) :
    exec (.illegalEncoding why delta) s = faults s k (if why = .operand then 0x03 else 0x01) (k.pc + delta.toNat) 0 := by
  rw [faults_eq_slip hk]
  show execIllegalEncoding why delta s = _
  cases why <;> simp [execIllegalEncoding, hk]

theorem exec_orphanPrefix (hk : find s.tasks s.cur = some k) : exec .orphanPrefix s = faults s k 0x02 k.pc 0 := by
  rw [faults_eq_slip hk]
  show execOrphanPrefix s = _
  simp only [execOrphanPrefix, hk]

end

end Sys2Proof.Machine

namespace Sys2Proof.Claims
open Sys2Proof Sys2Proof.Machine

/-- Settles O3, by whether the register read or the register written is x0. -/
theorem registerFile : Obligations.RegisterFile := by
  intro k r q v
  by_cases hq : q = 0
  · rw [hq, rx_zero, if_pos rfl]
  by_cases hr : r = 0
  · rw [hr, wx_zero, if_neg hq, if_neg hq]
  · rw [rx_wx k v hr hq, if_neg hq]

/-- Settles O54: the word and its major by the decoder's answers, the effect by `onSlice`. -/
theorem nopWord : Obligations.NopWord := by
  refine ⟨rfl, fun _ _ => decodeWords_nop, fun m h0 hm => ?reserved, fun w p _ hsel hp => ?orphan, fun s k hready => ?effect,
    fun s k hk => ⟨exec_illegalEncoding hk .reserved 0, exec_orphanPrefix hk⟩⟩
  case reserved => exact decodeWords_rejected (by omega) (dec32_nop_reserved h0 hm)
  case orphan => exact decodeWords_orphan hsel hp rfl (i := .nop) rfl
  case effect => exact onSlice_runs s k [] _ hready.1 hready.2

/-- Settles O55: each list of words is the encoding of the instruction that stands beside it. -/
theorem decodedWords : Obligations.DecodedWords := by
  refine ⟨?_, ?_, ?_, ?_, ?_, ?_, ?_, ?_, ?_, ?_, ?_, ?_, ?_, ?_, ?_, ?_, decodeWords_rejected rfl rfl⟩ <;>
    exact decodeWords_of_encode rfl rfl rfl rfl

end Sys2Proof.Claims
end

section
/-! SUPPORT. The forms that raise a cause (O7), by where they find it: on their fields, on the privilege of their context, or at issue. -/

namespace Sys2Proof.Claims
open Sys2Proof Sys2Proof.Machine

/-- SRD and SWR test the number before the registers (R369). -/
theorem execSrd_high {s : State} {k : Task} (hk : find s.tasks s.cur = some k) (d : Reg) {n : BitVec 12} (hn : 0x800 ≤ n.toNat)
    (hfw : k.fw = false) : execSrd d n s = faults s k 0x04 k.pc 0 := by
  simp [execSrd, faults_eq_slip hk, hk, hn, hfw]

theorem execSrd_unnamed {s : State} {k : Task} (hk : find s.tasks s.cur = some k) (d : Reg) {n : BitVec 12} (hn : n.toNat < 0x800)
    (hname : sysNamed n.toNat = false) : execSrd d n s = faults s k 0x03 k.pc 0 := by
  simp [execSrd, faults_eq_slip hk, hk, Nat.not_le.mpr hn, hname]

theorem execSwr_high {s : State} {k : Task} (hk : find s.tasks s.cur = some k) (a : Reg) {n : BitVec 12} (hn : 0x800 ≤ n.toNat)
    (hfw : k.fw = false) : execSwr a n s = faults s k 0x04 k.pc 0 := by
  simp [execSwr, faults_eq_slip hk, hk, hn, hfw]

theorem execSwr_readOnly {s : State} {k : Task} (hk : find s.tasks s.cur = some k) (a : Reg) {n : BitVec 12} (hn : n.toNat < 0x800)
    (hname : sysNamed n.toNat = true) (hro : sysWritable n.toNat = false) : execSwr a n s = faults s k 0x04 k.pc 0 := by
  simp [execSwr, faults_eq_slip hk, hk, Nat.not_le.mpr hn, hname, hro]

/-- Settles O7: the condition of each form is the one that its meaning tests first. -/
theorem raisingForms : Obligations.RaisingForms := by
  intro i P c a d s k hform hk hP
  cases hform with
  | trap => exact onSlice_faults hk hP rfl
  | opcode delta => exact exec_illegalEncoding hk .opcode delta
  | reserved delta => exact exec_illegalEncoding hk .reserved delta
  | misaligned delta => exact exec_illegalEncoding hk .misaligned delta
  | operand delta => exact exec_illegalEncoding hk .operand delta
  | orphan => exact exec_orphanPrefix hk
  | shli | shri | sari | qdepth | brt | brtNz | brtZ | loop | endl | cqp | cqpb | bnd | cbw =>
    exact onDecode_faults hk (operand_bad (decide_eq_true hP))
  | cqpm => exact onDecode_faults hk (operand_bad (by simp [hP]))
  | pbr => exact onDecode_faults hk (operand_bad (by simpa using hP))
  | fenceC => exact onDecode_faults hk (operand_bad (by simpa using hP))
  | fenceM =>
    have hbad : operand ((0 : BitVec 3) == 0 && (0 : W16) == 0) k = some 0x03 := rfl
    change execFenceM 0 0 s = _
    rw [execFenceM, onDecode_faults hk hbad]
  | fmtp => exact onDecode_faults hk (operand_bad hP)
  | tend => exact onDecode_faults hk (if_pos (by simpa only [Bool.or_eq_true] using hP))
  | tstat | tsettle => exact onDecode_faults hk (if_pos hP)
  | ret =>
    obtain ⟨hz, hodd⟩ := hP
    exact onSlice_faults hk hz (if_pos hodd)
  | eret =>
    obtain ⟨hz, hin⟩ := hP
    exact onSlice_faults hk hz (by simp [hin])
  | rqpop =>
    obtain ⟨hz, hempty, hentries, hissued⟩ := hP
    exact onSlice_faults hk hz (by simp [hempty, RQ.done, hentries, hissued])
  | npop =>
    obtain ⟨hz, hempty, hnames, hentries, hissued⟩ := hP
    exact onSlice_faults hk hz (by simp [hempty, hnames, RQ.done, hentries, hissued])
  | cqpFull sel =>
    obtain ⟨hsel, hz, hfull, hentries⟩ := hP
    have hroom : ¬(k.qset.ctq sel.toNat).length < ctqCap k.inTrap := Nat.not_lt.mpr hfull
    exact onDecode_slips hk (operand_good (decide_eq_false (by omega))) hz (by simp [pushCtq, hroom, hentries])
  | fmtpFull =>
    obtain ⟨hgood, hz, hfull, hmma⟩ := hP
    exact onDecode_slips hk (operand_good hgood) hz (by simp [Nat.not_lt.mpr hfull, hmma])
  | srdNone => exact execSrd_unnamed hk _ hP.1 hP.2
  | srdHigh => exact execSrd_high hk _ hP.1 hP.2
  | swrHigh => exact execSwr_high hk _ hP.1 hP.2
  | swrRo =>
    obtain ⟨hn, hname, hro⟩ := hP
    exact execSwr_readOnly hk _ hn hname hro
  | xlt =>
    obtain ⟨hz, hva⟩ := hP
    exact onSlice_faults hk hz (if_pos hva)
  | xltn =>
    obtain ⟨hz, hhand, hblock⟩ := hP
    exact onSlice_faults hk hz (by simp [hhand, hblock])
  | nrel =>
    obtain ⟨hz, hblock⟩ := hP
    exact onSlice_faults hk hz (by simp [hblock])
  | shand =>
    obtain ⟨hz, hbad⟩ := hP
    exact onSlice_faults hk hz (if_pos hbad)
  | shandRight a b =>
    obtain ⟨hz, hsite, hval, hright⟩ := hP
    have hgood : ¬(7 < (k.rx a).toNat ∨ 2 ^ 20 ≤ (k.rx b).toNat) := by omega
    exact onSlice_faults hk hz (by simp only [hgood, hright, Bool.not_false, if_true, if_false])
  | semw =>
    obtain ⟨hz, hbad⟩ := hP
    exact onSlice_faults hk hz (if_pos hbad)
  | semwAbort d a n =>
    obtain ⟨hz, hlow, hhigh, hreset, hneg⟩ := hP
    have hgood : ¬((k.rx a).toInt < 0 ∨ 2 ^ 31 - 1 < (k.rx a).toInt) := by omega
    exact onSlice_faults hk hz (by simp only [hgood, hreset, hneg, BitVec.ofNat_toNat, Bool.false_eq_true, if_true, if_false])
  | cepop d e =>
    obtain ⟨hz, hempty, hnone⟩ := hP
    exact onSlice_faults hk hz (by simp [Task.resultsOf, hempty, hnone])

end Sys2Proof.Claims
end

section
/-! SUPPORT. The instructions on the context alone, the system registers, and the words of TSTAT (O6). -/

namespace Sys2Proof.Claims
open Sys2Proof Sys2Proof.Machine

/-! ### Effects -/

section
variable {s : State} {k : Task}

/-- An instruction of the slice whose registers are ready does what it says. -/
theorem onSlice_ready {regs : List Reg} {f : Task → State} {t : State} (h : Ready s k regs) (hf : f k = t) :
    onSlice s regs f = .next t := by
  rw [onSlice_runs s k regs f h.1 h.2, hf]

/-- The same where the checks of decode pass. -/
theorem onDecode_ready {regs : List Reg} {bad : Task → Option Byte} {f : Task → State} {t : State} (h : Ready s k regs)
    (hb : bad k = none) (hf : f k = t) : onDecode s regs bad f = .next t := by
  rw [onDecode_runs s k regs bad f h.1 hb h.2, hf]

/-- A second replacement of the current task's context leaves nothing of the first. -/
theorem setTask_upd (k1 k2 : Task) : (upd s k1).setTask s.cur k2 = upd s k2 := by
  simp only [upd, State.setTask, ins_ins]

theorem task_upd (k1 : Task) : (upd s k1).task s.cur = k1 := by
  simp [upd, State.task]

theorem find_upd (k1 : Task) : find (upd s k1).tasks s.cur = some k1 := by
  simp [upd]

/-- TEND with work left in the routed queues only ends the fetch (R172). -/
theorem afterTend_busy (hbusy : k.ord.allDone = false) : (upd s k).afterTend s.cur = upd s k := by
  simp only [State.afterTend, find_upd, hbusy, Bool.and_false, Bool.false_eq_true, if_false]

/-- TEND with the routed queues empty and no name to relinquish discards what is left in the queues of operands (R172). -/
theorem afterTend_done (hend : k.hasEnded = true) (hin : k.inTrap = false) (hdone : k.ord.allDone = true) (hnames : k.ord.nrq = []) :
    (upd s k).afterTend s.cur =
      upd s { k with ord := { k.ord with ctqLd := [], ctqCm := [], ctqSt := [], tok := [], rtq := [], nrq := [] } } := by
  simp only [State.afterTend, find_upd, hend, hin, hdone, hnames, each, setTask_upd, task_upd, Bool.not_false, Bool.and_self,
    if_true]

theorem execSrd_flags {d : Reg} (h : Ready s k [d]) (hidle : k.ord.inFlight ++ k.hnd.inFlight = []) :
    execSrd d 0 s = .next (upd s (go (k.wx d (k.fflags.setWidth 64)) 4)) := by
  obtain ⟨hk, hz⟩ := h
  simp [execSrd, hk, hz, hidle, sysNamed]; rfl

theorem execSrd_reads {d : Reg} {n : BitVec 12} (h : Ready s k [d]) (h0 : n ≠ 0) (hn : n.toNat < 0x800)
    (hname : sysNamed n.toNat = true) : execSrd d n s = .next (upd s (go (k.wx d (s.sysRead k n.toNat)) 4)) := by
  obtain ⟨hk, hz⟩ := h
  have hne : n.toNat ≠ 0 := fun h => h0 (BitVec.eq_of_toNat_eq h)
  simp [execSrd, hk, hz, hname, hne, Nat.not_le.mpr hn]; rfl

/-- The registers that SWR writes are named, and below 0x800 (R369). -/
theorem writable_named {n : Nat} (h : sysWritable n = true) : n < 0x800 ∧ sysNamed n = true := by
  simp [sysWritable] at h
  simp [sysNamed]
  omega

theorem execSwr_writes {a : Reg} {n : BitVec 12} (h : Ready s k [a]) (hw : sysWritable n.toNat = true) :
    execSwr a n s = .next (upd s (go (k.sysWrite n.toNat (k.rx a)) 4)) := by
  obtain ⟨hk, hz⟩ := h
  obtain ⟨hn, hname⟩ := writable_named hw
  simp [execSwr, hk, hz, hname, hw, Nat.not_le.mpr hn]; rfl

end

theorem contextEffects : ContextEffects := by
  intro i rs P f s k hform hready hP
  cases hform with
  | nop | yield | cbclr | hrel => exact onSlice_ready hready rfl
  | tend =>
    obtain ⟨hfw, hin, hbusy⟩ := hP
    exact onDecode_ready hready (by simp [tendBad, hfw, hin]) (afterTend_busy hbusy)
  | tendDone =>
    obtain ⟨hfw, hin, hdone, hnames⟩ := hP
    exact onDecode_ready hready (by simp [tendBad, hfw, hin]) (afterTend_done rfl hin hdone hnames)
  | tstat | tstatP => exact onDecode_ready hready (by simp [noFw, hP]) rfl
  | cbw => exact onDecode_ready hready (operand_good (by simpa using hP)) rfl
  | cepop d e r l => exact onSlice_ready hready (by simp only [Task.resultsOf, hP]; rfl)
  | join => exact onSlice_ready hready (by simp only [hP]; rfl)
  | fenceM q e =>
    obtain ⟨hsome, hroom⟩ := hP
    exact onDecode_ready hready (operand_good (by simp; tauto)) (if_neg (Nat.not_le.mpr hroom))
  | semrd => exact onSlice_ready hready (by simp only [hP]; rfl)
  | semw d a n =>
    obtain ⟨hreset, hhigh, hpos, hle⟩ := hP
    have hgood : ¬((k.rx a).toInt < 0 ∨ 2 ^ 31 - 1 < (k.rx a).toInt) := by omega
    exact onSlice_ready hready (by simp only [hgood, hreset, Int.not_lt.mpr hpos, hle, Bool.false_eq_true, if_true, if_false]; rfl)
  | fflags => exact execSrd_flags hready hP
  | srd =>
    obtain ⟨h0, hn, hname⟩ := hP
    exact execSrd_reads hready h0 hn hname
  | swr => exact execSwr_writes hready hP

/-! ### The system registers -/

/-- A queue has a fault to take: its head's, or one of an entry that had issued (R36, R348). -/
theorem firstFault_isSome (q : RQ) : q.firstFault.isSome = (q.fault.isSome || !q.late.isEmpty) := by
  unfold RQ.firstFault
  cases q.late <;> simp

/-- A set of queues has a fault to take if one of its queues has. -/
theorem faulted_eq (q : QSet) : q.faulted = [q.ldq, q.cmq, q.stq].any fun r => r.fault.isSome || !r.late.isEmpty := by
  simp [QSet.faulted, firstFault_isSome, Bool.or_assoc]

theorem two_flags (a b : Bool) : (BitVec.ofNat 64 (a.toNat * 2 + b.toNat)).toNat = (if b then 1 else 0) + if a then 2 else 0 := by
  cases a <;> cases b <;> rfl

theorem sysReads {n : Nat} {g : State → Task → Nat} (s : State) (k : Task) (h : SysReads n g) : (s.sysRead k n).toNat = g s k := by
  cases h with
  | rsrseed | tvec | tpc | taddr | tinfo | tdata => rfl
  | cycle | time => exact BitVec.toNat_ofNat ..
  | fabno => simp [State.sysRead]; omega
  | tcause => simp [State.sysRead]; omega
  | mmstate =>
    show (mmstate k).toNat = _
    cases hm : k.mma with
    | none => simp [mmstate, hm]
    | some m =>
      cases hstop : m.stopped with
      | false => simp [mmstate, hm, hstop]
      | true => simp only [mmstate, hm, hstop, if_true, BitVec.toNat_ofNat]; omega
  | ctxid =>
    show (s.ctxid k).toNat = _
    simp only [State.ctxid, BitVec.toNat_ofNat]
    omega
  | tstat =>
    have hany : (k.ord.faulted || k.hnd.faulted) = [k.ord, k.hnd].any fun q => [q.ldq, q.cmq, q.stq].any fun r =>
        r.fault.isSome || !r.late.isEmpty := by
      simp only [faulted_eq, List.any_cons, List.any_nil, Bool.or_false]
    show (tstat k).toNat = _
    rw [tstat, hany, two_flags]
  | p n hn => interval_cases n <;> rfl
  | i n hn => interval_cases n <;> rfl
  | tsave n hn => interval_cases n <;> rfl

/-- The bits above the low n of a word (R371). -/
theorem and_not_low (v : W64) (n : Nat) : v &&& ~~~BitVec.ofNat 64 (2 ^ n - 1) = BitVec.ofNat 64 (2 ^ n * (v.toNat / 2 ^ n)) := by
  apply BitVec.eq_of_getLsbD_eq
  intro i hi
  simp only [BitVec.getLsbD_and, BitVec.getLsbD_not, BitVec.getLsbD_ofNat, hi, decide_true, Bool.true_and,
    Nat.testBit_two_pow_mul, Nat.testBit_div_two_pow, Nat.testBit_two_pow_sub_one]
  by_cases hn : n ≤ i
  · simp [hn, Nat.not_lt.mpr hn, BitVec.testBit_toNat]
  · simp [hn, Nat.not_le.mp hn]

/-- The low n bits of v below the other bits of t (R371). -/
theorem low_bits_of (t v : W64) (n : Nat) :
    (t &&& ~~~BitVec.ofNat 64 (2 ^ n - 1)) ||| (v &&& BitVec.ofNat 64 (2 ^ n - 1)) =
      BitVec.ofNat 64 (2 ^ n * (t.toNat / 2 ^ n) + v.toNat % 2 ^ n) := by
  apply BitVec.eq_of_getLsbD_eq
  intro i hi
  have hlow : v.toNat % 2 ^ n < 2 ^ n := Nat.mod_lt _ (by positivity)
  simp only [and_not_low, BitVec.getLsbD_or, BitVec.getLsbD_and, BitVec.getLsbD_ofNat, hi, decide_true, Bool.true_and,
    Nat.testBit_two_pow_mul_add _ hlow, Nat.testBit_two_pow_mul, Nat.testBit_mod_two_pow, Nat.testBit_two_pow_sub_one]
  by_cases hn : i < n
  · simp [hn, Nat.not_le.mpr hn, BitVec.testBit_toNat]
  · simp [hn, Nat.not_lt.mp hn]

theorem sysWrites {n : Nat} {g : Task → W64 → Task} (k : Task) (v : W64) (h : SysWrites n g) : k.sysWrite n v = g k v := by
  cases h with
  | fflags | rsrseed => rfl
  | tvec => exact congrArg (fun b => { k with tvec := b }) (and_not_low v 3)
  | tpc => exact congrArg (fun b => { k with tpc := b }) (and_not_low v 2)
  | tinfo => exact congrArg (fun b => { k with tinfo := b }) (low_bits_of k.tinfo v 1)
  | tsave n hn => interval_cases n <;> rfl

theorem systemRegisters : SystemRegisters :=
  ⟨fun _ _ s k h => sysReads s k h, fun _ _ k v h => sysWrites k v h⟩

/-! ### The word of TSTAT for a slot (R239) -/

theorem ite_two_pow (b : Bool) (n : Nat) : (if b = true then 2 ^ n else 0) = b.toNat * 2 ^ n := by
  cases b <;> simp

/-- The slot has a holder other than task t. -/
def peered (t : Nat) (tl : TSlot) : Bool := tl.shares.any fun p => p.1 != t

theorem peered_iff (t : Nat) (tl : TSlot) : peered t tl = true ↔ ∃ p ∈ tl.shares, p.1 ≠ t := by
  simp [peered]

/-- The word of TSTAT as a number, from the tile tl of the slot, the slot's place in a window, its generation and the code of its state. -/
def slotFields (t : Nat) (tl : TSlot) (ring : Bool) (gen code : Nat) : Nat :=
  (peered t tl).toNat * 2 ^ 51 + ring.toNat * 2 ^ 50 + gen % 256 * 2 ^ 42 + code * 2 ^ 39 + tl.shares.length % 8 * 2 ^ 36 +
    shareOf tl.shares t % 4096 * 2 ^ 24 + tl.declared % 4096 * 2 ^ 12 + shareSum tl.shares % 4096

theorem stateCode_lt (v : View) : stateCode v < 8 := by
  unfold stateCode
  (repeat' split) <;> omega

section
variable {t gen code : Nat} {tl : TSlot} {ring : Bool}

theorem slotFields_sum : slotFields t tl ring gen code % 2 ^ 12 = shareSum tl.shares % 2 ^ 12 := by
  unfold slotFields; omega

theorem slotFields_declared : slotFields t tl ring gen code / 2 ^ 12 % 2 ^ 12 = tl.declared % 2 ^ 12 := by
  unfold slotFields; omega

theorem slotFields_share : slotFields t tl ring gen code / 2 ^ 24 % 2 ^ 12 = shareOf tl.shares t % 2 ^ 12 := by
  unfold slotFields; omega

theorem slotFields_holders : slotFields t tl ring gen code / 2 ^ 36 % 2 ^ 3 = tl.shares.length % 2 ^ 3 := by
  unfold slotFields; omega

theorem slotFields_code (h : code < 8) : slotFields t tl ring gen code / 2 ^ 39 % 8 = code := by
  unfold slotFields; omega

theorem slotFields_gen (h : code < 8) : slotFields t tl ring gen code / 2 ^ 42 % 2 ^ 8 = gen % 2 ^ 8 := by
  unfold slotFields; omega

theorem slotFields_ring (h : code < 8) : slotFields t tl ring gen code / 2 ^ 50 % 2 = 1 ↔ ring = true := by
  have hring := ring.toNat_le
  rw [← Bool.toNat_eq_one]
  unfold slotFields; omega

theorem slotFields_peered (h : code < 8) : slotFields t tl ring gen code / 2 ^ 51 = (peered t tl).toNat := by
  have hring := ring.toNat_le
  unfold slotFields; omega

theorem slotFields_lt (h : code < 8) : slotFields t tl ring gen code < 2 ^ 52 := by
  have hpeered := (peered t tl).toNat_le
  have htop := slotFields_peered (t := t) (tl := tl) (ring := ring) (gen := gen) h
  omega

/-- A slot without a tile has nothing but its generation and its window. -/
theorem slotFields_empty : slotFields t TSlot.empty ring gen 0 % 2 ^ 42 = 0 ∧ slotFields t TSlot.empty ring gen 0 / 2 ^ 51 = 0 := by
  refine ⟨?_, slotFields_peered (by omega)⟩
  have hw : slotFields t TSlot.empty ring gen 0 = ring.toNat * 2 ^ 50 + gen % 256 * 2 ^ 42 := by
    simp [slotFields, peered, TSlot.empty, shareOf, shareSum, sumNat]
  omega

end

theorem inRing_iff (k : Task) (n : Nat) : k.inRing n = true ↔ ∃ m x, (m, some x) ∈ k.win ∧ x.first ≤ n ∧ n < x.first + x.size := by
  simp only [Task.inRing, List.any_eq_true, Prod.exists]
  constructor
  · rintro ⟨m, x, hx, hin⟩
    cases x with
    | none => cases hin
    | some x => exact ⟨m, x, hx, by simpa using hin⟩
  · rintro ⟨m, x, hx, hin⟩
    exact ⟨m, some x, hx, by simpa using hin⟩

/-- Beyond the partition TSTAT reads 0. -/
theorem statWord_beyond (s : State) (t : Nat) {k : Task} {n : Nat} (h : k.partSize ≤ n) : statWord s t k n = 0 := if_pos h

/-- Within it the word's fields are those of the tile that the slot shows, and of no tile where it shows none. -/
theorem statWord_fields (s : State) (t : Nat) {k : Task} {n : Nat} (h : n < k.partSize) :
    ∃ tl, (∀ x, s.view t k n = .tile x → tl = x) ∧ (s.view t k n = .empty ∨ s.view t k n = .other → tl = TSlot.empty) ∧
      (statWord s t k n).toNat =
        slotFields t tl (k.inRing n) (s.tslot k.coreKey (k.partBase + n)).gen (stateCode (s.view t k n)) := by
  have hcode := stateCode_lt (s.view t k n)
  simp only [statWord, Nat.not_le.mpr h, if_false, BitVec.toNat_ofNat, ite_two_pow]
  refine ⟨_, ?_, ?_, Nat.mod_eq_of_lt (lt_trans (slotFields_lt hcode) (by norm_num))⟩
  · intro x hx
    simp only [hx]
  · rintro (hx | hx) <;> simp only [hx]

theorem slotWord : SlotWord := by
  intro s k n
  refine ⟨fun h => by rw [statWord_beyond s s.cur h]; rfl, fun h => ?_⟩
  obtain ⟨tl, htile, hnone, hw⟩ := statWord_fields s s.cur h
  have hcode := stateCode_lt (s.view s.cur k n)
  rw [hw]
  refine ⟨slotFields_lt hcode, slotFields_gen hcode, (slotFields_ring hcode).trans (inRing_iff k n), fun hv => ?_, fun hv => ?_,
    fun x hv => ?_⟩
  · have hzero : stateCode (s.view s.cur k n) = 0 := by rcases hv with hv | hv <;> rw [hv] <;> rfl
    rw [hnone hv, hzero]
    exact slotFields_empty
  · rw [slotFields_code hcode, hv]; rfl
  · have hx := htile x hv
    subst hx
    refine ⟨slotFields_sum, slotFields_declared, slotFields_share, slotFields_holders, fun hst => ?_, fun hst => ?_,
      ?_⟩
    · rw [slotFields_code hcode, hv]; simp only [stateCode, hst]
    · rw [slotFields_code hcode, hv]; simp only [stateCode, hst]
    · rw [slotFields_peered hcode, ← peered_iff, ← Bool.toNat_eq_one]
      have hpeered := (peered s.cur tl).toNat_le
      omega

/-! ### The word of TSTAT.p (R239) -/

/-- The windows declared, a bit for each of four. -/
def windowBits (k : Task) : Nat := sumNat ([0, 1, 2, 3].map fun n => if (k.window n).isSome then 2 ^ n else 0)

theorem windowBits_lt (k : Task) : windowBits k < 16 := by
  simp only [windowBits, List.map, sumNat]
  (repeat' split) <;> omega

theorem windowBits_bit (k : Task) {n : Nat} (hn : n < 4) : windowBits k / 2 ^ n % 2 = 1 ↔ (k.window n).isSome = true := by
  simp only [windowBits, List.map, sumNat]
  interval_cases n <;> (repeat' split) <;> simp [*]

/-- A slot shows no tile to its partition (R239). -/
def shownFree : View → Bool
  | .empty | .other => true
  | _ => false

/-- The free slots of the partition of k. -/
def freeSlots (s : State) (t : Nat) (k : Task) : Nat := ((List.range k.partSize).filter fun n => shownFree (s.view t k n)).length

/-- The word of TSTAT.p as a number, from the slots that are free. -/
def partFields (k : Task) (free : Nat) : Nat :=
  k.ctx % 2 * 2 ^ 22 + k.core % 4 * 2 ^ 20 + windowBits k * 2 ^ 16 + free % 128 * 2 ^ 8 + Nat.log2 (k.partSize / 4) % 8

theorem partFields_lt (k : Task) (free : Nat) : partFields k free < 2 ^ 23 := by
  have hwin := windowBits_lt k
  unfold partFields; omega

theorem partFields_size (k : Task) (free : Nat) : partFields k free % 2 ^ 8 = Nat.log2 (k.partSize / 4) % 8 := by
  unfold partFields; omega

theorem partFields_free (k : Task) (free : Nat) : partFields k free / 2 ^ 8 % 2 ^ 7 = free % 2 ^ 7 := by
  unfold partFields; omega

theorem partFields_reserved (k : Task) (free : Nat) : partFields k free / 2 ^ 15 % 2 = 0 := by
  unfold partFields; omega

theorem partFields_windows (k : Task) (free : Nat) : partFields k free / 2 ^ 16 % 16 = windowBits k := by
  have hwin := windowBits_lt k
  unfold partFields; omega

theorem partFields_core (k : Task) (free : Nat) : partFields k free / 2 ^ 20 % 4 = k.core % 4 := by
  have hwin := windowBits_lt k
  unfold partFields; omega

theorem partFields_ctx (k : Task) (free : Nat) : partFields k free / 2 ^ 22 % 2 = k.ctx % 2 := by
  have hwin := windowBits_lt k
  unfold partFields; omega

/-- A bit of the window field is that of its window. -/
theorem partFields_window (k : Task) (free : Nat) {n : Nat} (hn : n < 4) :
    partFields k free / 2 ^ (16 + n) % 2 = 1 ↔ (k.window n).isSome = true := by
  rw [← windowBits_bit k hn, ← partFields_windows k free]
  interval_cases n <;> omega

theorem partWord_fields (s : State) (t : Nat) (k : Task) : (partWord s t k).toNat = partFields k (freeSlots s t k) := by
  have hword : partWord s t k = BitVec.ofNat 64 (partFields k (freeSlots s t k)) := rfl
  rw [hword, BitVec.toNat_ofNat]
  exact Nat.mod_eq_of_lt (lt_trans (partFields_lt ..) (by norm_num))

theorem log2_partition {n c : Nat} (h : n = 4 * 2 ^ c) : Nat.log2 (n / 4) = c := by
  rw [h, Nat.mul_div_cancel_left _ (by norm_num), Nat.log2_two_pow]

theorem partitionWord : PartitionWord := by
  intro s k
  rw [partWord_fields]
  refine ⟨partFields_lt .., partFields_ctx .., partFields_core .., fun n hn => partFields_window _ _ hn, partFields_reserved ..,
    fun c hc hsize => ⟨?_, partFields_free ..⟩⟩
  rw [partFields_size, log2_partition hsize, Nat.mod_eq_of_lt (by omega)]

/-- Settles O6: the effects form by form, and each word field by field. -/
theorem contextInstructions : Obligations.ContextInstructions := ⟨contextEffects, systemRegisters, slotWord, partitionWord⟩

end Sys2Proof.Claims
end

section
/-! SUPPORT. What a write of elements leaves in a vector register, the flags of a table of results, the issue of a head whose body
only writes registers, and the elementwise instructions (O24). -/

namespace Sys2Proof.Machine

/-! ### Widths and rows (R33, R49) -/

theorem width_pos (T : Nat) : 0 < width T := by
  unfold width; split <;> decide

theorem width_dvd_row (T : Nat) : width T ∣ 2048 := by
  unfold width; split <;> decide

theorem width_mul_perRow (T : Nat) : width T * perRow T = 2048 := Nat.mul_div_cancel' (width_dvd_row T)

theorem perRow_pos (T : Nat) : 0 < perRow T := Nat.div_pos (Nat.le_of_dvd (by decide) (width_dvd_row T)) (width_pos T)

theorem elems_eq_rows (T : Nat) : elems T = 32 * perRow T := by
  rw [elems, perRow, ← Nat.mul_div_assoc _ (width_dvd_row T)]

theorem width_mul_elems (T : Nat) : width T * elems T = 65536 := by
  rw [elems_eq_rows, Nat.mul_left_comm, width_mul_perRow]

/-- The row of an element, by its bit position and by its number. -/
theorem row_of_elem (T j : Nat) : j * width T / 2048 = j / perRow T := by
  rw [← width_mul_perRow T, Nat.mul_comm (width T)]
  exact Nat.mul_div_mul_right _ _ (width_pos T)

theorem row_lt {T j : Nat} (hj : j < elems T) : j / perRow T < 32 := by
  rw [Nat.div_lt_iff_lt_mul (perRow_pos T), ← elems_eq_rows]; exact hj

/-! ### Packed elements -/

theorem packBits_lt (w : Nat) (f : Nat → Nat) (n : Nat) : packBits w f n < 2 ^ (w * n) := by
  induction n with
  | zero => simp [packBits]
  | succ n ih =>
    have hf : f n % 2 ^ w < 2 ^ w := Nat.mod_lt _ (by positivity)
    calc packBits w f (n + 1) < 2 ^ (w * n) + f n % 2 ^ w * 2 ^ (w * n) := Nat.add_lt_add_right ih _
      _ = (f n % 2 ^ w + 1) * 2 ^ (w * n) := by ring
      _ ≤ 2 ^ w * 2 ^ (w * n) := Nat.mul_le_mul_right _ hf
      _ = 2 ^ (w * (n + 1)) := by rw [← pow_add]; congr 1; ring

/-- Element j of packed elements is the j-th of them. -/
theorem packBits_elem (w : Nat) (f : Nat → Nat) {n j : Nat} (hj : j < n) : packBits w f n / 2 ^ (w * j) % 2 ^ w = f j % 2 ^ w := by
  induction n with
  | zero => omega
  | succ n ih =>
    obtain hlt | rfl : j < n ∨ j = n := by omega
    · obtain ⟨m, rfl⟩ : ∃ m, n = j + 1 + m := ⟨n - (j + 1), by omega⟩
      have hsplit : f (j + 1 + m) % 2 ^ w * 2 ^ (w * (j + 1 + m)) = 2 ^ (w * j) * (2 ^ w * (f (j + 1 + m) % 2 ^ w * 2 ^ (w * m))) := by
        have hexp : w * (j + 1 + m) = w * j + (w + w * m) := by ring
        rw [hexp, pow_add, pow_add]; ring
      rw [packBits, hsplit, Nat.add_mul_div_left _ _ (by positivity), Nat.add_mul_mod_self_left, ih hlt]
    · rw [packBits, Nat.add_mul_div_right _ _ (by positivity), Nat.div_eq_of_lt (packBits_lt w f j), Nat.zero_add, Nat.mod_mod]

/-! ### Rows written (R205) -/

/-- Adding a power of two whose bit is clear sets that bit. -/
theorem testBit_add_two_pow {a n : Nat} (h : a / 2 ^ n % 2 = 0) (r : Nat) : (a + 2 ^ n).testBit r = (a.testBit r || decide (n = r)) := by
  have hlow : a % 2 ^ n < 2 ^ n := Nat.mod_lt _ (by positivity)
  have ha : a = 2 ^ (n + 1) * (a / 2 ^ (n + 1)) + a % 2 ^ n := by
    conv_lhs => rw [← Nat.div_add_mod a (2 ^ (n + 1)), Nat.mod_pow_succ, h, Nat.mul_zero]
    rfl
  have hsum : a + 2 ^ n = 2 ^ (n + 1) * (a / 2 ^ (n + 1)) + (2 ^ n + a % 2 ^ n) := by omega
  have hlt : 2 ^ n + a % 2 ^ n < 2 ^ (n + 1) := by rw [pow_succ]; omega
  rw [hsum, Nat.testBit_two_pow_mul_add _ hlt]
  conv_rhs => rw [ha, Nat.testBit_two_pow_mul_add _ (by omega)]
  obtain hr | rfl | hr := Nat.lt_trichotomy r n
  · simp [Nat.testBit_two_pow_add_gt hr, show r < n + 1 by omega, show n ≠ r by omega]
  · simp [Nat.testBit_two_pow_add_eq, Nat.testBit_lt_two_pow hlow]
  · simp [show ¬r < n + 1 by omega, show n ≠ r by omega]

/-- A row is written if it was, or if one of its elements is. -/
theorem rowsOf_testBit (per : Nat) (f : Nat → Bool) (r : Nat) (n acc : Nat) :
    (rowsOf per f n acc).testBit r = true ↔ acc.testBit r = true ∨ ∃ j, j < n ∧ f j = true ∧ j / per = r := by
  induction n generalizing acc with
  | zero => simp [rowsOf]
  | succ n ih =>
    have hsucc : (∃ j, j < n + 1 ∧ f j = true ∧ j / per = r) ↔
        (f n = true ∧ n / per = r) ∨ ∃ j, j < n ∧ f j = true ∧ j / per = r := by
      simp only [Nat.lt_succ_iff_lt_or_eq, or_and_right, exists_or, exists_eq_left, or_comm]
    rw [rowsOf, ih, hsucc, ← or_assoc]
    refine or_congr ?_ Iff.rfl
    split
    · next h =>
      obtain ⟨hf, hoff⟩ : f n = true ∧ acc / 2 ^ (n / per) % 2 = 0 := by simpa using h
      simp [testBit_add_two_pow hoff, hf]
    · next h =>
      refine ⟨.inl, Or.rec id ?_⟩
      rintro ⟨hf, rfl⟩
      rw [Nat.testBit_eq_decide_div_mod_eq]
      simp [hf] at h
      simp [h]

theorem elem_mod (v : VReg) (w j : Nat) : v.elem w j % 2 ^ w = v.elem w j := by
  unfold VReg.elem; split <;> simp

theorem toNat_ofNat_of_fits {w x : Nat} (h : x < 2 ^ w) : (BitVec.ofNat w x).toNat = x := by
  rw [BitVec.toNat_ofNat, Nat.mod_eq_of_lt h]

/-- The bits of a register after a write, element by element. -/
theorem update_bits (v : VReg) (T : Nat) (f : Nat → Option Nat) :
    (v.update T f).bits.toNat = packBits (width T) (fun e => (f e).getD (v.elem (width T) e)) (elems T) := by
  have hfit : packBits (width T) (fun e => (f e).getD (v.elem (width T) e)) (elems T) < 2 ^ 65536 := by
    rw [← width_mul_elems T]; exact packBits_lt ..
  have hbits : (v.update T f).bits =
      BitVec.ofNat 65536 (packBits (width T) (fun e => (f e).getD (v.elem (width T) e)) (elems T)) := by
    refine congrArg (fun g => BitVec.ofNat 65536 (packBits (width T) g (elems T))) (funext fun e => ?_)
    cases f e <;> rfl
  rw [hbits, toNat_ofNat_of_fits hfit]

/-- The rows written after a write (R205). -/
theorem update_written (v : VReg) (T : Nat) (f : Nat → Option Nat) {r : Nat} (hr : r < 32) :
    (v.update T f).written.getLsbD r = true ↔
      v.written.getLsbD r = true ∨ ∃ i, i < elems T ∧ (f i).isSome = true ∧ i / perRow T = r := by
  rw [VReg.update, BitVec.getLsbD_or, BitVec.getLsbD_ofNat, Bool.or_eq_true, Bool.and_eq_true, rowsOf_testBit]
  simp [hr]

/-- An element after a write: its new value, or what it held; a row that no element of is written stays as it was (R60, R205). -/
theorem elem_update (v : VReg) (T : Nat) (f : Nat → Option Nat) {j : Nat} (hj : j < elems T) :
    (v.update T f).elem (width T) j = (f j).elim (v.elem (width T) j) (· % 2 ^ width T) := by
  have hbits : (f j).getD (v.elem (width T) j) % 2 ^ width T = (f j).elim (v.elem (width T) j) (· % 2 ^ width T) := by
    cases f j with
    | some x => rfl
    | none => exact elem_mod ..
  rw [VReg.elem, row_of_elem, update_bits, packBits_elem _ _ hj, hbits]
  split
  · rfl
  · next h =>
    rw [update_written v T f (row_lt hj), not_or] at h
    obtain ⟨hclear, hnone⟩ := h
    cases hf : f j with
    | some x => exact absurd ⟨j, hj, by rw [hf]; rfl, rfl⟩ hnone
    | none => rw [Option.elim_none, VReg.elem, row_of_elem, if_neg hclear]

/-! ### Tables of results -/

theorem tabulate_size {α : Type} (f : Nat → α) (n : Nat) : (tabulate f n).size = n := by
  induction n with
  | zero => rfl
  | succ n ih => rw [tabulate, Array.size_push, ih]

theorem tabulate_getElem? {α : Type} (f : Nat → α) (n j : Nat) : (tabulate f n)[j]? = if j < n then some (f j) else none := by
  induction n with
  | zero => rfl
  | succ n ih =>
    rw [tabulate, Array.getElem?_push, tabulate_size, ih]
    by_cases hj : j = n
    · simp [hj]
    · simp only [hj, if_false, Nat.lt_succ_iff, Nat.lt_iff_le_and_ne, and_true, not_false_eq_true, ne_eq]

theorem mem_tabulate {α : Type} {f : Nat → α} {n : Nat} {a : α} : a ∈ tabulate f n ↔ ∃ j, j < n ∧ f j = a := by
  simp only [Array.mem_iff_getElem?, tabulate_getElem?]
  simp

/-- The flags gathered along a list of results (R77). -/
theorem foldl_flags_bit {g : BitVec 6 → Option (Nat × BitVec 6) → BitVec 6} (hnone : ∀ a, g a none = a)
    (hsome : ∀ a v, g a (some v) = a ||| v.2) (l : List (Option (Nat × BitVec 6))) (a : BitVec 6) (b : Nat) :
    (l.foldl g a).getLsbD b = true ↔ a.getLsbD b = true ∨ ∃ v, some v ∈ l ∧ v.2.getLsbD b = true := by
  induction l generalizing a with
  | nil => simp
  | cons r l ih =>
    rw [List.foldl_cons, ih]
    cases r with
    | none => simp [hnone]
    | some v => simp [hsome, or_and_right, exists_or, or_assoc]

/-- The flags of a table are those of its results. -/
theorem tableFlags_bit (tbl : Array (Option (Nat × BitVec 6))) (b : Nat) :
    (tableFlags tbl).getLsbD b = true ↔ ∃ v, some v ∈ tbl ∧ v.2.getLsbD b = true := by
  rw [tableFlags, ← Array.foldl_toList, foldl_flags_bit (fun _ => rfl) (fun _ _ => rfl)]
  simp

/-- What the elementwise shape gives for the elements that act selects. -/
def laneTable (T : Nat) (act : Nat → Bool) (op : Nat → Nat × BitVec 6) : Array (Option (Nat × BitVec 6)) :=
  tabulate (fun e => if act e then some (op e) else none) (elems T)

theorem vecRun_eq (x : Hd) (vd : VField) (T : Nat) (act : Nat → Bool) (op : Nat → Nat × BitVec 6) :
    vecRun x vd T act op =
      .done { s := x.s.setTask x.t (x.k.setElems vd T (laneTable T act op)), flags := tableFlags (laneTable T act op) } := rfl

/-- A write of elements changes the vector registers and nothing else. -/
theorem setElems_v (k : Task) (vd : VField) (T : Nat) (tbl : Array (Option (Nat × BitVec 6))) :
    ∃ v, k.setElems vd T tbl = { k with v := v } := by
  unfold Task.setElems
  split
  · exact ⟨_, rfl⟩
  · exact ⟨k.v, rfl⟩

theorem rv_wv (k : Task) (n m : Nat) (v : VReg) : (k.wv n v).rv m = if m = n then v else k.rv m := get_put ..

/-- A register that is not vd stays, and every register where vd is the sink. -/
theorem setElems_other (k : Task) {vd : VField} (T : Nat) (tbl : Array (Option (Nat × BitVec 6))) {n : Nat}
    (h : n ≠ vd.toNat ∨ isVReg vd = false) : (k.setElems vd T tbl).rv n = k.rv n := by
  unfold Task.setElems
  split
  · next hreg =>
    have hn : n ≠ vd.toNat := h.resolve_right (by simp [hreg])
    rw [rv_wv, if_neg hn]
  · rfl

/-- The elements of vd after the elementwise shape. -/
theorem setElems_lane (k : Task) {vd : VField} (T : Nat) (act : Nat → Bool) (op : Nat → Nat × BitVec 6) (hreg : isVReg vd = true)
    {j : Nat} (hj : j < elems T) : ((k.setElems vd T (laneTable T act op)).rv vd.toNat).elem (width T) j =
      if act j then (op j).1 % 2 ^ width T else (k.rv vd.toNat).elem (width T) j := by
  rw [Task.setElems, if_pos hreg, rv_wv, if_pos rfl, elem_update _ _ _ hj, laneTable, tabulate_getElem?, if_pos hj]
  cases act j <;> rfl

/-- The flags of the elementwise shape are those that a selected element raised. -/
theorem laneTable_flags (T : Nat) (act : Nat → Bool) (op : Nat → Nat × BitVec 6) (b : Nat) :
    (tableFlags (laneTable T act op)).getLsbD b = true ↔ ∃ j, j < elems T ∧ act j = true ∧ (op j).2.getLsbD b = true := by
  rw [tableFlags_bit]
  constructor
  · rintro ⟨v, hv, hb⟩
    obtain ⟨j, hj, he⟩ := mem_tabulate.mp hv
    split at he
    · next hact => cases he; exact ⟨j, hj, hact, hb⟩
    · cases he
  · rintro ⟨j, hj, hact, hb⟩
    exact ⟨op j, mem_tabulate.mpr ⟨j, hj, if_pos hact⟩, hb⟩

/-- A second replacement of a context leaves nothing of the first. -/
theorem setTask_setTask (s : State) (t : Nat) (k1 k2 : Task) : (s.setTask t k1).setTask t k2 = s.setTask t k2 := by
  simp only [State.setTask, ins_ins]

end Sys2Proof.Machine

namespace Sys2Proof.Claims
open Sys2Proof Sys2Proof.Machine

/-- A head whose body only writes vector registers issues with the flags of its results, and holds its unit (R240, R243). -/
theorem issues_of_registers {i : Instr} {body : Hd → Head} {s s1 : State} {q : Nat} {hs : Bool} {k : Task} {e : Entry} {r : List Entry}
    {vals : List CtqEntry} {v : Assoc VReg} {fl : BitVec 6} (hexec : ∀ s, exec i s = routed i q body s) (hmma : i.isMma = false)
    (h : AtHead i s q hs k e r vals s1)
    (hbody : body (seen i s s1 k hs e vals) = .done { s := s1.setTask s.cur (withV k v), flags := fl }) :
    Issues i s s1 q hs (withV k v) e r (held k e fl) := by
  have hi := h.instr
  have hset : (withV k v).set hs = k.set hs := by cases hs <;> rfl
  have hrun := headRun_body i body s s1 s.cur k hs q e vals h.operands h.fences h.loads h.format h.alone h.units h.count
    (fun hm => absurd hm (by simp [hmma]))
  have htask : (s1.setTask s.cur (withV k v)).task s.cur = withV k v := by simp
  rw [seen] at hbody
  rw [hbody] at hrun
  rw [Issues, hexec, routed_head i q q hs body s h.turn,
    headIssue_runs i body s q hs k e r vals h.task h.entry hi h.runs h.isOpen h.gate, hrun]
  simp only [issueHead_eq _ _ _ _ _ _ _ _ _ _ htask, setTask_setTask, rq_takeTokens, ctq_takeTokens, hset, h.entry, issuedSet, held,
    Eff.keeping, hi]
  rfl

/-! ### The bodies of the elementwise instructions -/

/-- Instruction i runs the elementwise shape with results op. -/
structure Elementwise (i : Instr) (f : V4) (body : Hd → Head) (op : Hd → Nat → Nat × BitVec 6) : Prop where
  exec : ∀ s, exec i s = routed i 1 body s
  body : ∀ x, body x = vecRun x f.vd f.ty.toNat (x.active f.pfx f.mask f.ty.toNat) (op x)
  notMma : i.isMma = false

/-- Results that the destination's elements cannot tell apart. -/
def SameLanes (T : Nat) (g h : Nat → Nat × BitVec 6) : Prop :=
  ∀ j, j < elems T → (g j).1 % 2 ^ width T = (h j).1 % 2 ^ width T ∧ (g j).2 = (h j).2

theorem SameLanes.refl (T : Nat) (g : Nat → Nat × BitVec 6) : SameLanes T g g := fun _ _ => ⟨rfl, rfl⟩

/-- The element type's width cuts the results of an instruction on raw bits. -/
theorem sameLanes_bits (T : Nat) (g : Nat → Nat) : SameLanes T (fun j => (g j % 2 ^ width T, 0)) (fun j => bitsOnly (g j)) :=
  fun _ _ => ⟨Nat.mod_mod .., rfl⟩

/-- A reduction computes once for each group what its elements take (R256). -/
theorem sameLanes_groups (f : V4) (x : Hd) (groups : Nat) (groupOf : Nat → Nat) (val : Nat → Machine.Num × BitVec 6)
    (hgroup : ∀ j, j < elems f.ty.toNat → groupOf j < groups) :
    SameLanes f.ty.toNat (fun j => rounded f x j (((tabulate val groups)[groupOf j]?).getD (.nan, 0)))
      (fun j => rounded f x j (val (groupOf j))) := by
  intro j hj
  simp [tabulate_getElem?, hgroup j hj]

/-- VIMIN and VIMAX choose by the order of the integers (R255). -/
theorem sameLanes_choice (T : Nat) (p : Nat → Prop) [DecidablePred p] (max : Bool) (a b : Nat → Nat) :
    SameLanes T (fun j => ((if (decide (p j) == max) = true then b j else a j) % 2 ^ width T, 0))
      (fun j => bitsOnly (if p j then (if max then b j else a j) else (if max then a j else b j))) := by
  intro j _
  refine ⟨?_, rfl⟩
  by_cases hp : p j <;> cases max <;> simp [hp, bitsOnly]

/-- A reduction is the elementwise shape with the results of its groups. -/
theorem redBody_eq (f : V4) (groups : Nat) (groupOf : Nat → Nat) (members : (Nat → Bool) → Nat → List Nat)
    (op : Mode → List Machine.Num → Machine.Num × BitVec 6) (x : Hd) :
    redBody f groups groupOf members op x =
      vecRun x f.vd f.ty.toNat (x.active f.pfx f.mask f.ty.toNat) fun j => rounded f x j (((tabulate (fun g => op (modeOf f.pfx)
        ((members (x.active f.pfx f.mask f.ty.toNat) g).map (num f x f.va))) groups)[groupOf j]?).getD (.nan, 0)) := rfl

/-- Each instruction of the table runs the elementwise shape, with the results that the table gives. -/
theorem isLane_elementwise {i : Instr} {f : V4} {res : Hd → Nat → Nat × BitVec 6} (h : IsLane i f res) :
    ∃ body op, Elementwise i f body op ∧ ∀ x, SameLanes f.ty.toNat (op x) (res x) := by
  cases h with
  | vadd | vsub | vmul | vfma | vfnma | vmin | vmax | vabs | vneg | vclamp | vrcp | vrsq | vexp2 | vlog2 | viadd | visub | vimul
  | vimad | vshuf | vrot | vtrn =>
    exact ⟨_, _, ⟨fun _ => rfl, fun _ => rfl, rfl⟩, fun x => .refl _ _⟩
  | vmov | vand | vor | vxor | vnot | vshl | vshr | vsar =>
    exact ⟨_, _, ⟨fun _ => rfl, fun _ => rfl, rfl⟩, fun x => sameLanes_bits _ _⟩
  | vimin => exact ⟨_, _, ⟨fun _ => rfl, fun _ => rfl, rfl⟩, fun x => sameLanes_choice _ _ false _ _⟩
  | vimax => exact ⟨_, _, ⟨fun _ => rfl, fun _ => rfl, rfl⟩, fun x => sameLanes_choice _ _ true _ _⟩
  | vrmax | vrmin | vrsum =>
    exact ⟨_, _, ⟨fun _ => rfl, fun x => redBody_eq f 32 _ _ _ x, rfl⟩, fun x => sameLanes_groups f x 32 _ _ fun _ => row_lt⟩
  | vcsum =>
    exact ⟨_, _, ⟨fun _ => rfl, fun x => redBody_eq f (perRow f.ty.toNat) _ _ _ x, rfl⟩,
      fun x => sameLanes_groups f x (perRow f.ty.toNat) _ _ fun _ _ => Nat.mod_lt _ (perRow_pos _)⟩

/-- Settles O24: each instruction is the elementwise shape with the results that `IsLane` gives it, and a head with that shape issues. -/
theorem vectorElements : Obligations.VectorElements := by
  intro i f res s s1 hs k e r vals hlane hhead x act
  obtain ⟨body, op, helem, hsame⟩ := isLane_elementwise hlane
  obtain ⟨v, hv⟩ := setElems_v k f.vd f.ty.toNat (laneTable f.ty.toNat act (op x))
  have hk2 : withV k v = k.setElems f.vd f.ty.toNat (laneTable f.ty.toNat act (op x)) := hv.symm
  refine ⟨v, tableFlags (laneTable f.ty.toNat act (op x)), issues_of_registers helem.exec helem.notMma hhead ?_, ?_, fun b => ?_⟩
  · rw [helem.body, vecRun_eq, hk2]; rfl
  · rw [hk2]
    refine ⟨fun n hn => setElems_other k _ _ hn, fun hreg j hj => ?_⟩
    rw [setElems_lane k _ act (op x) hreg hj, (hsame x j hj).1]
  · rw [laneTable_flags]
    exact exists_congr fun j => and_congr_right fun hj => by rw [(hsame x j hj).2]

end Sys2Proof.Claims
end

section
/-! SUPPORT. The band scale whose fraction has denominator 0, at which one block of VQNT does not set NV (O41). -/

namespace Sys2Proof.Claims
open Sys2Proof Sys2Proof.Machine

/-- A fraction over 0 is the rational number 0 (the quotient of the library), whatever its numerator. -/
theorem rat_over_zero (neg : Bool) (n : Nat) : rat (.fin neg n 0) = some 0 := by
  cases neg <;> simp [rat]

/-- A VQNT of f32 sources, with nothing in its registers. -/
def blankVqnt : V4 := { pfx := none, tok := 0, mask := 0, ty := 0, vd := 1, va := 0, vb := 2, vc := 3 }

/-- Its head, in a context at its start. -/
def blankHead : Hd :=
  { s := State.reset, t := 0, k := Task.empty, see := Task.empty, hs := false,
    e := { instr := .vqnt blankVqnt, pos := 0, pc := 0, h := Handle.invalid, xa := 0, xb := 0, seed := 0, popped := none },
    tk := { pfx := none, src := 0, own := 0 } }

/-- Block 0 with one active element, under the band scale 1 / 0: scale 0 and code +0, and no flag. -/
theorem quantBlock_one_over_zero :
    quantBlock blankHead blankVqnt (fun e => e == 0) (.fin false 1 0) 0 = some (0, [(0, (0, 0))]) := by
  decide +kernel

/-- Refutes O41: its clause on a band scale that is 0 asks for NV at every `band` with `rat band = some 0`, and `QuantizesBlock` lets `band`
be any exact value, `.fin false 1 0` among them: a fraction that no register pattern has, which `rat` reads as 0 and the model does not. -/
theorem not_conversions : ¬ Obligations.Conversions := by
  rintro ⟨-, -, hquant, -⟩
  obtain ⟨-, hzero, -⟩ := hquant blankHead blankVqnt (fun e => e == 0) (.fin false 1 0) 0
  have hnv := hzero (by decide) (.inr (rat_over_zero false 1)) (fun _ _ h => by cases h)
  rw [quantBlock_one_over_zero] at hnv
  exact absurd hnv (by decide)

end Sys2Proof.Claims
end

section
/-! SUPPORT. LAUNCH below the high-water mark: the record of the command builder, and the packet that the child pool takes (O16). -/

namespace Sys2Proof.Machine

/-! ### The doublewords of a record (R89, R135) -/

theorem valOf_lt (l : List W64) : valOf l < 2 ^ (64 * l.length) := by
  induction l with
  | nil => decide
  | cons w r ih =>
    have hw : w.toNat < 2 ^ 64 := w.isLt
    rw [valOf, List.length_cons, Nat.mul_succ, Nat.pow_add]
    omega

/-- Doubleword n of a list's value is entry n of the list, and 0 beyond its end. -/
theorem valOf_word (l : List W64) (n : Nat) : valOf l / 2 ^ (64 * n) % 2 ^ 64 = ((l[n]?).getD 0).toNat := by
  induction l generalizing n with
  | nil => simp [valOf]
  | cons w r ih =>
    have hw : w.toNat < 2 ^ 64 := w.isLt
    cases n with
    | zero =>
      have hhead : (w.toNat + 2 ^ 64 * valOf r) % 2 ^ 64 = w.toNat := by omega
      simpa [valOf] using hhead
    | succ n =>
      have htail : (w.toNat + 2 ^ 64 * valOf r) / 2 ^ 64 = valOf r := by omega
      rw [valOf, Nat.mul_succ, Nat.pow_add, Nat.mul_comm (2 ^ (64 * n)), ← Nat.div_div_eq_div_mul, htail, ih, List.getElem?_cons_succ]

/-- The record of a child holds the 16 doublewords of its parent's command builder as they stand (R97, R135). -/
theorem childOf_record_word (s : State) (t : Nat) (k : Task) {n : Nat} (hn : n < 16) :
    (s.childOf t k).record.toNat / 2 ^ (64 * n) % 2 ^ 64 = (k.rcb n).toNat := by
  have hfits := valOf_lt ((List.range 16).map k.rcb)
  rw [List.length_map, List.length_range, show 64 * 16 = 1024 from rfl] at hfits
  have hrec : (s.childOf t k).record.toNat = valOf ((List.range 16).map k.rcb) := toNat_ofNat_of_fits hfits
  rw [hrec, valOf_word, List.getElem?_map, List.getElem?_range hn]
  rfl

/-- What a child takes from its launching task's packet (R132). -/
theorem childOf_inherits (s : State) (t : Nat) (k : Task) :
    (s.childOf t k).func = (s.packet k.packet).func ∧ (s.childOf t k).asc = (s.packet k.packet).asc ∧
      (s.childOf t k).file = (s.packet k.packet).file ∧ (s.childOf t k).queue = (s.packet k.packet).queue := by
  simp only [State.childOf, and_self]

/-- A child runs at the priority of its record, and no higher than its parent's (R97). -/
theorem childOf_prio (s : State) (t : Nat) (k : Task) :
    (s.childOf t k).prio = min (bits (s.childOf t k).record.toNat 9 8) (s.packet k.packet).prio := by
  simp only [State.childOf]

/-- A child holds no reserve entry unless its placement gives it one (R130). -/
theorem childOf_unreserved (s : State) (t : Nat) (k : Task) : { s.childOf t k with reserve := false } = s.childOf t k := by
  simp only [State.childOf, Packet.empty]

/-! ### A packet that the pool takes (R129, R130) -/

section
variable (s : State) (d : Nat) (v : Pool)

@[simp] theorem setPool_tasks : (s.setPool d v).tasks = s.tasks := by unfold State.setPool; split <;> rfl

@[simp] theorem setPool_nextPacket : (s.setPool d v).lfe.nextPacket = s.lfe.nextPacket := by unfold State.setPool; split <;> rfl

end

section
variable (s : State) (p : Packet)

@[simp] theorem addPacket_tasks : (s.addPacket p).tasks = s.tasks := rfl

@[simp] theorem addPacket_nextPacket : (s.addPacket p).lfe.nextPacket = s.lfe.nextPacket + 1 := rfl

theorem addPacket_finds : find (s.addPacket p).lfe.packets s.lfe.nextPacket = some p := by
  simp [State.addPacket, State.setPacket]

end

section
variable (s : State) (t : Nat) (k : Task) (rsv : Bool)

@[simp] theorem placePool_tasks : (s.placePool t k rsv).tasks = s.tasks := by simp [State.placePool]

@[simp] theorem placePool_nextPacket : (s.placePool t k rsv).lfe.nextPacket = s.lfe.nextPacket + 1 := by simp [State.placePool]

theorem placePool_finds :
    find (s.placePool t k rsv).lfe.packets s.lfe.nextPacket = some { s.childOf t k with reserve := rsv } := by
  have hadd := addPacket_finds (s.setPool k.die { s.pool k.die with seq := (s.pool k.die).seq + 1 })
    { s.childOf t k with reserve := rsv }
  rwa [setPool_nextPacket] at hadd

theorem placePool_finds_child : find (s.placePool t k false).lfe.packets s.lfe.nextPacket = some (s.childOf t k) := by
  rw [placePool_finds, childOf_unreserved]

end

/-- The first row of R130: below the high-water mark, with nothing in the spill ring. -/
theorem place1_below_mark {s : State} {k : Task} (t : Nat) (hroom : s.poolOcc k.die < (s.pool k.die).hwm)
    (hring : (s.pool k.die).ring = []) : s.place1 t k = some ((s.placePool t k false).setTask t (k.adv 4)) := by
  simp [State.place1, hroom, hring]

end Sys2Proof.Machine

namespace Sys2Proof.Claims
open Sys2Proof Sys2Proof.Machine

/-- A LAUNCH with its accesses performed that does not wait yet is placed where the first row of R130 applies, and its task goes on. -/
theorem execLaunch_places {s : State} {k : Task} (h : Ready s k []) (hdone : performed k.slice = true)
    (hroom : s.poolOcc k.die < (s.pool k.die).hwm) (hring : (s.pool k.die).ring = [])
    (hwait : (s.pool k.die).waiting.contains (s.cur, k.pc) = false) :
    execLaunch s = .next ((s.placePool s.cur k false).setTask s.cur (k.adv 4)) := by
  refine onSlice_ready h ?_
  simp only [hdone, hwait, place1_below_mark s.cur hroom hring, Bool.not_true, Bool.or_self, Bool.false_eq_true, if_false,
    Option.getD_some]

/-- Settles O16: the pool takes the child at the next packet number, with the builder's doublewords as its record. -/
theorem launchMakesChild : Obligations.LaunchMakesChild := by
  intro s k hready hdone hroom hring hwait
  obtain ⟨hfunc, hasc, hfile, hqueue⟩ := childOf_inherits s s.cur k
  refine ⟨(s.placePool s.cur k false).setTask s.cur (go k 4), s.childOf s.cur k,
    execLaunch_places hready hdone hroom hring hwait, placePool_finds_child s s.cur k, placePool_nextPacket .., rfl, rfl, rfl, rfl,
    hfunc, hasc, hfile, hqueue, childOf_prio s s.cur k, fun n hn => childOf_record_word s s.cur k hn, ?tasks, ?mem⟩
  case tasks => exact congrArg (ins · s.cur (go k 4)) (placePool_tasks s s.cur k false)
  case mem => exact (placePool_mem s s.cur k false).1

end Sys2Proof.Claims
end

section
/-! SUPPORT. What the waking of waits leaves of the state, the record that BARO writes, and the flags of entries in flight (O14). -/

namespace Sys2Proof.Machine

/-- What each step of a loop keeps, the loop keeps. -/
theorem each_keeps {σ α β : Type} (g : σ → β) {f : α → σ → σ} (h : ∀ a s, g (f a s) = g s) (l : List α) (s : σ) :
    g (each f l s) = g s := by
  induction l generalizing s with
  | nil => rfl
  | cons a r ih => exact (ih _).trans (h a s)

/-! ### Counters (R115, R116, R118) -/

/-- The evaluation of a wait list changes packets and the order of completion at most. -/
theorem evalWait_eq (s : State) (id : Nat) :
    s.evalWait id = { s with lfe := { s.lfe with packets := (s.evalWait id).lfe.packets, order := (s.evalWait id).lfe.order } } := by
  unfold State.evalWait; dsimp only; (repeat' split) <;> rfl

@[simp] theorem evalWait_cur (s : State) (id : Nat) : (s.evalWait id).cur = s.cur := by rw [evalWait_eq]

@[simp] theorem evalWait_sems (s : State) (id : Nat) : (s.evalWait id).lfe.sems = s.lfe.sems := by rw [evalWait_eq]

@[simp] theorem wake_cur (s : State) (file n : Nat) : (s.wake file n).cur = s.cur :=
  each_keeps State.cur (fun id s => evalWait_cur s id) _ _

@[simp] theorem wake_sems (s : State) (file n : Nat) : (s.wake file n).lfe.sems = s.lfe.sems :=
  each_keeps (fun s => s.lfe.sems) (fun id s => evalWait_sems s id) _ _

theorem sem_count (s : State) (file n : Nat) (v : W32) : (s.count file n v).sem file n = v := by
  simp [State.count, State.sem, State.setSem]

/-- An aborted counter takes no signal (R116). -/
theorem signal_aborted {s : State} {file n : Nat} (d : Int) (who : Option Task) (h : (s.sem file n).toInt < 0) :
    s.signal file n d who = s := if_pos h

/-- A signal in range is counted (R116). -/
theorem signal_inRange {s : State} {file n : Nat} {d : Int} (who : Option Task) (h0 : 0 ≤ (s.sem file n).toInt)
    (hlo : 0 ≤ (s.sem file n).toInt + d) (hhi : (s.sem file n).toInt + d < 2 ^ 31) :
    s.signal file n d who = s.count file n (BitVec.ofInt 32 ((s.sem file n).toInt + d)) := by
  unfold State.signal
  dsimp only
  rw [if_neg (Int.not_lt.mpr h0), if_pos ⟨hlo, hhi⟩]

theorem note_cur (s : State) (kind code : Nat) (payload detail : W64) (who : Option Task) :
    (s.note kind code payload detail who).cur = s.cur := by rw [note_hif]

theorem count_cur (s : State) (file n : Nat) (v : W32) : (s.count file n v).cur = s.cur := wake_cur ..

theorem signal_cur (s : State) (file n : Nat) (d : Int) (who : Option Task) : (s.signal file n d who).cur = s.cur := by
  unfold State.signal; dsimp only; (repeat' split) <;> simp [count_cur, note_cur]

/-! ### The record of a task in the barograph (R380, R382) -/

/-- A record later than the one in the slot before it stays where it is written (R382). -/
theorem sortNotes_of_time {l : Assoc (BitVec 256)} {p : Nat} (n : Nat)
    (h : recTime (get 0 l ((p + 16383) % 16384)) ≠ recTime (get 0 l p)) : sortNotes n p l = l := by
  cases n with
  | zero => rfl
  | succ n => exact if_neg fun hsame => h hsame.1

theorem whoBits_fits (s : State) (k : Task) : whoBits s (some k) + 2 ^ 80 ≤ 2 ^ 108 := by
  simp only [whoBits]
  omega

/-- The 256 bits of a record of KIND kind, with its DETAIL field zero. -/
def taskRecord (s : State) (kind code : Nat) (payload : W64) (k : Task) : BitVec 256 :=
  BitVec.ofNat 256 (s.time % 2 ^ 64 * 2 ^ 192 + payload.toNat * 2 ^ 128 + kind * 2 ^ 120 + code % 4096 * 2 ^ 108 +
    whoBits s (some k) + s.hif.baro.total.toNat % 65536 * 2 ^ 64)

section
variable (s : State) {kind code : Nat} (payload : W64) (k : Task)

theorem taskRecord_toNat (hkind : kind < 2 ^ 8) :
    (taskRecord s kind code payload k).toNat = s.time % 2 ^ 64 * 2 ^ 192 + payload.toNat * 2 ^ 128 + kind * 2 ^ 120 +
      code % 4096 * 2 ^ 108 + whoBits s (some k) + s.hif.baro.total.toNat % 65536 * 2 ^ 64 := by
  have hwho := whoBits_fits s k
  have hpay := payload.isLt
  exact toNat_ofNat_of_fits (by omega)

theorem taskRecord_time (hkind : kind < 2 ^ 8) : (taskRecord s kind code payload k).toNat / 2 ^ 192 = s.time % 2 ^ 64 := by
  have hwho := whoBits_fits s k
  have hpay := payload.isLt
  rw [taskRecord_toNat s payload k hkind]
  omega

theorem taskRecord_payload (hkind : kind < 2 ^ 8) : (taskRecord s kind code payload k).toNat / 2 ^ 128 % 2 ^ 64 = payload.toNat := by
  have hwho := whoBits_fits s k
  have hpay := payload.isLt
  rw [taskRecord_toNat s payload k hkind]
  omega

theorem taskRecord_kind_code (hkind : kind < 2 ^ 8) (hcode : code < 2 ^ 12) :
    (taskRecord s kind code payload k).toNat / 2 ^ 108 % 2 ^ 20 = kind * 2 ^ 12 + code := by
  have hwho := whoBits_fits s k
  rw [taskRecord_toNat s payload k hkind]
  omega

end

theorem recTime_eq (r : BitVec 256) : recTime r = r.toNat / 2 ^ 192 := by
  have hr := r.isLt
  simp only [recTime, bits]
  omega

end Sys2Proof.Machine

namespace Sys2Proof.Claims
open Sys2Proof Sys2Proof.Machine

section
variable {s : State} {k : Task}

/-! ### SEMS -/

/-- SEMS, its accesses performed, signals its counter and goes on with the value read (R133). -/
theorem execSems_signals {d a : Reg} {n : BitVec 8} (h : Ready s k [d, a]) (hdone : performed k.slice = true)
    (hdie : s.underReset (fileDie (s.fileOf k)) = false) (hlo : -2 ^ 31 ≤ (k.rx a).toInt) (hhi : (k.rx a).toInt ≤ 2 ^ 31 - 1) :
    exec (.sems d a n) s = .next ((s.signal (s.fileOf k) n.toNat (k.rx a).toInt (some k)).setTask s.cur
      (go (k.wx d ((s.sem (s.fileOf k) n.toNat).signExtend 64)) 4)) := by
  refine onSlice_ready h ?_
  dsimp only
  rw [if_neg (by omega), if_neg (by simp [hdie]), if_neg (by simp [hdone])]
  simp only [State.now, signal_cur]
  rfl

theorem semsSignals : SemsSignals := by
  intro s k d a n hready hdone hdie hlo hhi
  refine ⟨_, execSems_signals hready hdone hdie hlo hhi, ?task, ?aborted, ?sum, ?mem⟩
  case task => simp
  case aborted =>
    intro hneg
    rw [signal_aborted _ _ hneg]
    rfl
  case sum =>
    intro h0 hlow hhigh
    rw [signal_inRange _ h0 hlow hhigh]
    exact sem_count ..
  case mem => exact byte_congr _ _ (signal_mem ..).1

/-! ### BARO -/

/-- What a task writes goes through the order of its cycle (R382). -/
theorem note_writes (s : State) {kind code : Nat} (payload : W64) (k : Task) (hfrozen : s.hif.baro.frozen = false) :
    s.note kind code payload 0 (some k) = { s with hif := { s.hif with baro := { s.hif.baro with
      ring := sortNotes 16383 s.hif.baro.head (put 0 s.hif.baro.ring s.hif.baro.head (taskRecord s kind code payload k)),
      total := s.hif.baro.total + 1, head := (s.hif.baro.head + 1) % 16384 } } } := by
  simp [State.note, taskRecord, hfrozen]

/-- The first record of a cycle is written at the head of the ring (R379, R382). -/
theorem note_first {kind code : Nat} (payload : W64) (hfirst : firstOfCycle s) (hkind : kind < 2 ^ 8) :
    s.note kind code payload 0 (some k) = { s with hif := { s.hif with baro := { s.hif.baro with
      ring := put 0 s.hif.baro.ring s.hif.baro.head (taskRecord s kind code payload k),
      total := s.hif.baro.total + 1, head := (s.hif.baro.head + 1) % 16384 } } } := by
  obtain ⟨hfrozen, htime⟩ := hfirst
  have hslot : (s.hif.baro.head + 16383) % 16384 ≠ s.hif.baro.head := by omega
  have hstays : sortNotes 16383 s.hif.baro.head (put 0 s.hif.baro.ring s.hif.baro.head (taskRecord s kind code payload k)) =
      put 0 s.hif.baro.ring s.hif.baro.head (taskRecord s kind code payload k) := by
    refine sortNotes_of_time 16383 ?_
    simpa only [get_put, hslot, if_true, if_false, recTime_eq, taskRecord_time s payload k hkind] using htime
  rw [note_writes s payload k hfrozen, hstays]

/-- A context whose last record is 256 cycles old writes the next one (R376). -/
theorem baroNext_due (h : ∀ t, get 0 (s.core k.coreKey).baroAt k.ctx = t + 1 → t + 256 ≤ s.time) : s.baroNext k ≤ s.time + 1 := by
  unfold State.baroNext
  split
  · omega
  · next t ht => have := h t ht; omega

theorem execBaro_frozen {a : Reg} {n : BitVec 12} (h : Ready s k [a]) (hfrozen : s.hif.baro.frozen = true) :
    exec (.baro a n) s = .next (upd s (go k 4)) := by
  refine onSlice_ready h ?_
  rw [if_pos hfrozen]
  rfl

theorem execBaro_writes {a : Reg} {n : BitVec 12} (h : Ready s k [a]) (hrun : s.hif.baro.frozen = false)
    (hdue : s.baroNext k ≤ s.time + 1) :
    exec (.baro a n) s = .next (((s.note 0x10 n.toNat (k.rx a) 0 (some k)).wroteBaro k).now (go k 4)) := by
  refine onSlice_ready h ?_
  rw [if_neg (by simp [hrun]), if_neg (by simp [hdue])]
  rfl

theorem baroRecords : BaroRecords := by
  intro s k a n hready
  refine ⟨execBaro_frozen hready, fun hfirst hdue => ?_⟩
  refine ⟨_, execBaro_writes hready hfirst.1 (baroNext_due hdue), ?_⟩
  rw [note_first _ hfirst (by decide)]
  refine ⟨rfl, ?stamp, ?cores, rfl, rfl, rfl, ?code, ?payload⟩
  case stamp => simp [State.wroteBaro, State.now, State.core, State.setCore, State.setTask]
  case cores =>
    intro c
    simp only [State.wroteBaro, State.now, core_setTask, core_setCore]
    split
    · next hc => subst hc; rfl
    · rfl
  case code => simpa [State.wroteBaro, State.now] using taskRecord_kind_code s (k.rx a) k (by decide) n.isLt
  case payload => simpa [State.wroteBaro, State.now] using taskRecord_payload s (k.rx a) k (by decide)

/-! ### SRD of sys.fflags -/

/-- A flag of a subset of the entries is a flag of one of them. -/
theorem flagsOf_bit {l : List Issued} {pick b : Nat} (h : (flagsOf l pick).getLsbD b = true) : ∃ e ∈ l, e.flags.getLsbD b = true := by
  induction l generalizing pick with
  | nil => simp [flagsOf] at h
  | cons i r ih =>
    rw [flagsOf, BitVec.getLsbD_or, Bool.or_eq_true] at h
    rcases h with hhead | hrest
    · split at hhead
      · exact ⟨i, List.mem_cons_self, hhead⟩
      · simp at hhead
    · obtain ⟨e, he, hbit⟩ := ih hrest
      exact ⟨e, List.mem_cons_of_mem _ he, hbit⟩

theorem execSrd_inFlight {d : Reg} (h : Ready s k [d]) (hfl : k.ord.inFlight ++ k.hnd.inFlight ≠ []) :
    exec (.srd d 0) s = .next { upd s (go (k.wx d
      ((k.fflags ||| flagsOf (k.ord.inFlight ++ k.hnd.inFlight) (Config.free s.tick)).setWidth 64)) 4) with tick := s.tick + 1 } := by
  obtain ⟨hk, hz⟩ := h
  have hne : (k.ord.inFlight ++ k.hnd.inFlight).isEmpty = false := by simpa using hfl
  show execSrd d 0 s = _
  simp only [execSrd, hk, hz, hne, sysNamed]
  rfl

theorem flagsInFlight : FlagsInFlight := fun _ _ _ hready hfl =>
  ⟨_, execSrd_inFlight hready hfl, fun _ hbit => flagsOf_bit hbit⟩

end

/-- Settles O14: SEMS signals through `State.signal`, BARO writes at the head of the ring, and SRD reads the flags of a drawn subset. -/
theorem signalsAndRecords : Obligations.SignalsAndRecords := ⟨semsSignals, baroRecords, flagsInFlight⟩

end Sys2Proof.Claims
end

section
/-! SUPPORT. The front end (O44): what an arrival at a site may change, the bytes that a reader has read apart, the records of a queue, and
the head of a queue. -/

namespace Sys2Proof.Machine

/-- What each step of a loop preserves, the loop preserves. -/
theorem each_inv {σ α : Type} {P : σ → Prop} {f : α → σ → σ} (h : ∀ a s, P s → P (f a s)) (l : List α) {s : σ} (hs : P s) :
    P (each f l s) := by
  induction l generalizing s with
  | nil => exact hs
  | cons a r ih => exact ih (h a s hs)

theorem each_append {σ α : Type} (f : α → σ → σ) (l m : List α) (s : σ) : each f (l ++ m) s = each f m (each f l s) := by
  induction l generalizing s with
  | nil => rfl
  | cons a r ih => exact ih _

/-- A site number above 7 names site 7, as 7 does. -/
theorem site_min (s : State) (n : Nat) : s.site n = s.site (min n 7) := by
  rcases Nat.lt_or_ge 7 n with h | h
  · obtain ⟨m, rfl⟩ : ∃ m, n = m + 8 := ⟨n - 8, by omega⟩
    rw [show min (m + 8) 7 = 7 by omega]
    rfl
  · rw [Nat.min_eq_left h]

end Sys2Proof.Machine

namespace Sys2Proof.Claims
open Sys2Proof Sys2Proof.Machine

/-! ### Arrivals at a site (R186) -/

theorem sampled_refl (s : State) : sampled s s := ⟨rfl, fun _ => rfl⟩

theorem sampled_trans {s t u : State} (h : sampled s t) (h' : sampled t u) : sampled s u := by
  refine ⟨?_, fun n => ?_⟩
  · rw [h'.1, h.1]
  · have hn := h.2 n
    have hn' := h'.2 n
    rw [← hn, ← hn']

theorem sampled_lfe {s t : State} (h : sampled s t) : t.lfe = s.lfe := by rw [h.1]

/-- A packet written before or after the arrivals. -/
theorem sampled_setPacket {s t : State} (n : Nat) (v : Packet) (h : sampled s t) : sampled (s.setPacket n v) (t.setPacket n v) :=
  ⟨by rw [h.1]; rfl, h.2⟩

theorem sampled_setSite (s : State) (n : Nat) (a : Nat) (b : Assoc Byte) :
    sampled s (s.setSite n { s.site n with sampled := a, shadow := b }) := by
  rcases Nat.lt_or_ge 7 n with h | h
  · obtain ⟨m, rfl⟩ : ∃ m, n = m + 8 := ⟨n - 8, by omega⟩
    exact sampled_refl s
  · refine ⟨by unfold State.setSite; split <;> rfl, fun m => ?_⟩
    rw [site_min _ m, site_min s m, site_setSite _ _ _ _ h (Nat.min_le_right ..)]
    split
    · next hm => rw [hm]
    · rfl

theorem sampled_warm (s : State) (a n : Nat) : sampled s (s.warm a n) := by
  unfold State.warm
  split
  · exact sampled_refl s
  · split
    · exact sampled_refl s
    · exact sampled_setSite s _ (s.site _).sampled _

theorem sampled_arrive (s : State) (a : Nat) : sampled s (s.arrive a) := by
  unfold State.arrive
  split
  · exact sampled_refl s
  · dsimp only
    split
    · exact sampled_setSite s _ _ (s.site _).shadow
    · exact sampled_trans (sampled_setSite s _ _ (s.site _).shadow) (sampled_warm ..)

theorem sampled_each {α : Type} {f : α → State → State} (h : ∀ a s, sampled s (f a s)) (l : List α) (s : State) :
    sampled s (each f l s) :=
  each_inv (P := sampled s) (fun a t ht => sampled_trans ht (h a t)) l (sampled_refl s)

theorem sampled_walked (s : State) (asc va : Nat) : sampled s (s.walked asc va) := by
  unfold State.walked
  split
  · exact sampled_refl s
  · split
    · exact sampled_refl s
    · exact sampled_each (fun a s => sampled_arrive s a) _ s

theorem sampled_chunksArrived (s : State) (asc va n : Nat) : sampled s (s.chunksArrived asc va n) :=
  sampled_each (fun i s => by
    dsimp only
    split
    · exact sampled_trans (sampled_walked ..) (sampled_arrive ..)
    · exact sampled_walked ..) _ s

/-! ### Bytes that a reader has read apart (R329) -/

/-- A byte that has been read apart, put back as it was read. -/
def putBack (e : LfeRead × Nat × Byte × Bool) (s : State) : State :=
  { s with mem := put unlisted s.mem e.2.1 e.2.2.1, poison := put false s.poison e.2.1 e.2.2.2 }

theorem seenBy_eq (s : State) (r : LfeRead) : s.seenBy r = each putBack (s.lfe.early.filter fun e => e.1 == r) s := rfl

theorem seenBy_lfe (s : State) (r : LfeRead) : (s.seenBy r).lfe = s.lfe := each_keeps State.lfe (f := putBack) (fun _ _ => rfl) _ s

/-- What stands in memory at address a: the byte, and whether it is poisoned. -/
def standsAt (a : Nat) (s : State) : Byte × Bool := (get unlisted s.mem a, get false s.poison a)

theorem byte_bad_of_standsAt {s : State} {a : Nat} {x : Byte × Bool} (ha : mapped a = true) (h : standsAt a s = x) :
    s.byte a = x.1 ∧ s.bad a = x.2 := by
  subst h
  simp [State.byte, State.bad, ha, standsAt]

theorem standsAt_putBack (a : Nat) (e : LfeRead × Nat × Byte × Bool) (s : State) :
    standsAt a (putBack e s) = if e.2.1 = a then e.2.2 else standsAt a s := by
  simp only [standsAt, putBack, get_put, eq_comm (a := a)]
  split <;> rfl

/-- Bytes read apart elsewhere do not show at address a. -/
theorem standsAt_putBack_other {a : Nat} {l : List (LfeRead × Nat × Byte × Bool)} (h : ∀ e ∈ l, e.2.1 ≠ a) (s : State) :
    standsAt a (each putBack l s) = standsAt a s := by
  induction l generalizing s with
  | nil => rfl
  | cons e r ih =>
    rw [each, ih (fun e he => h e (List.mem_cons_of_mem _ he)), standsAt_putBack, if_neg (h e List.mem_cons_self)]

theorem standsAt_seenBy_other {s : State} {r : LfeRead} {a : Nat} (h : ∀ e ∈ s.lfe.early, e.1 = r → e.2.1 ≠ a) :
    standsAt a (s.seenBy r) = standsAt a s := by
  refine standsAt_putBack_other (fun e he => ?_) s
  obtain ⟨hmem, hr⟩ := List.mem_filter.mp he
  exact h e hmem (eq_of_beq hr)

/-- Of several bytes read apart at one address the last shows. -/
theorem standsAt_seenBy_last {s : State} {r : LfeRead} {a : Nat} {v : Byte} {p : Bool} {l m : List (LfeRead × Nat × Byte × Bool)}
    (hearly : s.lfe.early = l ++ (r, a, v, p) :: m) (hlast : ∀ e ∈ m, e.1 = r → e.2.1 ≠ a) : standsAt a (s.seenBy r) = (v, p) := by
  have hm : ∀ e ∈ m.filter fun e => e.1 == r, e.2.1 ≠ a := fun e he =>
    hlast e (List.mem_filter.mp he).1 (eq_of_beq (List.mem_filter.mp he).2)
  rw [seenBy_eq, hearly, List.filter_append, List.filter_cons_of_pos (by simp), each_append, each, standsAt_putBack_other hm,
    standsAt_putBack, if_pos rfl]

theorem earlyBytes : EarlyBytes := fun _ _ _ ha =>
  ⟨fun hother => byte_bad_of_standsAt ha (standsAt_seenBy_other hother) |>.imp (·.trans (byte_bad_of_standsAt ha rfl).1.symm)
      (·.trans (byte_bad_of_standsAt ha rfl).2.symm),
    fun _ _ _ _ hearly hlast => byte_bad_of_standsAt ha (standsAt_seenBy_last hearly hlast)⟩

theorem readDone_eq (s : State) (r : LfeRead) : s.readDone r = readOver s r := by
  simp only [State.readDone, readOver, bne, ne_eq, decide_not]
  rfl

/-! ### Reading the records of a queue (R111, R329) -/

section
variable {s : State} {q : Nat}

theorem readsRecord_of {qu : Queue} (hq : s.queue q = qu) (hen : qu.en = true) (hnot : qu.readIdx < qu.notified)
    (hfew : (s.packetsWith fun p => !p.child && p.queue == q && p.undispatched).length < 4) : s.readsRecord q = true := by
  subst hq
  simp [State.readsRecord, hen, hnot, hfew]

/-- A record that enters the front end is the one that ring memory holds for its reader. -/
theorem ringPacket_eq (u : State) (q i : Nat) :
    u.ringPacket q i = hostPacket (u.queue q) q i (u.badIn (u.recordAt q i) 128)
      (if u.badIn (u.recordAt q i) 128 then 0 else BitVec.ofNat 1024 (u.word (u.recordAt q i) 128)) := rfl

theorem execRecordRead_enters (hreads : s.readsRecord q = true) (hskip : (s.queue q).readIdx ∉ (s.queue q).skips)
    (hheld : s.held (s.recordAt q (s.queue q).readIdx) 128 = false) :
    exec (.recordRead q) s = .next ((((s.readDone (.record q)).addPacket
      ((s.seenBy (.record q)).ringPacket q (s.queue q).readIdx)).setQueue q
        { s.queue q with readIdx := (s.queue q).readIdx + 1 }).arrive (s.recordAt q (s.queue q).readIdx)) := by
  show execRecordRead q s = _
  simp [execRecordRead, hreads, hskip, hheld]

theorem execRecordRead_passes (hreads : s.readsRecord q = true) (hskip : (s.queue q).readIdx ∈ (s.queue q).skips) :
    exec (.recordRead q) s = .next ((s.readDone (.record q)).setQueue q { s.queue q with
      readIdx := (s.queue q).readIdx + 1, skips := (s.queue q).skips.filter fun i => i != (s.queue q).readIdx }) := by
  show execRecordRead q s = _
  simp [execRecordRead, hreads, hskip]

end

/-! ### Parts of a read (R329) -/

theorem getElem?_addrs (a n i : Nat) : (addrs a n)[i]? = if i < n then some (a + i) else none := by
  induction n generalizing a i with
  | zero => rfl
  | succ n ih =>
    cases i with
    | zero => rfl
    | succ i => rw [addrs, List.getElem?_cons_succ, ih]; simp [Nat.add_assoc, Nat.add_comm 1]

theorem mem_addrs {a n x : Nat} : x ∈ addrs a n ↔ ∃ j, j < n ∧ a + j = x := by
  simp [List.mem_iff_getElem?, getElem?_addrs]

/-- Of bytes read in order from a up, the bits of which number the bytes. -/
theorem whichItem_addrs (which a n : Nat) {j : Nat} (hj : j < n) :
    whichItem false 1 which (addrs a n) (a + j) = true ↔ which = 0 ∨ which.testBit j = true := by
  by_cases h0 : which = 0
  · simp [whichItem, h0]
  · simp only [whichItem, h0, beq_iff_eq, Bool.or_eq_true, Bool.false_eq_true, or_self, if_false, false_or, List.contains_iff_mem,
      List.mem_eraseDups, List.mem_map, List.mem_filter, Nat.div_one]
    constructor
    · rintro ⟨⟨x, i⟩, ⟨hmem, hbit⟩, hx⟩
      rw [List.mem_zipIdx_iff_getElem?, getElem?_addrs] at hmem
      split at hmem
      · obtain rfl : i = j := by simp at hmem; omega
        exact hbit
      · simp at hmem
    · exact fun hbit => ⟨(a + j, j), ⟨List.mem_zipIdx_iff_getElem?.mpr (by simp [getElem?_addrs, hj]), hbit⟩, rfl⟩

/-- The bytes that a part of a read takes, where the reader has read none apart and no page is held. -/
theorem readEarly_whole {s : State} {r : LfeRead} {a n : Nat} (which : Nat) (hnone : whole s r)
    (hfree : ∀ j, j < n → s.heldAt (a + j) = false) :
    s.readEarly r which (addrs a n) = { s with lfe := { s.lfe with early := s.lfe.early ++
      ((addrs a n).filter (whichItem false 1 which (addrs a n))).map fun x => (r, x, s.byte x, s.bad x) } } := by
  have hnew : ((addrs a n).filter fun x => whichItem false 1 which (addrs a n) x &&
      !s.lfe.early.any fun e => e.1 == r && e.2.1 == x) = (addrs a n).filter (whichItem false 1 which (addrs a n)) := by
    refine List.filter_congr fun x _ => ?_
    have hany : (s.lfe.early.any fun e => e.1 == r && e.2.1 == x) = false :=
      List.any_eq_false.mpr fun e he => by simp [hnone e he]
    rw [hany, Bool.not_false, Bool.and_true]
  have hheld : ((addrs a n).filter (whichItem false 1 which (addrs a n))).any s.heldAt = false := by
    refine List.any_eq_false.mpr fun x hx => ?_
    obtain ⟨j, hj, rfl⟩ := mem_addrs.mp (List.mem_filter.mp hx).1
    rw [hfree j hj]
    decide
  simp only [State.readEarly, hnew, hheld, Bool.false_eq_true, if_false]

theorem mem_partRead {s : State} {r : LfeRead} {which a n : Nat} {e : LfeRead × Nat × Byte × Bool} :
    (e ∈ ((addrs a n).filter (whichItem false 1 which (addrs a n))).map fun x => (r, x, s.byte x, s.bad x)) ↔
      ∃ j, j < n ∧ (which = 0 ∨ which.testBit j = true) ∧ e = (r, a + j, s.byte (a + j), s.bad (a + j)) := by
  rw [List.mem_map]
  constructor
  · rintro ⟨x, hx, rfl⟩
    obtain ⟨hmem, hsel⟩ := List.mem_filter.mp hx
    obtain ⟨j, hj, rfl⟩ := mem_addrs.mp hmem
    exact ⟨j, hj, (whichItem_addrs which a n hj).mp hsel, rfl⟩
  · rintro ⟨j, hj, hsel, rfl⟩
    exact ⟨a + j, List.mem_filter.mpr ⟨mem_addrs.mpr ⟨j, hj, rfl⟩, (whichItem_addrs which a n hj).mpr hsel⟩, rfl⟩

theorem recordPart_eq {s : State} {q : Nat} (which : Nat) (hreads : s.readsRecord q = true)
    (hskip : (s.queue q).readIdx ∉ (s.queue q).skips) :
    exec (.accessPerformed q n ⟨5, which⟩) s = .next (s.readEarly (.record q) which (addrs (s.recordAt q (s.queue q).readIdx) 128)) := by
  show Host.Outcome.next (s.recordPart q which) = _
  simp [State.recordPart, hreads, hskip]

end Sys2Proof.Claims
end

section
/-! SUPPORT. The front end (O44), continued: the refill of a child pool, the head of a queue, the checks, and dispatch. -/

namespace Sys2Proof.Machine

/-! ### The end of a packet (R113) -/

/-- The lowest status is the only one there is. -/
theorem mergeStatus_zero (n : Nat) : mergeStatus 0 n = n := if_pos rfl

theorem finish_eq {s : State} {id : Nat} {p : Packet} (n : Nat) (hp : s.packet id = p) :
    s.finish id n = { s with lfe := { s.lfe with
      packets := ins s.lfe.packets id { p with phase := .completing, status := mergeStatus p.status n, order := s.lfe.order }
      order := s.lfe.order + 1 } } := by
  subst hp
  rfl

theorem packet_finish {s : State} {id : Nat} {p : Packet} (n : Nat) (hp : s.packet id = p) :
    (s.finish id n).packet id = { p with phase := .completing, status := mergeStatus p.status n, order := s.lfe.order } := by
  rw [finish_eq n hp]
  simp [State.packet]

theorem packet_of_find {s : State} {id : Nat} {p : Packet} (h : find s.lfe.packets id = some p) : s.packet id = p := by
  simp [State.packet, h]

theorem packet_setPacket_same (s : State) (id : Nat) (p : Packet) : (s.setPacket id p).packet id = p := by
  rw [packet_setPacket, if_pos rfl]

/-! ### Wait lists (R118) -/

section
variable {s : State} {id : Nat} {p : Packet}

theorem evalWait_aborts (hp : s.packet id = p) (hw : p.phase = .waiting) (hab : ∃ e ∈ p.waits, (s.sem p.file e.2).toInt < 0) :
    s.evalWait id = s.finish id 2 := by
  obtain ⟨e, he, hneg⟩ := hab
  have hany : (p.waits.any fun e => decide ((s.sem p.file e.2).toInt < 0)) = true := List.any_eq_true.mpr ⟨e, he, by simpa using hneg⟩
  simp [State.evalWait, hp, hw, hany]

/-- Without an aborted counter the packet passes its wait list, or waits on. -/
theorem evalWait_counts (hp : s.packet id = p) (hw : p.phase = .waiting) (hab : ∀ e ∈ p.waits, 0 ≤ (s.sem p.file e.2).toInt) :
    s.evalWait id =
      if p.waits.all fun e => decide ((s.sem p.file e.2).toInt ≤ e.1) then s.setPacket id { p with phase := .passed } else s := by
  have hany : (p.waits.any fun e => decide ((s.sem p.file e.2).toInt < 0)) = false :=
    List.any_eq_false.mpr fun e he => by simpa using hab e he
  subst hp
  simp [State.evalWait, hw, hany]

end

/-! ### LAUNCHes that wait (R130) -/

theorem retryLaunches_none {s : State} {d : Nat} (h : (s.pool d).waiting = []) : s.retryLaunches d = s := by
  simp [State.retryLaunches, h, each]

theorem pool_setPool (s : State) (d : Nat) (v : Pool) : (s.setPool d v).pool d = v := by
  unfold State.setPool State.pool
  split <;> rfl

/-! ### Selection among one packet (R145) -/

/-- Turns of one function lead to that function. -/
theorem drr_one (weight cost key : Nat → Nat) (n f : Nat) (dl : Assoc Nat) : (drr weight cost key [f] n f dl).1 = f := by
  induction n generalizing dl with
  | zero => rfl
  | succ n ih =>
    rw [drr]
    split
    · rfl
    · simpa [nextFn] using ih _

theorem contains_one (f g : Nat) : (if [f].contains g then g else f) = f := by
  split <;> simp_all

/-- The state with the pointers and deficits that a selection leaves. -/
def State.selected (s : State) (ptr dl : Assoc Nat) : State := { s with lfe := { s.lfe with ptr := ptr, deficit := dl } }

theorem select_one (s : State) (kind d id : Nat) (p : Packet) :
    ∃ ptr dl, s.select kind d [(id, p)] = some (id, s.selected ptr dl) := by
  simp only [State.select, List.foldl_cons, List.foldl_nil, Nat.zero_max, List.filter_cons, beq_self_eq_true, if_true, List.filter_nil,
    List.map_cons, List.map_nil, sortNat, insNat, List.headD_cons, contains_one, drr_one, firstOf]
  exact ⟨_, _, rfl⟩

theorem pool_congr {s t : State} (h : t.lfe = s.lfe) (d : Nat) : t.pool d = s.pool d := by
  simp only [State.pool, h]

/-! ### Dispatch (R117, R122, R137) -/

/-- The first range of a packet that names no gang is that of R137. -/
theorem split_eq {p : Packet} (hc : p.cluster = false) : p.split = Claims.firstOfCD1 p := by
  unfold Packet.split Claims.firstOfCD1
  cases p.levels.find? fun l => l.mark == 3 with
  | none => simp [Packet.entries, hc]
  | some l => simp [hc]

theorem splitOf_eq (s : State) {p : Packet} (hc : p.cluster = false) :
    s.splitOf p = if s.underReset 0 then 0 else if s.underReset 1 then p.tickets else Claims.firstOfCD1 p := by
  simp [State.splitOf, split_eq hc, Packet.entries, hc]

section
variable {s : State} {id : Nat} {p : Packet}

/-- A loop-mode packet with tickets is dispatched: they lie in the counters of the dies. -/
theorem open_tickets (hp : s.packet id = p) (hslot : s.slotStands p = true) (ht : p.table = false) (hc : p.cluster = false)
    (hn : p.tickets ≠ 0) :
    s.open id = { s with lfe := { s.lfe with
      packets := ins s.lfe.packets id (Claims.opened p s.lfe.order (s.underReset 0) (s.underReset 1)), order := s.lfe.order + 1 } } := by
  subst hp
  simp only [State.open, hslot, ht, hn, splitOf_eq s hc, Packet.entries, hc]
  rfl

/-- One without tickets completes at once (R122). -/
theorem open_empty (hp : s.packet id = p) (hslot : s.slotStands p = true) (ht : p.table = false) (hn : p.tickets = 0) :
    s.open id = (({ s with lfe := { s.lfe with order := s.lfe.order + 1 } }).setPacket id
      { p with phase := .dispatched, reserve := false, order := s.lfe.order }).finish id 0 := by
  subst hp
  simp only [State.open, hslot, ht, hn]
  rfl

end

/-- The dispatch of a packet leaves the child pools as they are. -/
theorem pool_open (s : State) (id d : Nat) : (s.open id).pool d = s.pool d := by
  unfold State.open
  dsimp only
  (repeat' split) <;> rfl

theorem trim_eq (s : State) : s.trim = { s with lfe := { s.lfe with deficit := s.trim.lfe.deficit } } := rfl

/-- DISPATCH where its packet alone waits for dispatch on its die, and no LAUNCH for a place. -/
theorem execDispatch_one {s : State} {p : Packet} (hp : s.packet s.cur = p)
    (hone : s.packetsWith (s.mayDispatch p.home) = [(s.cur, p)])
    (hwait : p.child = false ∨ (s.pool p.home).waiting = []) :
    ∃ ptr dl, exec .dispatch s = .next ((s.selected ptr dl).open s.cur).trim := by
  obtain ⟨ptr, dl, hsel⟩ := select_one s 1 p.home s.cur p
  refine ⟨ptr, dl, ?_⟩
  have hrun : exec .dispatch s = .next (if (s.packet s.cur).child then
      (((s.selected ptr dl).open s.cur).trim).retryLaunches p.home
      else ((s.selected ptr dl).open s.cur).trim) := by
    subst hp
    show execDispatch s = _
    simp [execDispatch, hone, hsel]
  rw [hrun, hp]
  rcases hwait with hchild | hnone
  · rw [hchild]
    rfl
  · rw [retryLaunches_none, ite_self]
    exact (congrArg Pool.waiting (pool_open ..)).trans hnone

end Sys2Proof.Machine

namespace Sys2Proof.Claims
open Sys2Proof Sys2Proof.Machine

/-! ### The child pool (R130, R418) -/

theorem execChildPoolRefill_moves {s : State} {d id : Nat} {r : List Nat} {p : Packet} (hring : (s.pool d).ring = id :: r)
    (hocc : s.poolOcc d < 3584) (hp : find s.lfe.packets id = some p) (hphase : p.phase = .spilled) (hwait : (s.pool d).waiting = [])
    (hheld : s.held ((s.pool d).slotAddr (s.pool d).spillHead) 128 = false)
    (hlate : s.lateIn ((s.pool d).slotAddr (s.pool d).spillHead) 128 = false)
    (hbad : s.badIn ((s.pool d).slotAddr (s.pool d).spillHead) 128 = false) :
    exec (.childPoolRefill d) s = .next (((s.setPool d { s.pool d with ring := r, spillHead := (s.pool d).spillHead + 1 }).arrive
      ((s.pool d).slotAddr (s.pool d).spillHead)).setPacket id { p with
        phase := .held, poisoned := false, record := BitVec.ofNat 1024 (s.word ((s.pool d).slotAddr (s.pool d).spillHead) 128) }) := by
  have hnone : ∀ v : Packet, ((((s.setPool d { s.pool d with ring := r, spillHead := (s.pool d).spillHead + 1 }).arrive
      ((s.pool d).slotAddr (s.pool d).spillHead)).setPacket id v).pool d).waiting = [] := by
    intro v
    show (State.pool (State.arrive _ _) d).waiting = []
    rw [pool_congr (sampled_lfe (sampled_arrive ..)), pool_setPool]
    exact hwait
  show execChildPoolRefill d s = _
  simp [execChildPoolRefill, hring, Nat.not_le.mpr hocc, packet_of_find hp, hphase, hheld, hlate, hbad, retryLaunches_none (hnone _)]

/-! ### The head of a queue, and its checks (R117 to R121) -/

section
variable {s : State} {p : Packet}

theorem finish_completes {id : Nat} (n : Nat) (hp : s.packet id = p) (hstatus : p.status = 0) : Completed s (s.finish id n) id p n := by
  show s.finish id n = _
  rw [finish_eq n hp, hstatus, mergeStatus_zero]

theorem execPacketHead_malformed (hp : s.packet s.cur = p) (hphase : p.phase = .held) (hhead : s.mayHead p = true)
    (hbad : p.poisoned = true ∨ headBad p = true) : exec .packetHead s = .next (s.finish s.cur 4) := by
  show execPacketHead s = _
  simp [execPacketHead, hp, hphase, hhead, hbad]

theorem execPacketHead_decodes (hp : s.packet s.cur = p) (hphase : p.phase = .held) (hhead : s.mayHead p = true)
    (hpoison : p.poisoned = false) (hgood : headBad p = false) (hbar : p.barrier = true → (s.earlier p).all Packet.completed = true) :
    exec .packetHead s = .next ((s.setPacket s.cur { p with phase := .waiting }).evalWait s.cur) := by
  have hpass : (p.barrier && !(s.earlier p).all Packet.completed) = false := by
    cases hb : p.barrier with
    | false => rfl
    | true => rw [hbar hb]; rfl
  show execPacketHead s = _
  simp only [execPacketHead, hp, hphase, hhead, hpoison, hgood, hpass]
  rfl

theorem execPacketHead_passes (hp : s.packet s.cur = p) (hphase : p.phase = .held) (hhead : s.mayHead p = true)
    (hpoison : p.poisoned = false) (hgood : headBad p = false) (hbar : p.barrier = true → (s.earlier p).all Packet.completed = true)
    (hsat : ∀ e ∈ p.waits, satisfied s p e) :
    exec .packetHead s =
      .next ((s.setPacket s.cur { p with phase := .waiting }).setPacket s.cur { p with phase := .passed }) := by
  refine (execPacketHead_decodes hp hphase hhead hpoison hgood hbar).trans (congrArg _ ?_)
  refine (evalWait_counts (p := { p with phase := .waiting }) (packet_setPacket_same ..) rfl fun e he => (hsat e he).1).trans (if_pos ?_)
  exact List.all_eq_true.mpr fun e he => decide_eq_true (hsat e he).2

theorem execPacketHead_aborts (hp : s.packet s.cur = p) (hphase : p.phase = .held) (hhead : s.mayHead p = true)
    (hpoison : p.poisoned = false) (hgood : headBad p = false) (hbar : p.barrier = true → (s.earlier p).all Packet.completed = true)
    (hab : ∃ e ∈ p.waits, sawAbort s p e) :
    exec .packetHead s = .next ((s.setPacket s.cur { p with phase := .waiting }).finish s.cur 2) := by
  refine (execPacketHead_decodes hp hphase hhead hpoison hgood hbar).trans (congrArg _ ?_)
  exact evalWait_aborts (p := { p with phase := .waiting }) (packet_setPacket_same ..) rfl hab

theorem execPacketHead_waits (hp : s.packet s.cur = p) (hphase : p.phase = .held) (hhead : s.mayHead p = true)
    (hpoison : p.poisoned = false) (hgood : headBad p = false) (hbar : p.barrier = true → (s.earlier p).all Packet.completed = true)
    (hno : ∀ e ∈ p.waits, ¬ sawAbort s p e) (hunsat : ∃ e ∈ p.waits, ¬ satisfied s p e) :
    exec .packetHead s = .next (s.setPacket s.cur { p with phase := .waiting }) := by
  refine (execPacketHead_decodes hp hphase hhead hpoison hgood hbar).trans (congrArg _ ?_)
  refine (evalWait_counts (p := { p with phase := .waiting }) (packet_setPacket_same ..) rfl fun e he => Int.not_lt.mp (hno e he)).trans (if_neg fun hall => ?_)
  obtain ⟨e, he, hopen⟩ := hunsat
  exact hopen ⟨Int.not_lt.mp (hno e he), of_decide_eq_true (List.all_eq_true.mp hall e he)⟩

theorem execResidencyCheck_notResident (hp : s.packet s.cur = p) (hphase : p.phase = .passed)
    (hslot : (s.rslot p.slot).state ≠ .resident ∨ (s.rslot p.slot).func ≠ p.func ∨ (s.rslot p.slot).gen ≠ p.gen) :
    exec .residencyCheck s = .next (s.finish s.cur 3) := by
  show execResidencyCheck s = _
  simp [execResidencyCheck, hp, hphase, or_assoc, hslot]

theorem execResidencyCheck_resident (hp : s.packet s.cur = p) (hphase : p.phase = .passed)
    (hstate : (s.rslot p.slot).state = .resident) (hfunc : (s.rslot p.slot).func = p.func) (hgen : (s.rslot p.slot).gen = p.gen) :
    exec .residencyCheck s =
      .next (if s.postBad p then s.finish s.cur 4 else s.setPacket s.cur { p with phase := .ready }) := by
  show execResidencyCheck s = _
  simp only [execResidencyCheck, hp, hphase, hstate, hfunc, hgen, bne_self_eq_false, Bool.or_self, Bool.false_eq_true, if_false]
  split <;> rfl

end

end Sys2Proof.Claims
end

section
/-! SUPPORT. The front end (O44), continued: the topology walker, and the rows of the table together. -/

namespace Sys2Proof.Machine

/-! ### Forced aborts where no packet waits on a counter (R116, R118) -/

/-- An element of a table after a write is the written one, or was there. -/
theorem mem_ins {α : Type} {l : Assoc α} {n : Nat} {v : α} {e : Nat × α} (h : e ∈ ins l n v) : e = (n, v) ∨ e ∈ l := by
  induction l with
  | nil => simpa [ins] using h
  | cons p r ih =>
    obtain ⟨k, w⟩ := p
    simp only [ins] at h
    split at h
    · simpa using h
    · split at h
      · exact (List.mem_cons.mp h).imp_right (List.mem_cons_of_mem _)
      · rcases List.mem_cons.mp h with rfl | h
        · exact .inr List.mem_cons_self
        · exact (ih h).imp_right (List.mem_cons_of_mem _)

/-- No packet waits on its wait list. -/
def State.noneWaits (s : State) : Prop := ∀ e ∈ s.lfe.packets, e.2.phase ≠ .waiting

theorem noneWaits_of_packetsWith {s : State} (h : (s.packetsWith fun v => v.phase == .waiting) = []) : s.noneWaits := fun e he hw =>
  List.filter_eq_nil_iff.mp h e he (beq_iff_eq.mpr hw)

theorem noneWaits_setPacket {s : State} (h : s.noneWaits) (n : Nat) {v : Packet} (hv : v.phase ≠ .waiting) :
    (s.setPacket n v).noneWaits := fun e he => by
  rcases mem_ins he with rfl | he
  · exact hv
  · exact h e he

section
variable {s : State}

theorem packets_wake (h : s.noneWaits) (file n : Nat) : (s.wake file n).lfe.packets = s.lfe.packets := by
  have hnone : (s.lfe.packets.filter fun e => e.2.phase == .waiting && e.2.file == file && e.2.waits.any fun w => w.2 == n) = [] :=
    List.filter_eq_nil_iff.mpr fun e he => by simp [h e he]
  simp only [State.wake, hnone, List.map_nil, each]

theorem packets_abort (h : s.noneWaits) (file n : Nat) : (s.abort file n).lfe.packets = s.lfe.packets := by
  unfold State.abort
  split
  · rfl
  · exact packets_wake (s := s.setSem file n _) h file n

theorem sem_abort (s : State) (file n : Nat) : ((s.abort file n).sem file n).toInt < 0 := by
  unfold State.abort
  split
  · assumption
  · rw [sem_count]
    decide

end

theorem packet_congr {s t : State} (h : t.lfe.packets = s.lfe.packets) (id : Nat) : t.packet id = s.packet id := by
  simp only [State.packet, h]

/-! ### The walker (R100 to R103) -/

section
variable {s : State} {id : Nat} {p : Packet} {w : Walker}

/-- The experts that the end of a walk aborts change no packet. -/
theorem packets_endWalk (h : s.noneWaits) (id : Nat) : (s.endWalk id).lfe.packets = s.lfe.packets := by
  unfold State.endWalk
  dsimp only
  split
  · rfl
  · split
    · rfl
    · refine each_inv (P := fun t : State => t.lfe.packets = s.lfe.packets) (fun e t ht => ?_) _ rfl
      exact (packets_abort (fun x hx => h x (ht ▸ hx)) ..).trans ht

theorem failWalk_packet (h : s.noneWaits) (hp : s.packet id = p) (hw : p.walker = some w) (cause : Byte) :
    (s.failWalk id cause).packet id =
      { p with status := mergeStatus p.status 4, walker := some { w with failed := some cause, held := false } } := by
  have hkept : (s.endWalk id).packet id = p := (packet_congr (packets_endWalk h id) id).trans hp
  simp only [State.failWalk, hkept, hw]
  exact packet_setPacket_same ..

/-- Table end is not reached while records are left. -/
theorem tableEnd_before (hp : s.packet id = p) (hw : p.walker = some w) (hleft : w.next < p.rcount) : s.tableEnd id = s := by
  simp only [State.tableEnd, hp, hw]
  exact if_pos hleft

theorem haveArray_good {l : List Byte} (hp : s.packet id = p) (hw : p.walker = some w) (hleft : w.next < p.rcount)
    (hgood : ∀ e ∈ (words4 l).take p.ecount, e.toNat / 2 ^ 9 = 0) :
    s.haveArray id l = s.setPacket id
      { p with walker := some { w with haveArray := true, entries := (words4 l).take p.ecount, bad := false } } := by
  have hany : (((words4 l).take p.ecount).any fun e => bits e.toNat 31 9 != 0) = false :=
    List.any_eq_false.mpr fun e he => by
      rw [bits, hgood e he]
      decide
  simp only [State.haveArray, hp, hw, hany, Bool.false_eq_true, if_false]
  exact tableEnd_before (packet_setPacket_same ..) rfl hleft

theorem haveRecord_good {l : List Byte} (hp : s.packet id = p) (hw : p.walker = some w) (hgood : p.recordBad (wordOfBytes l) = false) :
    s.haveRecord id l = s.setPacket id { p with walker := some { w with record := some (BitVec.ofNat 128 (wordOfBytes l)) } } := by
  simp only [State.haveRecord, hp, hw, hgood, Bool.false_eq_true, if_false]

/-- The walker of packet p once it has passed a malformed record r (R102). -/
def Walker.passed (w : Walker) (p : Packet) (r : Nat) : Walker :=
  { w with next := w.next + 1, bad := true, served := if recExpert r < p.ecount then recExpert r :: w.served else w.served }

/-- A malformed record that names a counter: it is passed, and the counter aborted (R102). -/
theorem haveRecord_bad {l : List Byte} (h : s.noneWaits) (hp : s.packet id = p) (hw : p.walker = some w) (hphase : p.phase ≠ .waiting)
    (hleft : w.next + 1 < p.rcount) (hbad : p.recordBad (wordOfBytes l) = true) (hsem : bits (wordOfBytes l) 124 124 = 1) :
    s.haveRecord id l = (s.setPacket id { p with status := mergeStatus p.status 4, walker := some (w.passed p (wordOfBytes l)) }).abort
        p.file (bits (wordOfBytes l) 123 116) ∧
      (s.haveRecord id l).packet id = { p with status := mergeStatus p.status 4, walker := some (w.passed p (wordOfBytes l)) } := by
  have hkept : ((s.setPacket id { p with status := mergeStatus p.status 4, walker := some (w.passed p (wordOfBytes l)) }).abort
      p.file (bits (wordOfBytes l) 123 116)).packet id =
        { p with status := mergeStatus p.status 4, walker := some (w.passed p (wordOfBytes l)) } :=
    (packet_congr (packets_abort (noneWaits_setPacket h id (v := { p with
      status := mergeStatus p.status 4, walker := some (w.passed p (wordOfBytes l)) }) hphase) ..) id).trans (packet_setPacket_same ..)
  have hend : s.haveRecord id l = (s.setPacket id { p with
      status := mergeStatus p.status 4, walker := some (w.passed p (wordOfBytes l)) }).abort p.file (bits (wordOfBytes l) 123 116) := by
    simp only [State.haveRecord, hp, hw, hbad, hsem, if_true]
    exact tableEnd_before hkept rfl hleft
  exact ⟨hend, hend ▸ hkept⟩

/-- A walker that reads: of a dispatched packet, without a record at hand, and not stopped. -/
theorem walks_of (hw : p.walker = some w) (hphase : p.phase = .dispatched) (hstop : p.stop = false) (hheld : w.held = false)
    (hfailed : w.failed = none) (hrec : w.record = none) (hmore : w.haveArray = false ∨ w.next < p.rcount) : p.walks = some w := by
  simp [Packet.walks, hw, hphase, hstop, hheld, hfailed, hrec, hmore]

/-- Where the walker reads: the signal array, then record after record (R101, R102). -/
theorem tableRead_array (p : Packet) (h : w.haveArray = false) : p.tableRead w = (p.base, p.arrayChunks) := by
  simp [Packet.tableRead, h]

theorem tableRead_record (p : Packet) (h : w.haveArray = true) : p.tableRead w = (p.base + 16 * (p.arrayChunks + w.next), 1) := by
  simp [Packet.tableRead, h]

theorem execWalkerRead_bytes {va n : Nat} {l : List Byte} (hp : s.packet s.cur = p) (hwalks : p.walks = some w)
    (hwhere : p.tableRead w = (va, n)) (hread : (s.seenBy (.table s.cur)).readChunks p.asc va n = .bytes l) :
    exec .walkerRead s = .next (if w.haveArray then ((s.readDone (.table s.cur)).chunksArrived p.asc va n).haveRecord s.cur l
      else ((s.readDone (.table s.cur)).chunksArrived p.asc va n).haveArray s.cur l) := by
  show execWalkerRead s = _
  simp only [execWalkerRead, hp, hwalks, hwhere, hread]

theorem execWalkerRead_absent {va n : Nat} (hp : s.packet s.cur = p) (hwalks : p.walks = some w)
    (hwhere : p.tableRead w = (va, n)) (hread : (s.seenBy (.table s.cur)).readChunks p.asc va n = .absent) :
    exec .walkerRead s = .next (((s.readDone (.table s.cur)).chunksArrived p.asc va n).setPacket s.cur
      { p with walker := some { w with held := true } }) := by
  show execWalkerRead s = _
  simp only [execWalkerRead, hp, hwalks, hwhere, hread]

theorem execWalkerAnswer {resume : Bool} (hp : s.packet id = p) (hw : p.walker = some w) (hheld : w.held = true)
    (hphase : p.phase = .dispatched) :
    exec (.walkerTranslationFaultAnswer id resume) s =
      .next (if resume then s.setPacket id { p with walker := some { w with held := false } } else s.failWalk id 0x28) := by
  show execWalkerTranslationFaultAnswer id resume s = _
  simp only [execWalkerTranslationFaultAnswer, hp, hw, hheld, hphase, Bool.not_true, bne_self_eq_false, Bool.or_self, Bool.false_eq_true,
    if_false]
  split <;> rfl

end

end Sys2Proof.Machine

namespace Sys2Proof.Claims
open Sys2Proof Sys2Proof.Machine

/-! ### The rows together -/

section
variable {s : State} {p : Packet}

/-- What the reads of the walker touch arrives, and the read is over. -/
theorem sampled_tableRead (s : State) (asc va n : Nat) :
    sampled (readOver s (.table s.cur)) ((s.readDone (.table s.cur)).chunksArrived asc va n) :=
  readDone_eq s (.table s.cur) ▸ sampled_chunksArrived ..

theorem packet_tableRead (hp : s.packet s.cur = p) (asc va n : Nat) :
    ((s.readDone (.table s.cur)).chunksArrived asc va n).packet s.cur = p :=
  (packet_congr (congrArg Lfe.packets (sampled_lfe (sampled_tableRead s asc va n))) s.cur).trans hp

theorem noneWaits_tableRead (h : s.noneWaits) (asc va n : Nat) : ((s.readDone (.table s.cur)).chunksArrived asc va n).noneWaits := by
  intro e he
  rw [sampled_lfe (sampled_tableRead s asc va n)] at he
  exact h e he

end

theorem frontRows : Completes FrontStep := by
  intro i pre post s h hpre
  cases h with
  | read q qu bad =>
    obtain ⟨rfl, hen, hnot, hskip, hfew, rfl, hheld⟩ := hpre
    refine ⟨_, execRecordRead_enters (readsRecord_of rfl hen hnot hfew) hskip hheld, ?_⟩
    beta_reduce
    rw [readDone_eq, ringPacket_eq]
    simp only [State.recordAt, State.queue, seenBy_lfe]
    exact sampled_arrive ..
  | readPart q n which qu =>
    obtain ⟨rfl, hen, hnot, hskip, hwhole, hfew, hfree⟩ := hpre
    refine ⟨_, recordPart_eq which (readsRecord_of rfl hen hnot hfew) hskip, _, readEarly_whole which hwhole hfree, fun e => mem_partRead⟩
  | skipped q qu =>
    obtain ⟨rfl, hen, hnot, hskip, hfew⟩ := hpre
    refine ⟨_, execRecordRead_passes (readsRecord_of rfl hen hnot hfew) hskip, _, by rw [readDone_eq], fun i => ?_⟩
    rw [List.mem_filter, bne_iff_ne]
  | refill d id r p =>
    obtain ⟨hring, hocc, hp, hphase, hwait, hheld, hlate, hbad⟩ := hpre
    exact ⟨_, execChildPoolRefill_moves hring hocc hp hphase hwait hheld hlate hbad, sampled_setPacket _ _ (sampled_arrive ..)⟩
  | malformed p =>
    obtain ⟨hp, hphase, hhead, hstatus, hbad⟩ := hpre
    have hp := packet_of_find hp
    exact ⟨_, execPacketHead_malformed hp hphase hhead hbad, finish_completes 4 hp hstatus⟩
  | passes p =>
    obtain ⟨hp, hphase, hhead, hpoison, hgood, hbar, hsat⟩ := hpre
    refine ⟨_, execPacketHead_passes (packet_of_find hp) hphase hhead hpoison hgood hbar hsat, packet_setPacket_same .., fun n hn => ?_⟩
    simp [State.setPacket, hn]
  | aborted p =>
    obtain ⟨hp, hphase, hhead, hpoison, hgood, hbar, hstatus, hab⟩ := hpre
    refine ⟨_, execPacketHead_aborts (packet_of_find hp) hphase hhead hpoison hgood hbar hab, ?_⟩
    exact (packet_finish 2 (packet_setPacket_same ..)).trans (by rw [hstatus, mergeStatus_zero]; rfl)
  | waits p =>
    obtain ⟨hp, hphase, hhead, hpoison, hgood, hbar, hno, hunsat⟩ := hpre
    exact ⟨_, execPacketHead_waits (packet_of_find hp) hphase hhead hpoison hgood hbar hno hunsat, rfl⟩
  | notResident p =>
    obtain ⟨hp, hphase, hstatus, hslot⟩ := hpre
    have hp := packet_of_find hp
    exact ⟨_, execResidencyCheck_notResident hp hphase hslot, finish_completes 3 hp hstatus⟩
  | resident p =>
    obtain ⟨hp, hphase, hstatus, hstate, hfunc, hgen⟩ := hpre
    have hp := packet_of_find hp
    refine ⟨_, execResidencyCheck_resident hp hphase hstate hfunc hgen, ?_⟩
    split
    · exact finish_completes 4 hp hstatus
    · rfl
  | dispatch p =>
    obtain ⟨hp, hone, htable, hslot, hcluster, htickets, hwait⟩ := hpre
    have hp := packet_of_find hp
    obtain ⟨ptr, dl, hrun⟩ := execDispatch_one hp hone hwait
    refine ⟨_, hrun, ?_⟩
    beta_reduce
    rw [trim_eq, open_tickets (s := s.selected ptr dl) hp hslot htable hcluster htickets]
    exact ⟨packet_of_find ((find_ins ..).trans (if_pos rfl)), rfl⟩
  | dispatchEmpty p =>
    obtain ⟨hp, hone, htable, hslot, htickets, hstatus, hwait⟩ := hpre
    have hp := packet_of_find hp
    obtain ⟨ptr, dl, hrun⟩ := execDispatch_one hp hone hwait
    refine ⟨_, hrun, ?_⟩
    beta_reduce
    rw [trim_eq, open_empty (s := s.selected ptr dl) hp hslot htable htickets, finish_eq 0 (packet_setPacket_same ..)]
    refine ⟨?_, ?_, rfl⟩
    · simp [State.packet]
    · simp [State.packet, hstatus, mergeStatus]
  | array p w l =>
    obtain ⟨hp, hw, hphase, hstop, hheld, hfailed, hrec, harray, hleft, hread, hgood⟩ := hpre
    have hp := packet_of_find hp
    have hrun := execWalkerRead_bytes hp (walks_of hw hphase hstop hheld hfailed hrec (.inl harray)) (tableRead_array p harray) hread
    rw [if_neg (by simp [harray]), haveArray_good (packet_tableRead hp ..) hw hleft hgood] at hrun
    exact ⟨_, hrun, sampled_setPacket _ _ (sampled_tableRead ..)⟩
  | record p w l =>
    obtain ⟨hp, hw, hphase, hstop, hheld, hfailed, hrec, harray, hleft, hread, hgood⟩ := hpre
    have hp := packet_of_find hp
    have hrun := execWalkerRead_bytes hp (walks_of hw hphase hstop hheld hfailed hrec (.inr hleft)) (tableRead_record p harray) hread
    rw [if_pos harray, haveRecord_good (packet_tableRead hp ..) hw hgood] at hrun
    exact ⟨_, hrun, sampled_setPacket _ _ (sampled_tableRead ..)⟩
  | badRecord p w l =>
    obtain ⟨hp, hw, hphase, hstop, hheld, hfailed, hrec, harray, hleft, hstatus, hread, hbad, hsem, hnone⟩ := hpre
    have hp := packet_of_find hp
    have hrun := execWalkerRead_bytes hp (walks_of hw hphase hstop hheld hfailed hrec (.inr (by omega))) (tableRead_record p harray) hread
    rw [if_pos harray] at hrun
    obtain ⟨heq, hpacket⟩ := haveRecord_bad (noneWaits_tableRead (noneWaits_of_packetsWith hnone) _ _ _) (packet_tableRead hp ..) hw
      (by simp [hphase]) hleft hbad hsem
    refine ⟨_, hrun, ?_⟩
    beta_reduce
    rw [hpacket]
    refine ⟨by rw [hstatus, mergeStatus_zero], rfl, ?_, _, rfl, rfl⟩
    rw [heq]
    exact sem_abort ..
  | absent p w =>
    obtain ⟨hp, hw, hphase, hstop, hheld, hfailed, hrec, harray, hleft, hread⟩ := hpre
    have hp := packet_of_find hp
    exact ⟨_, execWalkerRead_absent hp (walks_of hw hphase hstop hheld hfailed hrec (.inr hleft)) (tableRead_record p harray) hread,
      sampled_setPacket _ _ (sampled_tableRead ..)⟩
  | answer id p w =>
    obtain ⟨hp, hw, hphase, hheld⟩ := hpre
    exact ⟨_, execWalkerAnswer (packet_of_find hp) hw hheld hphase, rfl⟩
  | fatal id p w =>
    obtain ⟨hp, hw, hphase, hheld, hfailed, hstatus, hnone⟩ := hpre
    have hp := packet_of_find hp
    refine ⟨_, execWalkerAnswer hp hw hheld hphase, ?_⟩
    beta_reduce
    rw [if_neg (by decide), failWalk_packet (noneWaits_of_packetsWith hnone) hp hw]
    exact ⟨by rw [hstatus, mergeStatus_zero], _, rfl, rfl, rfl⟩

/-- Settles O44: each row by what its step does, and what a reader has read apart by the order in which it is put back. -/
theorem frontSteps : Obligations.FrontSteps := ⟨frontRows, earlyBytes⟩

end Sys2Proof.Claims
end

section
/-! SUPPORT. A table that lists one key twice, and the steps that bring its second entry to light: the interrupt of a packet (O46), and a
function-level reset (O49). -/

namespace Sys2Proof.Machine

/-- INTERRUPT_EVENT of a packet whose interrupt is due: the event, and the packet is done. -/
theorem execInterruptEvent_due {s : State} {p : Packet} (hp : s.packet s.cur = p)
    (hdue : (p.phase != .signalled || p.done || p.sigs != 0 || !p.interrupts) = false) :
    exec .interruptEvent s =
      .next (((s.interrupt p.func p.vector).setPacket s.cur { p with done := true }).prune.flrs) := by
  subst hp
  exact if_neg (by rw [hdue]; decide)

/-- FUNCTION_LEVEL_RESET of a virtual function that is not under one. -/
theorem execFunctionLevelReset_begins {s : State} {f : Nat} (h0 : 0 < f) (h64 : f < 64) (hflr : (s.func f).flr = false) :
    exec (.functionLevelReset 0 f) s =
      .next (((((s.note 0x04 2 (BitVec.ofNat 64 f) 0 none).setFunc f { s.func f with
          flr := true, kcnt := (s.tasks.filter fun e => !e.2.fw && (s.packet e.2.packet).func == f).length }).purge 1
        (fun g => g == f) true).unloads).flrs) := by
  refine if_neg ?_
  rintro (hfn | hz | hbig | hr)
  · exact hfn rfl
  · omega
  · omega
  · exact absurd (hflr.symm.trans hr) (by decide)

end Sys2Proof.Machine

namespace Sys2Proof.Claims
open Sys2Proof Sys2Proof.Machine

/-! ### A packet that is listed twice -/

/-- A packet whose signals have been performed and whose record asks for an interrupt (bit 7), on vector 0. -/
def interrupting : Packet := { Packet.empty with record := 0x80, phase := .signalled }

/-- It stands twice under number 0, and vector 0 is not masked. -/
def interruptingTwice : State :=
  { State.reset with
    lfe := { State.reset.lfe with packets := [(0, interrupting), (0, interrupting)] }
    hif := { State.reset.hif with vectors := [(0, { Vector.empty with masked := false })] } }

/-- The message has been sent, and the first entry, done, has left: the second is found, which is not done. -/
def interruptedOnce : State :=
  { State.reset with
    lfe := { State.reset.lfe with packets := [(0, interrupting)] }
    hif := { State.reset.hif with vectors := [(0, { Vector.empty with masked := false, sent := 1 })] } }

theorem interruptEvent_of_twice : exec .interruptEvent interruptingTwice = .next interruptedOnce :=
  (execInterruptEvent_due rfl (by decide +kernel)).trans (congrArg _ (by decide +kernel))

/-- Refutes O46: the row of INTERRUPT_EVENT, in a state that lists the packet twice under its number (no canonical table does). The first
entry is done and leaves, and what is then found under the number is not done. -/
theorem not_doneSteps : ¬ Obligations.DoneSteps := by
  unfold Obligations.DoneSteps
  intro h
  obtain ⟨t, ht, -, -, hdone⟩ := h .interruptEvent _ _ interruptingTwice (.interrupt interrupting) (by decide +kernel)
  obtain rfl : interruptedOnce = t := Host.Outcome.next.inj (interruptEvent_of_twice.symm.trans ht)
  exact absurd hdone (by decide)

/-! ### A function-level reset that leaves a task of its function -/

/-- A packet of function 0 in queue 0 that is over. -/
def overInQueue : Packet := { Packet.empty with phase := .signalled, done := true }

/-- A child of function 1 that is over. -/
def overChild : Packet := { Packet.empty with phase := .signalled, done := true, child := true, func := 1 }

/-- A task of packet 0. -/
def runningTask : Task := { Task.empty with phase := .running }

/-- Both packets stand under number 0; queue 0 is function 1's. The barograph is frozen. -/
def shadowedChild : State :=
  { State.reset with
    tasks := [(192, runningTask)]
    lfe := { State.reset.lfe with packets := [(0, overInQueue), (0, overChild)], queues := [(0, { Queue.empty with func := 1 })] }
    hif := { State.reset.hif with baro := { State.reset.hif.baro with frozen := true } } }

/-- The queue's packet has left: the task's packet is now function 1's child. -/
def unshadowedChild : State :=
  { shadowedChild with lfe := { shadowedChild.lfe with packets := [(0, overChild)] } }

theorem functionLevelReset_of_shadowed : exec (.functionLevelReset 0 1) shadowedChild = .next unshadowedChild :=
  (execFunctionLevelReset_begins (by decide) (by decide) rfl).trans (congrArg _ (by decide +kernel))

/-- Refutes O49: the row of FUNCTION_LEVEL_RESET, in a state that lists two packets under one number (no canonical table does). The task's
packet is found as one of function 0, so the task stays; the reset ends with that packet leaving, and the number then finds one of the
function that was reset. -/
theorem not_hostSteps : ¬ Obligations.HostSteps := by
  unfold Obligations.HostSteps
  rintro ⟨h, -⟩
  obtain ⟨t, ht, hleft⟩ := h (.functionLevelReset 0 1) _ _ shadowedChild (.flr 1) (by decide)
  obtain rfl : unshadowedChild = t := Host.Outcome.next.inj (functionLevelReset_of_shadowed.symm.trans ht)
  exact absurd (hleft 192 runningTask rfl) (by decide)

end Sys2Proof.Claims
end

section
/-! SUPPORT. One step (O57): what each move of the agenda does, and to which context an issue slot goes (R149, R368). -/

namespace Sys2Proof.Machine

/-! ### Fetch and issue (R57, R149, R153) -/

section
variable {s : State} {t : Nat} {k : Task} {i : Instr}

/-- The unit at the pc, where its lines are in the instruction cache and none of its words is poisoned. -/
theorem fetchUnit_decoded {w len : Nat} (hword : s.fetch k k.pc = some w) (hline : s.lineNeeded k k.pc w = none)
    (hdec : decodeUnit (k.pc % 8 == 4) w (s.fetch k (k.pc + 4)) (s.fetch k (k.pc + 8)) = .ok i len)
    (h0 : s.fetchBad k k.pc = false) (h4 : 4 < len → s.fetchBad k (k.pc + 4) = false) (h8 : 8 < len → s.fetchBad k (k.pc + 8) = false) :
    s.fetchUnit k = .unit i := by
  have hbad4 : ¬(4 < len ∧ s.fetchBad k (k.pc + 4) = true) := fun h => by simp [h4 h.1] at h
  have hbad8 : ¬(8 < len ∧ s.fetchBad k (k.pc + 8) = true) := fun h => by simp [h8 h.1] at h
  simp [State.fetchUnit, hword, hline, h0, hdec, hbad4, hbad8]

/-- Fetch looks neither at the tasks nor at what the task waits for. -/
theorem fetchUnit_waiting (s : State) (t q : Nat) (k : Task) :
    (s.setTask t { k with waitQ := some q }).fetchUnit { k with waitQ := some q } = s.fetchUnit k := rfl

theorem tryUnit_unit (hu : s.fetchUnit k = .unit i) : s.tryUnit t k = exec i (s.at' t) := by
  have hu' : (s.at' t).fetchUnit k = .unit i := hu
  simp only [State.tryUnit, hu']

theorem issues_unit (hu : s.fetchUnit k = .unit i) :
    s.issues t k = hasIssued t k (exec i ((s.at' t).setTask t { k with waitQ := some 3 })) :=
  congrArg (hasIssued t k) (tryUnit_unit ((fetchUnit_waiting s t 3 k).trans hu))

theorem mayIssue_running (hphase : k.phase = .running) (hmiss : k.missing = none) (hyield : k.yieldLeft = 0) : k.mayIssue = true := by
  simp [Task.mayIssue, hphase, hmiss, hyield]

/-- The slice of a task at a unit: a unit that would wait is run as it is, one that issues where the slot goes to the task. -/
theorem issueTask_unit (hk : find s.tasks t = some k) (hmay : k.mayIssue = true) (hu : s.fetchUnit k = .unit i) :
    s.issueTask t =
      if s.issues t k = false then exec i (s.at' t)
      else if s.mayTake t k = true then exec i ((s.at' t).slotTaken k i) else .next s := by
  have hu' : (s.at' t).fetchUnit k = .unit i := hu
  simp [State.issueTask, hk, hmay, hu', tryUnit_unit hu]

theorem routeTask_unit (hk : find s.tasks t = some k) (hu : (s.at' t).fetchUnit k = .unit i) :
    s.routeTask t = if i.home.isSome then s.issueTask t else .next s := by
  simp only [State.routeTask, hk, Option.map_some, hu]

theorem tryHead_runs {q : Nat} {hs : Bool} {e : Entry} {l : List Entry} (hk : find s.tasks t = some k)
    (hentries : ((k.set hs).rq q).entries = e :: l) (hhome : e.instr.home = some q) :
    s.tryHead t q hs = exec e.instr { s with cur := t, turn := .head q hs } := by
  simp [State.tryHead, hk, hentries, hhome]

theorem isEvent_of_noWords (hwords : i.hasWords = false) (hill : ∀ why d, i ≠ .illegalEncoding why d) (horph : i ≠ .orphanPrefix) :
    Instr.isEvent i = true := by
  unfold Instr.isEvent
  split
  · exact absurd rfl (hill _ _)
  · exact absurd rfl horph
  · rw [hwords]; rfl

theorem runEvent_runs {n : Nat} (hevent : Instr.isEvent i = true) (hwf : i.wf = true) (hroute : i ≠ .route) :
    s.runEvent n i = exec i { s with cur := n, turn := .slice } := by
  simp [State.runEvent, hroute, hevent, hwf]

theorem step_move {m : Move} {r : List Move} (h : s.agenda = m :: r) : step s = State.move { s with agenda := r } m := by
  simp only [step, h]

theorem step_round (h : s.agenda = []) : step s = .next { s with agenda := s.round } := by
  simp only [step, h]

end

/-! ### To which context a slot goes (R149, R368) -/

section
variable {s : State} {t : Nat} {k : Task}

theorem mayTake_alone (hfw : k.fw = false) (hfew : (s.readyUsers k.coreKey).length ≤ 1) : s.mayTake t k = true := by
  unfold State.mayTake
  match hu : s.readyUsers k.coreKey with
  | [] => simp [hfw]
  | [_] => simp [hfw]
  | _ :: _ :: _ => simp [hu] at hfew

/-- Of two ready user contexts, the one that the next slot goes to takes it. -/
theorem mayTake_pair {a b : Nat × Task} (hfw : k.fw = false) (hu : s.readyUsers k.coreKey = [a, b]) (hone : (t, k) = a ∨ (t, k) = b) :
    s.mayTake t k = true ↔ s.nextUser k.coreKey a.2 b.2 = k.ctx := by
  have hin : ¬(t ≠ a.1 ∧ t ≠ b.1) := fun h => hone.elim (fun e => h.1 (congrArg Prod.fst e)) fun e => h.2 (congrArg Prod.fst e)
  simp only [State.mayTake, hfw, hu, Bool.false_eq_true, if_false, Bool.or_eq_true, Bool.and_eq_true, bne_iff_ne, beq_iff_eq]
  exact ⟨fun h => h.resolve_left hin, Or.inr⟩

theorem mayTake_firmware_idle (hfw : k.fw = true) (hu : s.readyUsers k.coreKey = []) : s.mayTake t k = true := by
  simp [State.mayTake, hfw, hu]

theorem mayTake_firmware_shared {u : Nat × Task} (hfw : k.fw = true) (hu : s.readyUsers k.coreKey = [u]) :
    s.mayTake t k = true ↔ (u.2.pc % 16 = 0 ∨ (s.core k.coreKey).lastRouted = true) ∧ s.shareLeft k.coreKey = true := by
  simp [State.mayTake, hfw, hu]

/-- With functions of one WEIGHT the next slot goes to the context, 0 or 1, that did not take the last user slot. -/
theorem nextUser_equal {c x : Nat} {a b : Task} (hx : x = 0 ∨ x = 1)
    (hw : (s.func (s.packet a.packet).func).weight = (s.func (s.packet b.packet).func).weight) :
    s.nextUser c a b = x ↔ x ≠ ((s.core c).slotLog.find? fun y => decide (y < 2)).getD 1 := by
  simp only [State.nextUser, hw, if_true]
  match hlast : (s.core c).slotLog.find? fun y => decide (y < 2) with
  | none => rcases hx with rfl | rfl <;> simp
  | some y =>
    have hy : y < 2 := by simpa using List.find?_some hlast
    obtain rfl | rfl : y = 0 ∨ y = 1 := by omega
    all_goals rcases hx with rfl | rfl <;> simp

section
variable {c : Nat} {a b : Task}
  (hw : (s.func (s.packet a.packet).func).weight ≠ (s.func (s.packet b.packet).func).weight)
include hw

theorem nextUser_first (h : (s.core c).taken 0 * (s.func (s.packet b.packet).func).weight <
    (s.core c).taken 1 * (s.func (s.packet a.packet).func).weight) : s.nextUser c a b = 0 := by
  simp only [State.nextUser, if_neg hw, if_pos h]

theorem nextUser_second (h : (s.core c).taken 1 * (s.func (s.packet a.packet).func).weight <
    (s.core c).taken 0 * (s.func (s.packet b.packet).func).weight) : s.nextUser c a b = 1 := by
  simp only [State.nextUser, if_neg hw, if_neg (Nat.lt_asymm h), if_pos h]

end

end

end Sys2Proof.Machine

namespace Sys2Proof.Claims
open Sys2Proof Sys2Proof.Machine

/-! ### The step (O57) -/

theorem slotTaken_eq (s : State) (k : Task) (i : Instr) :
    s.slotTaken k i = s.setCore k.coreKey { s.core k.coreKey with
      slotLog := ((if k.fw then (if s.readyUsers k.coreKey = [] then 3 else 2) else k.ctx) :: (s.core k.coreKey).slotLog).take 64
      lastRouted := if k.fw then (s.core k.coreKey).lastRouted else i.home.isSome } := by
  simp only [State.slotTaken, List.isEmpty_iff]

theorem slotRules : SlotRules := by
  intro s t k _
  refine ⟨mayTake_alone, fun a b hfw hu hone ha hb => ?_, mayTake_firmware_idle, fun u hfw hu => ?_, slotTaken_eq s k⟩
  · have hctx : k.ctx = 0 ∨ k.ctx = 1 := hone.imp (fun e => by rw [← ha, ← e]) fun e => by rw [← hb, ← e]
    rw [mayTake_pair hfw hu hone]
    refine ⟨nextUser_equal hctx, fun hw hlt => ?_, fun hw hlt => ?_⟩
    · rw [nextUser_first hw hlt, eq_comm]
    · rw [nextUser_second hw hlt, eq_comm]
  · rw [mayTake_firmware_shared hfw hu, State.shareLeft, decide_eq_true_iff]

/-- Settles O57: each kind of move by what it runs, a unit of the slice by whether it issues and whether the slot goes to its task. -/
theorem stepRunsDecoded : Obligations.StepRunsDecoded := by
  refine ⟨?slice, ?route, ?head, ?device, fun s => step_round, slotRules⟩
  case slice =>
    intro s t len w i r k hagenda hk hphase hmiss hyield hword hline hdec h0 h4 h8 u goes
    have hu : State.fetchUnit { s with agenda := r } k = .unit i := fetchUnit_decoded (s := s) hword hline hdec h0 h4 h8
    have hgoes : State.issues { s with agenda := r } t k = goes := issues_unit hu
    have hstep : step s = _ := (step_move hagenda).trans (issueTask_unit hk (mayIssue_running hphase hmiss hyield) hu)
    rw [hstep, hgoes]
    refine ⟨fun hg ht => ?_, fun hg ht => ?_, fun hg => if_pos hg⟩
    · rw [if_neg (by simp [hg]), if_pos ht]; rfl
    · rw [if_neg (by simp [hg]), if_neg (by simp [ht])]
  case route =>
    intro s t i r k hagenda hk hu
    have hstep : step s = _ := (step_move hagenda).trans (routeTask_unit (s := { s with agenda := r }) hk hu)
    rw [hstep]
    split
    · rfl
    · rfl
  case head =>
    intro s t q hs r k e l hagenda hk hentries hhome
    exact (step_move hagenda).trans (tryHead_runs (s := { s with agenda := r }) hk hentries hhome)
  case device =>
    intro s n i r hagenda hwords hwf hill horph hroute
    exact (step_move hagenda).trans (runEvent_runs (isEvent_of_noWords hwords hill horph) hwf hroute)

end Sys2Proof.Claims
end

section
/-! SUPPORT. A number that stands twice in the table of packets: a request that is served for the one entry and kept by the walker of the
other (O45). -/

namespace Sys2Proof.Claims
open Sys2Proof Sys2Proof.Machine

/-- The walker of a topology table that has read the signal array and is still to read its first record. -/
def readingWalker : Walker := { Walker.start with haveArray := true }

/-- A dispatched packet in table mode (bit 0) of one record (bits 159:128), at priority 0. -/
def tablePacket : Packet := { Packet.empty with record := 1 + 2 ^ 128, phase := .dispatched, walker := some readingWalker }

/-- A dispatched packet in loop mode with one ticket for die 0, at priority 2. -/
def loopPacket : Packet := { Packet.empty with phase := .dispatched, prio := 2, hi0 := 1 }

/-- A dispatched packet of gangs (bit 5) with one gang for die 0, at priority 1. -/
def gangPacket : Packet := { Packet.empty with record := 32, phase := .dispatched, prio := 1, hi0 := 1 }

/-- Number 1 stands twice, and cluster 0 of die 0 is reserved for the gangs of packet 2. -/
def requestingTwice : State :=
  { State.reset with
    lfe := { State.reset.lfe with packets := [(1, tablePacket), (1, loopPacket), (2, gangPacket)], reserved0 := [(0, 2)] } }

/-- The state after WALKER_RECORD_HANDOUT of core 0 for packet 1. -/
def requestedTwice : State := requestingTwice.serve 0 fun id v => id == 1 && v.table

theorem walkerRecordHandout_of_twice : exec (.walkerRecordHandout 1 0) requestingTwice = .next requestedTwice := rfl

/-- The second entry lets core 0 be served for number 1. -/
theorem isServed_requestingTwice : IsServed requestingTwice 0 1 tablePacket 0 0 := by
  have hselect : (requestingTwice.select 0 0 (requestingTwice.asks 0)).map Prod.fst = some 1 := by decide +kernel
  obtain ⟨⟨_, s1⟩, hselect, rfl⟩ := Option.map_eq_some_iff.mp hselect
  exact ⟨by decide, by decide +kernel, by decide +kernel, ⟨s1, hselect⟩, if_pos rfl, by decide +kernel, by decide +kernel⟩

/-- The walker, which is the first entry's, keeps no request of a core that is barred from it. -/
theorem walker_requestedTwice : (requestedTwice.packet 1).walker = some { readingWalker with asks := [] } := by decide +kernel

/-- Refutes O45: the row of a request that reaches a walker, in a state that lists two packets under one number (no canonical table does).
Core 0 is served for the second entry of the number, and the walker found under it is the first's, from which a reservation bars the core:
its request is dropped. -/
theorem not_placeSteps : ¬ Obligations.PlaceSteps := by
  unfold Obligations.PlaceSteps
  intro h
  obtain ⟨t, ht, l, hpacket, hmem, -⟩ := h (.walkerRecordHandout 1 0) _ _ requestingTwice (.claim 0 1 0 0 tablePacket readingWalker)
    ⟨isServed_requestingTwice, by decide +kernel, rfl, rfl, by decide +kernel⟩
  obtain rfl : requestedTwice = t := Host.Outcome.next.inj (walkerRecordHandout_of_twice.symm.trans ht)
  have hwalker : some { readingWalker with asks := [] } = some { readingWalker with asks := l } :=
    walker_requestedTwice.symm.trans (congrArg Packet.walker hpacket)
  obtain rfl : [] = l := congrArg Walker.asks (Option.some.inj hwalker)
  exact absurd hmem List.not_mem_nil

end Sys2Proof.Claims
end

section
/-! SUPPORT. The scalar instructions that compute: the counts of bits (O2), and the results form by form (O1). -/

namespace Sys2Proof.Machine

/-! ### Results whose meaning is written otherwise than the rule (R161 to R163) -/

theorem divS_eq (x y : W64) : divS x y = if y = 0 then BitVec.ofInt 64 (-1) else BitVec.ofInt 64 (x.toInt.tdiv y.toInt) := rfl

theorem divU_eq (x y : W64) : divU x y = if y = 0 then BitVec.ofNat 64 (2 ^ 64 - 1) else x / y := by
  have hquot : BitVec.ofNat 64 (x.toNat / y.toNat) = x / y := BitVec.eq_of_toNat_eq (by
    rw [BitVec.toNat_ofNat, BitVec.toNat_udiv, Nat.mod_eq_of_lt (lt_of_le_of_lt (Nat.div_le_self ..) x.isLt)])
  rw [divU, hquot]
  rfl

theorem remU_eq (x y : W64) : remU x y = if y = 0 then x else x % y := by
  have hrem : BitVec.ofNat 64 (x.toNat % y.toNat) = x % y := BitVec.eq_of_toNat_eq (by
    rw [BitVec.toNat_ofNat, BitVec.toNat_umod, Nat.mod_eq_of_lt (lt_of_le_of_lt (Nat.mod_le ..) x.isLt)])
  rw [remU, hrem]

/-- Of two words the one with the lower signed value, and the other. -/
theorem signed_min (x y : W64) : (if x.toInt ≤ y.toInt then x else y) = BitVec.ofInt 64 (min x.toInt y.toInt) := by
  rw [min_def, apply_ite (BitVec.ofInt 64), BitVec.ofInt_toInt, BitVec.ofInt_toInt]

theorem signed_max (x y : W64) : (if x.toInt ≤ y.toInt then y else x) = BitVec.ofInt 64 (max x.toInt y.toInt) := by
  rw [max_def, apply_ite (BitVec.ofInt 64), BitVec.ofInt_toInt, BitVec.ofInt_toInt]

theorem unsigned_min (x y : W64) : (if x.toNat ≤ y.toNat then x else y) = BitVec.ofNat 64 (min x.toNat y.toNat) := by
  rw [min_def, apply_ite (BitVec.ofNat 64), BitVec.ofNat_toNat, BitVec.ofNat_toNat, BitVec.setWidth_eq, BitVec.setWidth_eq]

theorem unsigned_max (x y : W64) : (if x.toNat ≤ y.toNat then y else x) = BitVec.ofNat 64 (max x.toNat y.toNat) := by
  rw [max_def, apply_ite (BitVec.ofNat 64), BitVec.ofNat_toNat, BitVec.ofNat_toNat, BitVec.setWidth_eq, BitVec.setWidth_eq]

theorem ofBool_decide (p : Prop) [Decidable p] : ofBool (decide p) = if p then 1 else 0 := by
  simp only [ofBool, decide_eq_true_eq]

theorem idx2Of_eq (x y : W64) :
    idx2Of x y = BitVec.ofNat 64 (x.toNat / 2 ^ 32 * (y.toNat % 2 ^ 32) + x.toNat % 2 ^ 32) := by
  have hx := x.isLt
  have hhigh : bits x.toNat 63 32 = x.toNat / 2 ^ 32 := by simp only [bits]; omega
  have hlow (z : W64) : bits z.toNat 31 0 = z.toNat % 2 ^ 32 := by simp only [bits]; omega
  rw [idx2Of, hhigh, hlow, hlow]

theorem idx3Of_eq (x y : W64) : idx3Of x y = BitVec.ofNat 64
    (x.toNat / 2 ^ 42 * (y.toNat / 2 ^ 32) + x.toNat / 2 ^ 21 % 2 ^ 21 * (y.toNat % 2 ^ 32) + x.toNat % 2 ^ 21) := by
  have hx := x.isLt
  have hy := y.isLt
  have hx2 : bits x.toNat 63 42 = x.toNat / 2 ^ 42 := by simp only [bits]; omega
  have hy1 : bits y.toNat 63 32 = y.toNat / 2 ^ 32 := by simp only [bits]; omega
  have hx1 : bits x.toNat 41 21 = x.toNat / 2 ^ 21 % 2 ^ 21 := by simp only [bits]
  have hy0 : bits y.toNat 31 0 = y.toNat % 2 ^ 32 := by simp only [bits]; omega
  have hx0 : bits x.toNat 20 0 = x.toNat % 2 ^ 21 := by simp only [bits]; omega
  rw [idx3Of, hx2, hy1, hx1, hy0, hx0]

/-- The mask of an alignment: all ones below bit n (R161). -/
theorem ofNat_two_pow_sub_one (n : Nat) : BitVec.ofNat 64 (2 ^ n - 1) = (1 : W64) <<< n - 1 := by
  have hpow : (1 : W64) <<< n = BitVec.ofNat 64 (2 ^ n) := BitVec.eq_of_toNat_eq (by simp [Nat.one_shiftLeft])
  exact hpow ▸ (BitVec.ofNat_sub_ofNat_of_le _ 1 (by norm_num) Nat.one_le_two_pow).symm

theorem alignOf_eq (x y : W64) :
    alignOf x y = (x + ((1 : W64) <<< (y.toNat % 64) - 1)) &&& ~~~((1 : W64) <<< (y.toNat % 64) - 1) := by
  simp only [alignOf, amount, ofNat_two_pow_sub_one]

/-- LIH puts its immediate above the low half of the register. -/
theorem high_low_eq_append (n : W32) (x : W64) : BitVec.ofNat 64 (n.toNat * 2 ^ 32 + x.toNat % 2 ^ 32) = n ++ x.setWidth 32 := by
  have hn := n.isLt
  apply BitVec.eq_of_toNat_eq
  rw [BitVec.toNat_ofNat, BitVec.toNat_append, BitVec.toNat_setWidth,
    ← Nat.shiftLeft_add_eq_or_of_lt (Nat.mod_lt _ (by norm_num)), Nat.shiftLeft_eq]
  omega

/-! ### Counting bits (R161) -/

/-- Below the leading zeros of the low n bits stands a one, if anything does. -/
theorem lead_spec (a n : Nat) (h : a < 2 ^ n) :
    lead a n ≤ n ∧ a < 2 ^ (n - lead a n) ∧ (lead a n < n → 2 ^ (n - 1 - lead a n) ≤ a) := by
  induction n with
  | zero => simpa [lead] using h
  | succ n ih =>
    have hpow : 2 ^ (n + 1) = 2 * 2 ^ n := by rw [Nat.pow_succ, Nat.mul_comm]
    have hdiv : a / 2 ^ n < 2 := Nat.div_lt_of_lt_mul (by omega)
    have hpos : 0 < 2 ^ n := by positivity
    rw [lead]
    split
    · next hone =>
      have htop : 2 ^ n ≤ a := Nat.le_of_not_lt fun hlt => by simp [Nat.div_eq_of_lt hlt] at hone
      exact ⟨by omega, h, fun _ => by simpa using htop⟩
    · next hzero =>
      have hlow : a < 2 ^ n := (Nat.div_eq_zero_iff_lt hpos).mp (by generalize a / 2 ^ n = q at *; omega)
      obtain ⟨hle, hlt, hge⟩ := ih hlow
      refine ⟨by omega, ?_, fun hn => ?_⟩
      · rwa [Nat.add_sub_add_right]
      · rw [show n + 1 - 1 - (lead a n + 1) = n - 1 - lead a n by omega]
        exact hge (by omega)

/-- The bits below the trailing zeros are zero, and the one above them is set. -/
theorem trail_spec (a n : Nat) :
    trail a n ≤ n ∧ (∀ j, j < trail a n → a.testBit j = false) ∧ (trail a n < n → a.testBit (trail a n) = true) := by
  induction n generalizing a with
  | zero => simp [trail]
  | succ n ih =>
    rw [trail]
    split
    · next hodd => exact ⟨by omega, fun j hj => absurd hj (Nat.not_lt_zero j), fun _ => by simp [Nat.testBit_zero, hodd]⟩
    · next heven =>
      obtain ⟨hle, hzero, hone⟩ := ih (a / 2)
      refine ⟨by omega, fun j hj => ?_, fun hn => ?_⟩
      · cases j with
        | zero => simp [Nat.testBit_zero, heven]
        | succ j => rw [Nat.testBit_succ]; exact hzero j (by omega)
      · rw [Nat.testBit_succ]
        exact hone (by omega)

/-- The sum of the low n bits is the number of those that are set. -/
theorem ones_eq (a n : Nat) : ones a n = ((List.range n).filter a.testBit).length := by
  induction n generalizing a with
  | zero => rfl
  | succ n ih =>
    have hshift : a.testBit ∘ Nat.succ = (a / 2).testBit := funext fun j => Nat.testBit_succ a j
    rw [ones, ih, List.range_succ_eq_map, List.filter_cons, List.filter_map, hshift]
    split
    · next hodd => simp [Nat.testBit_zero] at hodd; simp [hodd]; omega
    · next heven => simp [Nat.testBit_zero] at heven; simp [heven]

end Sys2Proof.Machine

namespace Sys2Proof.Claims
open Sys2Proof Sys2Proof.Machine

section
variable {s : State} {k : Task} {d : Reg} {regs : List Reg}

/-- An instruction that only computes, its registers ready, writes its result and goes on. -/
theorem compute_ready (n : Nat) (f : Task → W64) (h : Ready s k (d :: regs)) :
    compute s n d regs f = .next (upd s { k.wx d (f k) with pc := k.pc + n, waitQ := none }) := by
  rw [compute_runs s k n d regs f h.1 h.2, Task.adv, wx_pc]
  rfl

/-- The same behind a check of decode that passes. -/
theorem computeIf_ready {bad : Bool} (f : Task → W64) (h : Ready s k (d :: regs)) (hb : bad = false) :
    computeIf s bad d regs f = .next (upd s { k.wx d (f k) with pc := k.pc + 4, waitQ := none }) := by
  rw [computeIf_runs s k bad d regs f h.1 hb h.2, Task.adv, wx_pc]
  rfl

end

/-- Settles O2: each instruction's count is the function that its meaning runs, and its law says what that counts. -/
theorem bitCounts : Obligations.BitCounts := fun _ k _ _ hready =>
  ⟨⟨_, compute_ready 4 _ hready, lead_spec _ 64 (k.rx _).isLt⟩, ⟨_, compute_ready 4 _ hready, trail_spec _ 64⟩,
    ⟨_, compute_ready 4 _ hready, ones_eq _ 64⟩⟩

/-- A form that runs `compute` on its length and on a result equal to the table's. -/
theorem exec_of_compute {i : Instr} {c : Scalar} {s : State} {k : Task} {f : Task → W64} (h : Ready s k (c.d :: c.regs))
    (hi : exec i s = compute s c.len c.d c.regs f) (hf : f k = c.value k) :
    exec i s = .next (upd s { k.wx c.d (c.value k) with pc := k.pc + c.len, waitQ := none }) := by
  rw [hi, compute_ready c.len f h, hf]

/-- Settles O1: each form runs `compute` on a result that is the table's, or equal to it by one of the laws above. -/
theorem scalarResults : Obligations.ScalarResults := by
  intro i c s k hform hready
  cases hform with
  | div => exact exec_of_compute hready rfl (divS_eq ..)
  | divu => exact exec_of_compute hready rfl (divU_eq ..)
  | remu => exact exec_of_compute hready rfl (remU_eq ..)
  | min => exact exec_of_compute hready rfl (signed_min ..)
  | max => exact exec_of_compute hready rfl (signed_max ..)
  | minu => exact exec_of_compute hready rfl (unsigned_min ..)
  | maxu => exact exec_of_compute hready rfl (unsigned_max ..)
  | slt => exact exec_of_compute hready rfl (ofBool_decide _)
  | sltu => exact exec_of_compute hready rfl (ofBool_decide _)
  | seq => exact exec_of_compute hready rfl (ofBool_decide _)
  | sel => exact exec_of_compute hready rfl (ite_not ..)
  | idx2 => exact exec_of_compute hready rfl (idx2Of_eq ..)
  | idx3 => exact exec_of_compute hready rfl (idx3Of_eq ..)
  | alignup => exact exec_of_compute hready rfl (alignOf_eq ..)
  | lih => exact exec_of_compute hready rfl (high_low_eq_append ..)
  | li => exact exec_of_compute hready rfl rfl
  | shli d a n hn | shri d a n hn | sari d a n hn | qdepth d n hn =>
    exact computeIf_ready _ hready (decide_eq_false (Nat.not_lt.mpr hn))
  | _ => exact exec_of_compute hready rfl rfl

end Sys2Proof.Claims
end

section
/-! SUPPORT. The instructions on the queues between the slice and the lanes (O5). -/

namespace Sys2Proof.Claims
open Sys2Proof Sys2Proof.Machine

section
variable {s : State} {k : Task}

/-- A push into a CTQ section that has room appends its entry, and fetch goes on (R173). -/
theorem pushCtq_room {sec : Reg} (n : Nat) (e : CtqEntry) (h : hasRoom k sec) :
    pushCtq s k sec.toNat n e = upd s (go (pushed k sec.toNat e) n) := if_pos h.2

/-- CQPM with counts within their limits pushes its descriptor (R174). -/
theorem execCqpm_pushes {sel a b : Reg} {kind : BitVec 2} {r0 : BitVec 5} {c0 : BitVec 10} {c : Nat × Nat × Nat} {v : W64}
    (h : Ready s k [a, b]) (hroom : hasRoom k sel) (hcol : c0.toNat ≤ 511)
    (hcount : maskCounts kind (k.rx a).toNat (k.rx b).toNat = some c) (hv : maskPayload kind r0 c0 c = v) :
    exec (.cqpm sel a b kind r0 c0) s = .next (upd s (go (pushed k sel.toNat { kind := .maskDesc, val := v }) 8)) := by
  have hgood : (decide (2 < sel.toNat) || decide (511 < c0.toNat)) = false := by simp [hroom.1, hcol]
  refine onDecode_ready h (operand_good hgood) ?_
  simp only [hcount, hv]
  exact pushCtq_room 8 _ hroom

end

/-- Settles O5: each form passes its checks and does what its row says. -/
theorem queueInstructions : Obligations.QueueInstructions := by
  intro i rs P f s k hform hready hP
  cases hform with
  | cqp sel =>
    exact onDecode_ready hready (operand_good (decide_eq_false (Nat.not_lt.mpr hP.1))) (pushCtq_room 4 _ hP)
  | cqpb sel a =>
    have hval : (if k.rx a ≠ 0 then 1 else 0 : W64) = if k.rx a = 0 then 0 else 1 := ite_not ..
    refine onDecode_ready hready (operand_good (decide_eq_false (Nat.not_lt.mpr hP.1))) ?_
    rw [hval]
    exact pushCtq_room 4 _ hP
  | firstn =>
    obtain ⟨hroom, hcol, hn⟩ := hP
    exact execCqpm_pushes hready hroom hcol (if_pos hn) (by simp [maskPayload])
  | rows =>
    obtain ⟨hroom, hcol, hn⟩ := hP
    exact execCqpm_pushes hready hroom hcol (if_pos hn) (by simp [maskPayload])
  | cols =>
    obtain ⟨hroom, hcol, hn⟩ := hP
    exact execCqpm_pushes hready hroom hcol (if_pos hn) (by simp [maskPayload])
  | rect =>
    obtain ⟨hroom, hcol, hn⟩ := hP
    exact execCqpm_pushes hready hroom hcol (if_pos hn) (by simp [maskPayload])
  | rqpop | npop => exact onSlice_ready hready (by simp only [hP]; rfl)
  | bnd sel n =>
    have hone : sel ≠ 3 := fun h => by subst h; exact absurd hP (by decide)
    exact onDecode_ready hready (operand_good (decide_eq_false (by omega))) (by simp only [hone, if_false]; rfl)
  | bndAll n =>
    have hall : decide (3 < (3 : Reg).toNat) = false := rfl
    exact onDecode_ready hready (operand_good hall) rfl
  | fmtp =>
    obtain ⟨hgood, hroom⟩ := hP
    exact onDecode_ready hready (operand_good hgood) (if_pos hroom)

end Sys2Proof.Claims
end

section
/-! SUPPORT. The waits of the slice for the registers of outstanding loads, table by table (O4). -/

namespace Sys2Proof.Claims
open Sys2Proof Sys2Proof.Machine

section
variable {s : State} {k : Task} {i : Instr}

theorem scalar_waits {c : Scalar} (h : IsScalar i c) (hk : find s.tasks s.cur = some k)
    (hz : k.hazard (c.d :: c.regs) = true) : exec i s = .next s := by
  cases h with
  | shli d a n hn | shri d a n hn | sari d a n hn | qdepth d n hn =>
    exact onDecode_waits s k _ _ _ hk (operand_good (decide_eq_false (Nat.not_lt.mpr hn))) hz
  | _ => exact onSlice_waits s k _ _ hk hz

theorem queueOp_waits {rs : List Reg} {P : Task → Prop} {f : Task → Task} (h : IsQueueOp i rs P f) (hP : P k)
    (hk : find s.tasks s.cur = some k) (hz : k.hazard rs = true) : exec i s = .next s := by
  cases h with
  | cqp | cqpb => exact onDecode_waits s k _ _ _ hk (operand_good (decide_eq_false (Nat.not_lt.mpr hP.1))) hz
  | firstn | rows | cols | rect =>
    obtain ⟨⟨hsel, -⟩, hcol, -⟩ := hP
    exact onDecode_waits s k _ _ _ hk (operand_good (by simp [hsel, hcol])) hz
  | rqpop | npop => exact onSlice_waits s k _ _ hk hz
  | fmtp => exact onDecode_waits s k _ _ _ hk (operand_good hP.1) hz
  | bnd | bndAll => cases hz

theorem contextOp_waits {rs : List Reg} {P : State → Task → Prop} {f : State → Task → Task} (h : IsContextOp i rs P f) (hP : P s k)
    (hk : find s.tasks s.cur = some k) (hz : k.hazard rs = true) : exec i s = .next s := by
  cases h with
  | nop | yield | tend | tendDone | hrel | cbclr | join | fenceM => cases hz
  | tstat | tstatP => exact onDecode_waits s k _ _ _ hk (by simp [noFw, hP]) hz
  | cbw => exact onDecode_waits s k _ _ _ hk (operand_good (by simpa using hP)) hz
  | cepop | semrd | semw => exact onSlice_waits s k _ _ hk hz
  | fflags d =>
    show execSrd d 0 s = _
    simp [execSrd, hk, hz, sysNamed]
  | srd d n =>
    obtain ⟨-, hn, hname⟩ := hP
    show execSrd d n s = _
    simp [execSrd, hk, hz, hname, Nat.not_le.mpr hn]
  | swr a n =>
    obtain ⟨hn, hname⟩ := writable_named hP
    show execSwr a n s = _
    simp [execSwr, hk, hz, hname, hP, Nat.not_le.mpr hn]

theorem transfer_waits {x : Transfer} (h : IsTransfer i x) (hok : x.ok k) (hk : find s.tasks s.cur = some k)
    (hz : k.hazard x.regs = true) : exec i s = .next s := by
  cases h with
  | br | brt | endl => cases hz
  | call | ret | beq | bne | blt | bge | bltu | bgeu => exact onSlice_waits s k _ _ hk hz
  | brtNz | brtZ | loop => exact onDecode_waits s k _ _ _ hk (operand_good (decide_eq_false (Nat.not_lt.mpr hok))) hz

/-- A scalar load runs `loadOf` on its size and extension. -/
theorem exec_load {f : SM} {n : Nat} {sg : Bool} (h : IsLoad i f n sg) : exec i s = loadOf f n sg s := by
  cases h <;> rfl

/-- A scalar store runs `storeOf` on its size. -/
theorem exec_store {f : SM} {n : Nat} (h : IsStore i f n) : exec i s = storeOf f n s := by
  cases h <;> rfl

theorem smAccess_waits {f : SM} (n : Nat) (load : Bool) (goOn : Task → Nat → State) (hk : find s.tasks s.cur = some k)
    (hz : k.hazard [f.xo, f.x] = true) : smAccess f n load s goOn = .next s := by
  simp only [smAccess, hk, hz, if_true]

theorem routed_waits {q : Nat} (h : i.home = some q) (ht : s.turn = .slice) (hk : find s.tasks s.cur = some k)
    (hcheck : i.check k = none) (hz : k.hazard [i.captures.2.1, i.captures.2.2] = true) : exec i s = .next s := by
  obtain ⟨body, hbody⟩ := exec_eq_routed h
  rw [hbody, routed_slice i q body s ht]
  simp only [routeInstr, routeTo, hk, hcheck, hz, if_true]

end

/-- Settles O4, table by table: a form that nothing else keeps back comes to the test of its registers. -/
theorem loadHazard : Obligations.LoadHazard := by
  intro i rs s k hk huses hz
  cases huses with
  | scalar _ _ h => exact scalar_waits h hk hz
  | queue _ _ _ _ h hP => exact queueOp_waits h hP hk hz
  | context _ _ _ _ h hP => exact contextOp_waits h hP hk hz
  | transfer _ _ h hok => exact transfer_waits h hok hk hz
  | load _ _ _ _ h => exact (exec_load h).trans (smAccess_waits _ _ _ hk hz)
  | store _ _ _ h => exact (exec_store h).trans (smAccess_waits _ _ _ hk hz)
  | routed _ _ h ht hcheck => exact routed_waits h ht hk hcheck hz
  | tsettle _ _ _ hfw => exact onDecode_waits s k _ _ _ hk (by simp [noFw, hfw]) hz
  | clz | ctz | popc | xlt | xltn | nrel | shand | sems | cego | cegoT | baro => exact onSlice_waits s k _ _ hk hz

end Sys2Proof.Claims
end

section
/-! SUPPORT. The return of a load's data (O10), and the bytes that a write leaves in memory (O11). -/

namespace Sys2Proof.Machine
open Sys2Proof.Claims

/-! ### Little-endian values (R4) -/

theorem addrs_eq (a n : Nat) : addrs a n = (List.range n).map (a + ·) := by
  refine List.ext_getElem? fun i => ?_
  rw [getElem?_addrs, List.getElem?_map]
  split <;> simp [*]

theorem sumNat_eq (l : List Nat) : sumNat l = l.sum := by
  induction l with
  | nil => rfl
  | cons a r ih => rw [sumNat, ih, List.sum_cons]

/-- The value of bytes is the sum of each byte at its place, the first the least significant. -/
theorem wordOfBytes_map_range (g : Nat → Byte) (n : Nat) :
    wordOfBytes ((List.range n).map g) = sumNat ((List.range n).map fun j => (g j).toNat * 2 ^ (8 * j)) := by
  induction n generalizing g with
  | zero => rfl
  | succ n ih =>
    have hplace : (fun j => (g j).toNat * 2 ^ (8 * j)) ∘ Nat.succ = fun j => 256 * ((g (j + 1)).toNat * 2 ^ (8 * j)) :=
      funext fun j => by rw [Function.comp_apply, Nat.succ_eq_add_one, Nat.mul_succ, Nat.pow_add]; ring
    rw [List.range_succ_eq_map, List.map_cons, List.map_map, List.map_cons, List.map_map, wordOfBytes, sumNat, hplace, sumNat_eq,
      List.sum_map_mul_left, ← sumNat_eq, Nat.mul_zero, Nat.pow_zero, Nat.mul_one, ← ih fun j => g (j + 1)]
    rfl

end Sys2Proof.Machine

namespace Sys2Proof.Claims
open Sys2Proof Sys2Proof.Machine

/-! ### The return of a load (R164, R165) -/

/-- With nothing ahead of it in its stream a load sees memory, and what it has read before (R342). -/
theorem loadByte_front (s : State) (seen : List (Nat × Byte × Bool)) (x : Nat) : loadByte s [] seen x = loaded s seen x := by
  have hmemory : seenByte s [] x = (s.byte x, s.bad x) := rfl
  cases hseen : seen.find? fun b => b.1 == x with
  | none => simp only [loadByte, loaded, hseen, hmemory]
  | some b => simp only [loadByte, loaded, hseen]

/-- The value of a load of n bytes as an integer is its two's complement where it is signed (R164). -/
theorem extend_eq (n : Nat) (sg : Bool) (v : Nat) :
    extend n sg v = BitVec.ofInt 64 (if sg ∧ 2 ^ (8 * n - 1) ≤ v then (v : Int) - 2 ^ (8 * n) else v) := by
  have hplain : BitVec.ofInt 64 (v : Int) = BitVec.ofNat 64 v := BitVec.ofInt_natCast ..
  simp only [extend, Bool.and_eq_true, decide_eq_true_eq]
  split
  · rfl
  · exact hplain.symm

/-- Settles O10: nothing is ahead of the load, none of its bytes is poisoned, and the value is that of its bytes in order. -/
theorem loadReturns : Obligations.LoadReturns := by
  intro s t k d a n cls pc sg seen r hk hslice _ _ hheld hgood
  have hbytes : (addrs a n).map (loadByte s [] seen) = (List.range n).map fun j => loaded s seen (a + j) := by
    rw [addrs_eq, List.map_map]
    exact List.map_congr_left fun j _ => loadByte_front s seen (a + j)
  have hany : ((List.range n).map fun j => loaded s seen (a + j)).any (fun b => b.2) = false := by
    simpa [List.any_eq_false] using hgood
  show execLoadDataReturn t 0 s = _
  simp only [execLoadDataReturn, hk, hslice, List.take_zero, List.getElem?_cons_zero, mayPerform, hheld, hbytes, hany, dropAt,
    Bool.not_true, Bool.or_self, Bool.false_eq_true, if_false, List.map_map]
  rw [extend_eq, ← wordOfBytes_map_range (fun j => (loaded s seen (a + j)).1)]
  rfl

/-! ### One byte (R182, R417) -/

theorem setByte_unmapped {s : State} {a : Nat} {v : Byte} (h : mapped a = false) : s.setByte a v = s := by simp [State.setByte, h]

theorem byte_setByte (s : State) (a b : Nat) (v : Byte) :
    (s.setByte a v).byte b = if b = a ∧ mapped a = true then v else s.byte b := by
  cases ha : mapped a with
  | false => simp [setByte_unmapped ha]
  | true => by_cases hb : b = a <;> simp [State.setByte, State.byte, ha, hb]

theorem bad_setByte (s : State) (a b : Nat) (v : Byte) :
    (s.setByte a v).bad b = if b = a ∧ mapped a = true then false else s.bad b := by
  cases ha : mapped a with
  | false => simp [setByte_unmapped ha]
  | true => by_cases hb : b = a <;> simp [State.setByte, State.bad, ha, hb]

theorem byteReadWrite : ByteReadWrite := fun s a b v => ⟨byte_setByte s a b v, bad_setByte s a b v⟩

/-! ### The bytes of a write, in order -/

theorem store_eq (s : State) (cells : List (Nat × Byte)) :
    s.store cells = { s with mem := (s.store cells).mem, poison := (s.store cells).poison } := by
  induction cells generalizing s with
  | nil => rfl
  | cons c r ih =>
    have hbyte : s.setByte c.1 c.2 = { s with mem := (s.setByte c.1 c.2).mem, poison := (s.setByte c.1 c.2).poison } := by
      unfold State.setByte
      split <;> rfl
    rw [State.store, ih, hbyte]

/-- Of the writes to one address the last leaves its byte. -/
theorem lastByte_cons (c : Nat × Byte) (r : List (Nat × Byte)) (x : Nat) :
    lastByte (c :: r) x = (lastByte r x).or (if c.1 = x then some c.2 else none) := by
  have hfold (v : Option Byte) : r.foldl (fun v c => if c.1 = x then some c.2 else v) v = (lastByte r x).or v := by
    unfold lastByte
    induction r generalizing v with
    | nil => rfl
    | cons d r ih =>
      rw [List.foldl_cons, List.foldl_cons, ih, ih (if d.1 = x then some d.2 else none)]
      split <;> simp
  exact hfold _

theorem byte_store {s : State} {cells : List (Nat × Byte)} (h : ∀ c ∈ cells, mapped c.1 = true) (x : Nat) :
    (s.store cells).byte x = (lastByte cells x).getD (s.byte x) := by
  induction cells generalizing s with
  | nil => rfl
  | cons c r ih =>
    rw [State.store, ih fun d hd => h d (List.mem_cons_of_mem _ hd), lastByte_cons, byte_setByte]
    simp only [h c List.mem_cons_self, and_true, eq_comm (a := x)]
    cases lastByte r x <;> split <;> simp

theorem bad_store {s : State} {cells : List (Nat × Byte)} (h : ∀ c ∈ cells, mapped c.1 = true) (x : Nat) :
    (s.store cells).bad x = if (lastByte cells x).isSome then false else s.bad x := by
  induction cells generalizing s with
  | nil => rfl
  | cons c r ih =>
    rw [State.store, ih fun d hd => h d (List.mem_cons_of_mem _ hd), lastByte_cons, bad_setByte]
    simp only [h c List.mem_cons_self, and_true, eq_comm (a := x)]
    cases lastByte r x <;> by_cases hx : c.1 = x <;> simp [hx]

/-- A write that goes where there is memory leaves no record (R182). -/
theorem perform_mapped {s : State} {cells : List (Nat × Byte)} (h : ∀ c ∈ cells, mapped c.1 = true) : s.perform cells = s.store cells := by
  have hnone : cells.find? (fun c => !mapped c.1) = none := List.find?_eq_none.mpr fun c hc => by simp [h c hc]
  simp only [State.perform, hnone]

/-! ### Items of a stream (R329) -/

/-- A write that is performed in whole leaves nothing behind. -/
theorem splitWrite_whole (whole : Bool) (unit : Nat) (cells : List (Nat × Byte)) (cls wid pos : Nat) :
    splitWrite whole unit 0 cells cls wid pos = (none, cells) := by
  simp [splitWrite, whichItem]

/-- The bytes of one 8-byte chunk go together. -/
theorem whichItem_chunk {which : Nat} (h : which ≠ 0) (l : List Nat) {a b : Nat} (hab : a / 8 = b / 8) :
    whichItem false 8 which l a = whichItem false 8 which l b := by
  simp [whichItem, h, hab]

section
variable {s : State} {t n : Nat} {k : Task} {cells : List (Nat × Byte)} {cls wid pos : Nat}

theorem performSlice_whole (hitem : k.slice[n]? = some (.write cells cls wid pos))
    (hmay : mayPerform (.write cells cls wid pos) (k.slice.take n) = true) (hfree : ∀ c ∈ cells, s.heldAt c.1 = false) :
    performSlice s t k n 0 = (s.setTask t { k with slice := dropFences (dropAt k.slice n) }).perform cells := by
  have hheld : cells.any (fun c => s.heldAt c.1) = false := List.any_eq_false.mpr fun c hc => by simp [hfree c hc]
  simp [performSlice, hitem, splitWrite_whole, hmay, hheld, leaveItem]

theorem performStq_writes {which : Nat} {now : List (Nat × Byte)} {left : Option Access}
    (hitem : k.stqOut[n]? = some (.write cells cls wid pos)) (hmay : mayPerform (.write cells cls wid pos) (k.stqOut.take n) = true)
    (hsplit : splitWrite false 8 which cells cls wid pos = (left, now)) (hfree : ∀ c ∈ now, s.heldAt c.1 = false) :
    performStq s t k n which = (s.setTask t { k with stqOut := leaveItem k.stqOut n left }).perform now := by
  have hheld : now.any (fun c => s.heldAt c.1) = false := List.any_eq_false.mpr fun c hc => by simp [hfree c hc]
  simp [performStq, hitem, hsplit, hmay, hheld]

end

/-- ACCESS_PERFORMED of a stream of writes. -/
theorem exec_accessPerformed {s : State} {t : Nat} {k : Task} (hk : find s.tasks t = some k) (n which : Nat) :
    exec (.accessPerformed t n ⟨0, which⟩) s = .next (performSlice s t k n which) ∧
      exec (.accessPerformed t n ⟨2, which⟩) s = .next (performStq s t k n which) := by
  constructor <;> show execAccessPerformed t n _ s = _ <;> simp [execAccessPerformed, hk]

theorem writePerformed : WritePerformed := by
  intro s t n stream k cells cls wid pos hk hstream hitem hmay hcells
  have hmapped : ∀ c ∈ cells, mapped c.1 = true := fun c hc => (hcells c hc).1
  have hfree : ∀ c ∈ cells, s.heldAt c.1 = false := fun c hc => (hcells c hc).2
  refine ⟨(s.setTask t (withStream k stream (dropFences (dropAt (streamOf k stream) n)))).store cells, ?run, byte_store hmapped,
    bad_store hmapped, store_eq _ cells⟩
  rw [← perform_mapped hmapped]
  rcases hstream with rfl | rfl
  · exact (exec_accessPerformed hk n 0).1.trans (congrArg _ (performSlice_whole hitem hmay hfree))
  · exact (exec_accessPerformed hk n 0).2.trans (congrArg _ (performStq_writes hitem hmay (splitWrite_whole ..) hfree))

theorem writePerformedInPart : WritePerformedInPart := by
  intro s t n which k cells cls wid pos now left hk hitem hmay hwhich hnow hleft hsome hcells
  have hmapped : ∀ c ∈ now, mapped c.1 = true := fun c hc => (hcells c hc).1
  have hfree : ∀ c ∈ now, s.heldAt c.1 = false := fun c hc => (hcells c hc).2
  have hsplit : splitWrite false 8 which cells cls wid pos = (some (.write left cls wid pos), now) := by
    simp [splitWrite, ← hleft, ← hnow, hsome]
  refine ⟨fun c hc d hd hchunk => ?apart,
    (s.setTask t { k with stqOut := setAt k.stqOut n (.write left cls wid pos) }).store now, ?run, byte_store hmapped, store_eq _ now⟩
  case apart =>
    subst hnow hleft
    have hin := (List.mem_filter.mp hc).2
    have hout := (List.mem_filter.mp hd).2
    rw [whichItem_chunk hwhich _ hchunk] at hin
    simp [hin] at hout
  case run =>
    rw [← perform_mapped hmapped]
    exact (exec_accessPerformed hk n which).2.trans (congrArg _ (performStq_writes hitem hmay hsplit hfree))

/-- Settles O11: what is performed is stored byte by byte, and the last write to an address stays. -/
theorem writesPerform : Obligations.WritesPerform := ⟨writePerformed, writePerformedInPart, byteReadWrite⟩

end Sys2Proof.Claims
end

section
/-! SUPPORT. Transfers of control: the jump from a context that has written what it links or counts, the form of each transfer, and what a
prepared branch may bring into the instruction cache (O8). -/

namespace Sys2Proof.Claims
open Sys2Proof Sys2Proof.Machine

/-! ### Targets (R26, R166 to R171) -/

theorem plus_word (k : Task) (d : Int) : wordTarget k d = away k d := by
  rw [wordTarget, plus, away, Int.mul_comm]

/-- LOOP goes past the ENDL that its displacement names. -/
theorem plus_word_four (k : Task) (d : Int) : plus (wordTarget k d) 4 = away k (d + 1) := by
  simp only [wordTarget, plus, away]
  omega

/-! ### The jump (R45, R153) -/

/-- The machine u, in which the current task has gone from k to k1 and fetches as before, is where a transfer from s jumps. -/
structure JumpsFrom (s u : State) (k k1 : Task) : Prop where
  cur : u.cur = s.cur
  task : u.task s.cur = k1
  moves : ∀ k2, u.setTask s.cur k2 = upd s k2
  fetches : ∀ a, u.fetch k1 a = s.fetch k a

section
variable {s u : State} {k k1 : Task}

theorem jumpsFrom_self (hk : find s.tasks s.cur = some k) : JumpsFrom s s k k :=
  ⟨rfl, task_of_find s s.cur k hk, fun _ => rfl, fun _ => rfl⟩

theorem jumpsFrom_upd (h : ∀ a, s.fetch k1 a = s.fetch k a) : JumpsFrom s (upd s k1) k k1 :=
  ⟨rfl, task_upd k1, fun _ => setTask_upd k1 _, h⟩

/-- Where the task may land, no landing check fails (R45). -/
theorem landing_none {a : Nat} (h : JumpsFrom s u k k1) (hland : MayLand s k a) : u.landing k1 a = none := by
  simp only [State.landing, h.fetches]
  cases hw : s.fetch k (a - 4) with
  | none => simp
  | some w =>
    obtain ⟨hword, hpfx⟩ := hland w hw
    rw [Option.getD_some, if_neg hword, if_neg]
    rintro ⟨hp, hno⟩
    obtain ⟨h8, v, hv, hv1⟩ := hpfx hp
    exact hno ⟨h8, by rw [hv]; exact hv1⟩

theorem landing_word {a w : Nat} (h : JumpsFrom s u k k1) (h4 : a % 8 = 4) (hw : s.fetch k (a - 4) = some w) (h1 : w % 4 = 1) :
    u.landing k1 a = some (0x01, a - 4) := by
  simp only [State.landing, h.fetches, hw, Option.getD_some]
  exact if_pos ⟨h4, h1⟩

theorem landing_prefix {a w : Nat} (h : JumpsFrom s u k k1) (hw : s.fetch k (a - 4) = some w) (h2 : w % 4 = 2)
    (hno : a % 8 = 0 → ∀ v, s.fetch k (a - 8) = some v → v % 4 ≠ 1) : u.landing k1 a = some (0x02, a - 4) := by
  have hfirst : ¬(a % 8 = 0 ∧ (s.fetch k (a - 8)).getD 0 % 4 = 1) := fun ⟨h8, hv⟩ => by
    cases hf : s.fetch k (a - 8) with
    | none => simp [hf] at hv
    | some v => exact hno h8 v hf (by simpa [hf] using hv)
  simp only [State.landing, h.fetches, hw, Option.getD_some]
  rw [if_neg (by omega), if_pos ⟨h2, hfirst⟩]

/-- A jump into the image where the landing check passes. -/
theorem jump_to {a : Nat} (h : JumpsFrom s u k k1) (hf : (s.fetch k a).isSome) (hl : u.landing k1 a = none) :
    u.jump a = upd s { k1 with pc := a, waitQ := none } := by
  obtain ⟨w, hw⟩ := Option.isSome_iff_exists.mp hf
  simp only [State.jump, h.cur, h.task, h.fetches, hw, hl, h.moves]

/-- A jump into the image where the landing check raises its cause. -/
theorem jump_raises {a b : Nat} {c : Byte} (h : JumpsFrom s u k k1) (hf : (s.fetch k a).isSome) (hl : u.landing k1 a = some (c, b)) :
    u.jump a = (upd s { k1 with pc := a, waitQ := none }).slip c b 0 := by
  obtain ⟨w, hw⟩ := Option.isSome_iff_exists.mp hf
  simp only [State.jump, h.cur, h.task, h.fetches, hw, hl, h.moves]

theorem jump_outside {a : Nat} (h : JumpsFrom s u k k1) (hf : s.fetch k a = none) :
    u.jump a = (upd s { k1 with pc := a, waitQ := none }).slip 0x0A a 0 := by
  simp only [State.jump, h.cur, h.task, h.fetches, hf, h.moves]

/-- A fault of the landing is one at the target: its transfer has completed. -/
theorem slip_at_target (a : Nat) (c : Byte) (b : Nat) :
    Host.Outcome.next ((upd s { k1 with pc := a, waitQ := none }).slip c b 0) =
      faults (upd s { k1 with pc := a, waitQ := none }) { k with pc := a } c b 0 := by
  rw [State.slip, faults]
  exact congrArg (fun n => Host.Outcome.next ((upd s _).take s.cur _ n)) (congrArg Task.pc (task_upd _))

end

/-! ### The transfers, form by form -/

/-- Fetch looks at nothing of a context but where it runs and whose packet it is. -/
theorem fetch_congr {s : State} {k k1 : Task} (hfw : k1.fw = k.fw) (hdie : k1.die = k.die) (hcore : k1.core = k.core)
    (hpacket : k1.packet = k.packet) (a : Nat) : s.fetch k1 a = s.fetch k a := by
  have hkey : k1.coreKey = k.coreKey := by rw [Task.coreKey, Task.coreKey, hdie, hcore]
  have hslot : s.slotOf k1 = s.slotOf k := by rw [State.slotOf, State.slotOf, hpacket]
  have hbase : s.imageBase k1 = s.imageBase k := by rw [State.imageBase, State.imageBase, hfw, hkey, hslot]
  have hlen : s.imageLen k1 = s.imageLen k := by rw [State.imageLen, State.imageLen, hfw, hkey, hslot]
  have hat : s.imageAt k1 a = s.imageAt k a := by rw [State.imageAt, State.imageAt, hfw, hslot]
  rw [State.fetch, State.fetch, hbase, hlen, hat]

section
variable {s : State} {k : Task} {i : Instr} {x : Transfer}

/-- A transfer whose fields are in their limits jumps to its target, from the context with what it writes first, or goes on. -/
def Runs (i : Instr) (x : Transfer) (s : State) (k : Task) : Prop :=
  ∃ u, JumpsFrom s u k (x.first k) ∧ (x.taken k → exec i s = .next (u.jump (x.target k))) ∧
    (¬x.taken k → exec i s = .next (upd s (go (x.first k) 4)))

/-- The conditional branches (R167). -/
theorem branch_transfers {regs : List Reg} {p : Task → Bool} {taken : Task → Prop} {target : Task → Nat} {t : Task → Nat}
    (h : Ready s k regs) (hi : exec i s = branch s regs p target) (hp : p k = true ↔ taken k) (ht : target k = t k) :
    Runs i { regs := regs, taken := taken, target := t } s k := by
  rw [branch_runs s k regs p target h.1 h.2] at hi
  refine ⟨s, jumpsFrom_self h.1, fun htaken => ?_, fun hno => ?_⟩
  · rw [hi, if_pos (hp.mpr htaken), ht]
  · rw [hi, if_neg fun hpk => hno (hp.mp hpk)]
    rfl

/-- The branches on a b register (R169). -/
theorem brt_transfers {regs : List Reg} {bd : Reg} {p : Task → Bool} {taken : Task → Prop} (h : Ready s k regs)
    (hbd : bd.toNat ≤ 7) (hi : exec i s = brtForm s bd regs p) (hp : p k = true ↔ taken k) :
    Runs i { regs := regs, ok := fun _ => bd.toNat ≤ 7, taken := taken, target := fun k => (get 0 k.b bd.toNat).toNat } s k := by
  rw [brtForm, onDecode_runs s k regs _ _ h.1 (operand_good (decide_eq_false (Nat.not_lt.mpr hbd))) h.2] at hi
  refine ⟨s, jumpsFrom_self h.1, fun htaken => ?_, fun hno => ?_⟩
  · rw [hi, if_pos (hp.mpr htaken)]
    rfl
  · rw [hi, if_neg fun hpk => hno (hp.mp hpk)]
    rfl

theorem endl_transfers {n : Reg} {d : BitVec 12} {x : Transfer} (hform : IsTransfer (.endl n d) x) (h : Ready s k []) (hn : n.toNat ≤ 3) :
    Runs (.endl n d) x s k := by
  cases hform
  have hi := onDecode_runs s k [] (operand (decide (3 < n.toNat))) (fun k =>
    if (k.rlc n).toNat ≤ 1 then s.now ((k.wlc n 0).adv 4)
    else (s.now (k.wlc n (k.rlc n - 1))).jump (wordTarget k d.toInt)) h.1 (operand_good (decide_eq_false (Nat.not_lt.mpr hn))) h.2
  refine ⟨upd s _, jumpsFrom_upd fun a => rfl, fun htaken => hi.trans ?_, fun hno => hi.trans ?_⟩
  · have hcount : ¬(k.rlc n).toNat ≤ 1 := Nat.not_le.mpr htaken
    have htaken' : 1 < (get 0 k.lc n.toNat).toNat := htaken
    rw [if_neg hcount, plus_word]
    simp only [htaken', if_true]
    rfl
  · have hcount : (k.rlc n).toNat ≤ 1 := Nat.not_lt.mp hno
    have hno' : ¬1 < (get 0 k.lc n.toNat).toNat := hno
    rw [if_pos hcount]
    simp only [hno', if_false]
    rfl

theorem loop_transfers {n b : Reg} {d : BitVec 12} {x : Transfer} (hform : IsTransfer (.loop n b d) x) (h : Ready s k [b])
    (hn : n.toNat ≤ 3) : Runs (.loop n b d) x s k := by
  cases hform
  have hi := onDecode_runs s k [b] (operand (decide (3 < n.toNat))) (fun k =>
    if k.rx b = 0 then (s.now (k.wlc n (k.rx b))).jump (plus (wordTarget k d.toInt) 4)
    else s.now ((k.wlc n (k.rx b)).adv 4)) h.1 (operand_good (decide_eq_false (Nat.not_lt.mpr hn))) h.2
  refine ⟨upd s _, jumpsFrom_upd fun a => rfl, fun htaken => hi.trans ?_, fun hno => hi.trans ?_⟩
  · rw [if_pos htaken, plus_word_four]
    rfl
  · rw [if_neg hno]
    rfl

theorem transfer_runs (h : IsTransfer i x) (hready : Ready s k x.regs) (hok : x.ok k) : Runs i x s k := by
  obtain ⟨hk, hz⟩ := hready
  cases h with
  | br d =>
    refine ⟨s, jumpsFrom_self hk, fun _ => ?_, fun hno => absurd trivial hno⟩
    exact (onSlice_runs s k [] _ hk hz).trans (by rw [plus_word])
  | call d =>
    refine ⟨upd s _, jumpsFrom_upd (fetch_congr (wx_fw ..) (wx_die ..) (wx_core ..) (wx_packet ..)), fun _ => ?_,
      fun hno => absurd trivial hno⟩
    exact (onSlice_runs s k [63] _ hk hz).trans (by rw [plus_word]; rfl)
  | ret =>
    refine ⟨s, jumpsFrom_self hk, fun _ => ?_, fun hno => absurd trivial hno⟩
    exact (onSlice_runs s k [63] _ hk hz).trans (congrArg _ (if_neg (not_not_intro hok)))
  | beq | bne | blt | bge | bltu | bgeu => exact branch_transfers ⟨hk, hz⟩ rfl decide_eq_true_iff (plus_word ..)
  | brt => exact brt_transfers ⟨hk, hz⟩ hok rfl (iff_of_true rfl trivial)
  | brtNz | brtZ => exact brt_transfers ⟨hk, hz⟩ hok rfl decide_eq_true_iff
  | loop n b d => exact loop_transfers (.loop n b d) ⟨hk, hz⟩ hok
  | endl n d => exact endl_transfers (.endl n d) ⟨hk, hz⟩ hok

end

theorem jumpsAndBranches : JumpsAndBranches := by
  intro i x s k hform hready hok
  obtain ⟨u, hu, htaken, hno⟩ := transfer_runs hform hready hok
  refine ⟨fun ht hf hland => ?_, hno⟩
  rw [htaken ht, jump_to hu hf (landing_none hu hland)]

theorem landings : Landings := by
  intro i x s k hform hready hok ht
  obtain ⟨u, hu, htaken, -⟩ := transfer_runs hform hready hok
  rw [htaken ht]
  refine ⟨fun hf => ?_, fun w hf h4 hw h1 => ?_, fun w hf hw h2 hno => ?_⟩
  · rw [jump_outside hu hf, slip_at_target]
  · rw [jump_raises hu hf (landing_word hu h4 hw h1), slip_at_target]
  · rw [jump_raises hu hf (landing_prefix hu hw h2 hno), slip_at_target]

/-! ### Prepared branches (R168) -/

theorem sampled_arriveAll (s : State) (l : List Nat) : sampled s (s.arriveAll l) := sampled_each (fun a s => sampled_arrive s a) l s

/-- What arrivals change are the sites. -/
theorem sampled_form {s t : State} (h : sampled s t) : ∃ s0 s1 s2 s3 s4 s5 s6 s7, t =
    { s with site0 := s0, site1 := s1, site2 := s2, site3 := s3, site4 := s4, site5 := s5, site6 := s6, site7 := s7 } :=
  ⟨_, _, _, _, _, _, _, _, h.1⟩

/-- The target's line comes into the cache of its core where it is not there yet and nothing holds its page. -/
theorem preload_cases (s : State) (k : Task) (a : Nat) :
    s.preload k a = s ∨ ∃ l v, s.preload k a = (s.arriveAll l).setCore k.coreKey { s.core k.coreKey with icache := v } := by
  unfold State.preload
  split
  · exact .inl rfl
  · dsimp only
    split
    · exact .inl rfl
    · exact .inr ⟨_, _, rfl⟩

/-- t is s but for the tasks, for lines of the instruction caches, and for the sampling of accesses at the sites. -/
def Preloaded (s t : State) : Prop :=
  t = { s with cores := t.cores, tasks := t.tasks, site0 := t.site0, site1 := t.site1, site2 := t.site2, site3 := t.site3,
               site4 := t.site4, site5 := t.site5, site6 := t.site6, site7 := t.site7 } ∧
    (∀ c, { t.core c with icache := (s.core c).icache } = s.core c) ∧
    ∀ n, { t.site n with sampled := (s.site n).sampled, shadow := (s.site n).shadow } = s.site n

theorem preloaded_setTask {s u : State} (h : Preloaded s u) (t : Nat) (k : Task) : Preloaded s (u.setTask t k) :=
  ⟨(congrArg (State.setTask · t k) h.1).trans rfl, h.2.1, h.2.2⟩

theorem preloaded_preload (s : State) (k : Task) (a : Nat) : Preloaded s (s.preload k a) ∧ (s.preload k a).tasks = s.tasks ∧
    (s.preload k a).cur = s.cur := by
  rcases preload_cases s k a with h | ⟨l, v, h⟩
  · rw [h]
    exact ⟨⟨rfl, fun _ => rfl, fun _ => rfl⟩, rfl, rfl⟩
  · have hsites := (sampled_arriveAll s l).2
    obtain ⟨_, _, _, _, _, _, _, _, hv⟩ := sampled_form (sampled_arriveAll s l)
    rw [hv] at hsites h
    rw [h]
    refine ⟨⟨rfl, fun c => ?_, hsites⟩, rfl, rfl⟩
    rw [core_setCore]
    split
    · next hc => subst hc; rfl
    · rfl

/-- The target of PBR as a word. -/
theorem ofNat_plus (a : Nat) (d : Int) : BitVec.ofNat 64 (plus a d) = BitVec.ofInt 64 ((a : Int) + d) := by
  apply BitVec.eq_of_toNat_eq
  rw [BitVec.toNat_ofNat, BitVec.toNat_ofInt, plus]
  omega

theorem prepareBranch : PrepareBranch := by
  intro s k bd n hready hbd hn
  obtain ⟨hpre, htasks, hcur⟩ := preloaded_preload s k (plus k.pc n.toInt)
  have hrun : exec (.pbr bd n) s = .next ((s.preload k (plus k.pc n.toInt)).setTask s.cur
      (go { k with b := put 0 k.b bd.toNat (BitVec.ofInt 64 ((k.pc : Int) + n.toInt)) } 8)) := by
    rw [← ofNat_plus]
    exact onDecode_ready hready (operand_good (by simp [hbd, hn])) (congrArg (State.setTask _ · _) hcur)
  obtain ⟨hframe, hcores, hsites⟩ := preloaded_setTask hpre s.cur
    (go { k with b := put 0 k.b bd.toNat (BitVec.ofInt 64 ((k.pc : Int) + n.toInt)) } 8)
  refine ⟨_, hrun, hframe.trans ?_, hcores, hsites⟩
  rw [tasks_setTask, htasks]

/-- Settles O8. -/
theorem transfers : Obligations.Transfers := ⟨jumpsAndBranches, landings, prepareBranch⟩

end Sys2Proof.Claims
end

section
/-! SUPPORT. Accesses of the slice: what their arrival may change beside the context, what an access that passes its checks does, and what
one that fails them raises (O9; O31, first part). -/

namespace Sys2Proof.Claims
open Sys2Proof Sys2Proof.Machine

/-! ### Arrivals through a handle (R186) -/

theorem warmed_refl (s : State) : warmed s s := ⟨rfl, fun _ => rfl, fun _ => rfl⟩

/-- What an access may change is the tasks, the cores and the sites. -/
theorem warmed_form {s t : State} (h : warmed s t) : ∃ ks cs s0 s1 s2 s3 s4 s5 s6 s7, t =
    { s with tasks := ks, cores := cs, site0 := s0, site1 := s1, site2 := s2, site3 := s3, site4 := s4, site5 := s5, site6 := s6,
             site7 := s7 } :=
  ⟨_, _, _, _, _, _, _, _, _, _, h.1⟩

theorem warmed_trans {s t u : State} (h : warmed s t) (h' : warmed t u) : warmed s u := by
  refine ⟨?_, fun c => ?_, fun n => ?_⟩
  · obtain ⟨_, _, _, _, _, _, _, _, _, _, ht⟩ := warmed_form h
    obtain ⟨_, _, _, _, _, _, _, _, _, _, hu⟩ := warmed_form h'
    rw [hu, ht]
  · rw [← h.2.1 c, ← h'.2.1 c]
  · rw [← h.2.2 n, ← h'.2.2 n]

theorem warmed_setTask (s : State) (t : Nat) (k : Task) : warmed s (s.setTask t k) := ⟨rfl, fun _ => rfl, fun _ => rfl⟩

theorem warmed_of_sampled {s t : State} (h : sampled s t) : warmed s t := by
  obtain ⟨_, _, _, _, _, _, _, _, rfl⟩ := sampled_form h
  exact ⟨rfl, fun _ => rfl, h.2⟩

theorem warmed_setTlb (s : State) (c : Nat) (l : List TlbEntry) : warmed s (s.setCore c { s.core c with tlb := l }) := by
  refine ⟨rfl, fun d => ?_, fun _ => rfl⟩
  rw [core_setCore]
  split
  · next hd => subst hd; rfl
  · rfl

theorem warmed_touch (s : State) (c : Nat) (h : Handle) (a : Nat) : warmed s (s.touch c h a) := by
  unfold State.touch
  refine warmed_trans ?_ (warmed_of_sampled (sampled_arrive ..))
  split
  · exact warmed_refl s
  · split
    · exact warmed_refl s
    · exact warmed_setTlb ..

/-- An access leaves the tasks alone. -/
theorem touch_tasks (s : State) (c : Nat) (h : Handle) (a : Nat) : (s.touch c h a).tasks = s.tasks := by
  unfold State.touch
  refine (congrArg State.tasks (sampled_arrive ..).1).trans ?_
  split
  · rfl
  · split <;> rfl

/-! ### The checks of a scalar access (R164) -/

section
variable {s : State} {k : Task} {f : SM} {n : Nat} {load : Bool} {goOn : Task → Nat → State}

/-- The slice has room for one more load, or for one more store (R154). -/
def hasSpace (k : Task) (load : Bool) : Prop :=
  if load then (k.slice.filter isLoad).length < 8 else (k.slice.filter isWrite).length < 16

/-- The permission that a load or a store needs. -/
def permits (h : Handle) (load : Bool) : Bool := if load then h.r else h.w

theorem notFull_of_hasSpace (h : hasSpace k load) : (load && decide (8 ≤ (k.slice.filter isLoad).length)) = false ∧
    (!load && decide (16 ≤ (k.slice.filter isWrite).length)) = false := by
  cases load
  · exact ⟨rfl, decide_eq_false (Nat.not_le.mpr h)⟩
  · exact ⟨decide_eq_false (Nat.not_le.mpr h), rfl⟩

section
variable (h : Ready s k [f.xo, f.x]) (hspace : hasSpace k load)
include h hspace

/-- An access that fails a check of its handle raises that check's cause, with its offset. -/
theorem smAccess_faults {c : Byte} (hf : smFault (k.rh f.h) (offset k f) n (permits (k.rh f.h) load) = some c) :
    smAccess f n load s goOn = faults s k c k.pc (BitVec.ofInt 64 (offset k f)) := by
  rw [faults_eq_slip h.1]
  obtain ⟨hload, hstore⟩ := notFull_of_hasSpace hspace
  have hf' : smFault (k.rh f.h) (smOff k f) n (if load = true then (k.rh f.h).r else (k.rh f.h).w) = some c := hf
  simp only [smAccess, h.1, h.2, hload, hstore, hf', Bool.false_eq_true, if_false]
  exact congrArg _ rfl

/-- One that passes them is kept from read-only pages, or issues and arrives at its site. -/
theorem smAccess_passes (hf : smFault (k.rh f.h) (offset k f) n (permits (k.rh f.h) load) = none)
    (hdev : isDevReg (k.rh f.h).base = false) :
    smAccess f n load s goOn =
      if !load && !k.fw && s.readOnly (physical k f) n then faults s k 0x0A k.pc (BitVec.ofInt 64 (offset k f))
      else .next ((goOn k (physical k f)).touch k.coreKey (k.rh f.h) (physical k f)) := by
  rw [faults_eq_slip h.1]
  obtain ⟨hload, hstore⟩ := notFull_of_hasSpace hspace
  have hf' : smFault (k.rh f.h) (smOff k f) n (if load = true then (k.rh f.h).r else (k.rh f.h).w) = none := hf
  simp only [smAccess, h.1, h.2, hload, hstore, hf', hdev, Bool.false_eq_true, if_false]
  exact congrArg _ rfl

end

/-- The three checks pass. -/
theorem smFault_passes (hp : passes k f n fun h => permits h load) :
    smFault (k.rh f.h) (offset k f) n (permits (k.rh f.h) load) = none := by
  obtain ⟨hv, hlow, hhigh, hperm⟩ := hp
  have hrange : ¬(offset k f < 0 ∨ ((k.rh f.h).size : Int) < offset k f + n) := by omega
  simp [smFault, hv, hrange, hperm]

/-- A store of a user context into a page that a slot maps read-only (R58, R85). -/
theorem smAccess_readOnly (h : Ready s k [f.xo, f.x]) (hspace : hasSpace k false) (hp : passes k f n Handle.w)
    (hdev : isDevReg (k.rh f.h).base = false) (hfw : k.fw = false) (hro : s.readOnly (physical k f) n = true) :
    smAccess f n false s goOn = faults s k 0x0A k.pc (BitVec.ofInt 64 (offset k f)) := by
  rw [smAccess_passes h hspace (smFault_passes hp) hdev, if_pos (by simp [hfw, hro])]

theorem smAccess_issues (h : Ready s k [f.xo, f.x]) (hspace : hasSpace k load) (hp : passes k f n fun h => permits h load)
    (hdev : isDevReg (k.rh f.h).base = false) (hro : load = true ∨ k.fw = true ∨ s.readOnly (physical k f) n = false) :
    smAccess f n load s goOn = .next ((goOn k (physical k f)).touch k.coreKey (k.rh f.h) (physical k f)) := by
  rw [smAccess_passes h hspace (smFault_passes hp) hdev, if_neg]
  rcases hro with h | h | h <;> simp [h]

end

/-! ### Issue (R164) -/

theorem smLen_eq (f : SM) : smLen f = lengthOfSM f := by
  unfold smLen lengthOfSM
  cases f.pfx <;> rfl

/-- A value as bytes in order, the least significant at the lowest address (R4). -/
theorem cellsAt_bytesOf (a n w : Nat) :
    cellsAt a (bytesOf n w) = (List.range n).map fun j => (a + j, BitVec.ofNat 8 (w / 2 ^ (8 * j))) := by
  induction n generalizing a w with
  | zero => rfl
  | succ n ih =>
    have hnext : (fun j => (a + j, BitVec.ofNat 8 (w / 2 ^ (8 * j)))) ∘ Nat.succ =
        fun j => (a + 1 + j, BitVec.ofNat 8 (w / 256 / 2 ^ (8 * j))) := funext fun j => by
      rw [Function.comp_apply, Nat.succ_eq_add_one, Nat.mul_succ, Nat.pow_add, Nat.mul_comm (2 ^ (8 * j)), ← Nat.div_div_eq_div_mul,
        Nat.add_assoc, Nat.add_comm 1]
    rw [bytesOf, cellsAt, ih, List.range_succ_eq_map, List.map_cons, List.map_map, hnext, Nat.mul_zero, Nat.pow_zero,
      Nat.div_one, Nat.add_zero a]

theorem loadIssues : LoadIssues := by
  intro i f n sg s k hform hready hspace hpass hdev
  refine ⟨_, (exec_load hform).trans (smAccess_issues (load := true) hready hspace hpass hdev (.inl rfl)),
    warmed_trans (warmed_setTask ..) (warmed_touch ..), ?_⟩
  rw [touch_tasks, ← smLen_eq]
  rfl

theorem storeIssues : StoreIssues := by
  intro i f n s k hform hready hspace hpass hdev hro
  refine ⟨_, (exec_store hform).trans (smAccess_issues (load := false) hready hspace hpass hdev (.inr hro)),
    warmed_trans (warmed_setTask ..) (warmed_touch ..), fun x => ?_, ?_⟩
  · exact byte_congr _ _ (touch_mem ..).1 x
  · rw [touch_tasks, ← smLen_eq, ← cellsAt_bytesOf]
    rfl

/-- Settles O9: an access that passes its checks goes behind those of the slice stream, and its arrival touches no task and no byte. -/
theorem scalarAccesses : Obligations.ScalarAccesses := ⟨loadIssues, storeIssues⟩

/-! ### Faults (R164) -/

/-- A scalar access that the slice has room for runs `smAccess` as a load or as a store. -/
theorem access_runs {i : Instr} {f : SM} {n : Nat} {k : Task}
    (h : (∃ sg, IsLoad i f n sg) ∧ (k.slice.filter isLoad).length < 8 ∨ IsStore i f n ∧ (k.slice.filter isWrite).length < 16) :
    ∃ load, hasSpace k load ∧ (load = true → ∃ sg, IsLoad i f n sg) ∧ (load = false → IsStore i f n) ∧
      ∀ s, ∃ goOn, exec i s = smAccess f n load s goOn := by
  rcases h with ⟨⟨sg, h⟩, hspace⟩ | ⟨h, hspace⟩
  · exact ⟨true, hspace, fun _ => ⟨sg, h⟩, fun hno => (nomatch hno), fun s => ⟨_, exec_load h⟩⟩
  · exact ⟨false, hspace, fun hno => (nomatch hno), fun _ => h, fun s => ⟨_, exec_store h⟩⟩

theorem scalarAccessFaults : ScalarAccessFaults := by
  intro i f n s k hready hform
  obtain ⟨load, hspace, hload, hstore, hruns⟩ := access_runs hform
  obtain ⟨goOn, hrun⟩ := hruns s
  rw [hrun]
  refine ⟨fun hv => ?_, fun hv hout => ?_, fun hv hlow hhigh hr hw => ?_⟩
  · exact smAccess_faults hready hspace (by simp [smFault, hv])
  · exact smAccess_faults hready hspace (by simp [smFault, hv, hout])
  · have hrange : ¬(offset k f < 0 ∨ ((k.rh f.h).size : Int) < offset k f + n) := by omega
    cases load with
    | true =>
      obtain ⟨sg, hl⟩ := hload rfl
      exact smAccess_faults hready hspace (by simp [smFault, hv, hrange, permits, hr sg hl])
    | false =>
      rcases hw (hstore rfl) with hno | ⟨hfw, hdev, hro⟩
      · exact smAccess_faults hready hspace (by simp [smFault, hv, hrange, permits, hno])
      · cases hperm : (k.rh f.h).w with
        | false => exact smAccess_faults hready hspace (by simp [smFault, hv, hrange, permits, hperm])
        | true => exact smAccess_readOnly hready hspace ⟨hv, hlow, hhigh, hperm⟩ hdev hfw hro

end Sys2Proof.Claims
end

section
/-! SUPPORT. Vector accesses: the elements that an access list moves and where each lies, and a head that finds a fault (O31). -/

namespace Sys2Proof.Machine

/-! ### Units that pass between tasks (R358) -/

theorem claim_tasks (s : State) (t : Nat) (k : Task) (u : Nat) : (s.claim t k u).2.tasks = s.tasks := by
  unfold State.claim
  dsimp only
  (repeat' split) <;> rfl

/-- A head that claims its units changes no context. -/
theorem claims_tasks (s : State) (t : Nat) (k : Task) (l : List Nat) : (s.claims t k l).2.tasks = s.tasks := by
  induction l generalizing s with
  | nil => rfl
  | cons u r ih => exact (ih _).trans (claim_tasks s t k u)

/-! ### A fault of a head (R347) -/

/-- The context k whose head e of queue q, its entries popped, has raised a fault. -/
def Task.faulted (k : Task) (hs : Bool) (q : Nat) (e : Entry) (npop : Nat) (vals : List CtqEntry) (f : FaultRec) : Task :=
  let qs := k.set hs
  let rq := { qs.rq q with entries := { e with popped := some vals } :: (qs.rq q).entries.drop 1 }
  k.withSet hs (((qs.setCtq q ((qs.ctq q).drop npop)).setRq q rq).setRq q { rq with fault := some f })

theorem raisePopped_eq (s : State) (t : Nat) (hs : Bool) (q : Nat) (e : Entry) (npop : Nat) (vals : List CtqEntry) (c : Byte) (d : W64) :
    s.raisePopped t hs q e npop vals c d = s.setTask t ((s.task t).faulted hs q e npop vals
      { cause := c, addr := e.pc, data := d, src := q + 1, await := 0, pos := e.pos }) := by
  simp only [State.raisePopped, State.raise, task_setTask, if_true, setTask_setTask, set_withSet, withSet_withSet, rq_setRq,
    Task.faulted]

theorem faulted_fault (k : Task) (hs : Bool) (q : Nat) (e : Entry) (npop : Nat) (vals : List CtqEntry) (f : FaultRec) :
    (((k.faulted hs q e npop vals f).set hs).rq q).fault = some f := by
  simp only [Task.faulted, set_withSet, rq_setRq]

/-! ### The checks of an access list (R249, R250) -/

theorem accFault_cause {h : Handle} {perm : Bool} {l : List Acc} {c : Byte} {d : W64} (hf : accFault h perm l = some (c, d)) :
    c = 0x08 ∨ c = 0x0A ∨ c = 0x09 := by
  unfold accFault at hf
  dsimp only at hf
  split at hf
  · cases hf; exact .inl rfl
  · split at hf
    · cases hf; exact .inr (.inl rfl)
    · obtain ⟨a, -, ha⟩ := Option.map_eq_some_iff.mp hf
      cases ha; exact .inr (.inr rfl)

/-- Accesses that pass the checks lie within their handle. -/
theorem accFault_within {h : Handle} {perm : Bool} {l : List Acc} (hf : accFault h perm l = none) {a : Acc} (ha : a ∈ l) : 0 ≤ a.off := by
  unfold accFault at hf
  dsimp only at hf
  split at hf
  · cases hf
  · split at hf
    · cases hf
    · have hin := List.find?_eq_none.mp (Option.map_eq_none_iff.mp hf) a ha
      simp only [Bool.or_eq_true, decide_eq_true_eq, not_or, not_lt] at hin
      exact hin.1

theorem accCheck_fault {x : Hd} {perm : Bool} {l : List Acc} {c : Byte} {d : W64} (h : accFault x.e.h perm l = some (c, d)) :
    accCheck x perm l = some (.fault c d x.s) := by
  simp only [accCheck, h]

theorem accCheck_good {x : Hd} {perm : Bool} {l : List Acc} (h : accFault x.e.h perm l = none) (hdev : isDevReg x.e.h.base = false) :
    accCheck x perm l = none := by
  simp [accCheck, h, hdev]

/-! ### The elements of an access list (R249, R250) -/

/-- Grouping by chunks loses no element and keeps their order. -/
theorem byChunk_flatten (n : Nat) (l : List (Nat × Nat)) : (byChunk n l).flatten = l := by
  induction l with
  | nil => rfl
  | cons c r ih =>
    rw [byChunk]
    split
    · next d g gs hgs =>
      rw [hgs] at ih
      split
      · exact congrArg (c :: ·) ih
      · exact congrArg (c :: ·) ih
    · exact congrArg (c :: ·) ih

/-- The elements of an access list with their addresses, access by access. -/
theorem eltGroups_flatten (h : Handle) (T : Nat) (byRow : Bool) (l : List Acc) :
    (eltGroups h T byRow l).flatten = l.flatMap fun a => a.elts.map fun e => (e, a.at h T e byRow) := by
  induction l with
  | nil => rfl
  | cons a r ih =>
    have hgroups : (if byRow then byChunk (width T / 8) (a.elts.map fun e => (e, a.at h T e byRow))
        else (a.elts.map fun e => (e, a.at h T e byRow)).map fun c => [c]).flatten = a.elts.map fun e => (e, a.at h T e byRow) := by
      split
      · exact byChunk_flatten ..
      · rw [← List.flatMap_def, List.flatMap_singleton']
    rw [List.flatMap_cons, ← ih, ← hgroups, ← List.flatten_append]
    rfl

theorem mem_rowElts {T : Nat} {sel : Nat → Bool} {r j : Nat} : j ∈ rowElts T sel r ↔ j / perRow T = r ∧ sel j = true := by
  have hper := perRow_pos T
  rw [rowElts, List.mem_filter, List.mem_map]
  refine and_congr_left fun _ => ⟨?_, fun hr => ⟨j % perRow T, List.mem_range.mpr (Nat.mod_lt _ hper), ?_⟩⟩
  · rintro ⟨c, hc, rfl⟩
    rw [Nat.mul_add_div hper, Nat.div_eq_of_lt (List.mem_range.mp hc), Nat.add_zero]
  · rw [← hr, Nat.div_add_mod]

/-- The byte offset of element e of an access from the base of its handle. -/
def Acc.offOf (a : Acc) (T : Nat) (byRow : Bool) (e : Nat) : Int := a.off + (if byRow then byteIn T e else 0 : Nat)

theorem Acc.at_eq {a : Acc} (h : Handle) (T e : Nat) (byRow : Bool) (ha : 0 ≤ a.off) :
    a.at h T e byRow = ((h.base : Int) + a.offOf T byRow e).toNat := by
  simp only [Acc.at, Acc.offOf, Handle.addr]
  omega

/-- The access list accs moves the elements that act selects, element j at offset off j. -/
def Moves (accs : List Acc) (T : Nat) (byRow : Bool) (act : Nat → Bool) (off : Nat → Int) : Prop :=
  ∀ j o, (∃ a ∈ accs, j ∈ a.elts ∧ o = a.offOf T byRow j) ↔ j < elems T ∧ act j = true ∧ o = off j

theorem moves_rows (x : Hd) (f : VM) (base stride : Int) : Moves (rowAccs x f base stride) f.ty.toNat true
    (x.active f.pfx f.mask f.ty.toNat)
    fun j => base + stride * (j / perRow f.ty.toNat : Nat) + (j % perRow f.ty.toNat * width f.ty.toNat / 8 : Nat) := by
  intro j o
  simp only [rowAccs, List.mem_filterMap, List.mem_range]
  constructor
  · rintro ⟨a, ⟨r, hr, hrow⟩, hj, rfl⟩
    split at hrow
    · cases hrow
    · cases hrow
      obtain ⟨rfl, hact⟩ := mem_rowElts.mp hj
      refine ⟨?_, hact, rfl⟩
      rw [elems_eq_rows, ← Nat.div_lt_iff_lt_mul (perRow_pos _)]
      exact hr
  · rintro ⟨hj, hact, rfl⟩
    have hrange : inRange f.pfx x.cnt f.ty.toNat j = true := ((Bool.and_eq_true ..).mp hact).2
    have hmem : j ∈ rowElts f.ty.toNat (inRange f.pfx x.cnt f.ty.toNat) (j / perRow f.ty.toNat) := mem_rowElts.mpr ⟨rfl, hrange⟩
    refine ⟨_, ⟨j / perRow f.ty.toNat, row_lt hj, if_neg ?_⟩, mem_rowElts.mpr ⟨rfl, hact⟩, rfl⟩
    rw [List.isEmpty_iff]
    exact List.ne_nil_of_mem hmem

theorem moves_elements (x : Hd) (f : VM) (base : Int) : Moves (eltAccs x f base) f.ty.toNat false (x.active f.pfx f.mask f.ty.toNat)
    fun j => base + intValue 9 ((x.see.rv (f.tail.setWidth 10 : VField).toNat).elem 32 j) := by
  intro j o
  simp only [eltAccs, activeList, List.mem_map, List.mem_filter, List.mem_range]
  constructor
  · rintro ⟨_, ⟨e, ⟨he, hact⟩, rfl⟩, hj, rfl⟩
    obtain rfl := List.mem_singleton.mp hj
    exact ⟨he, hact, Int.add_zero _⟩
  · rintro ⟨hj, hact, rfl⟩
    exact ⟨_, ⟨j, ⟨hj, hact⟩, rfl⟩, List.mem_singleton.mpr rfl, (Int.add_zero _).symm⟩

/-- Where the elements of a list that passes its checks lie. -/
theorem mem_eltGroups {h : Handle} {perm : Bool} {accs : List Acc} {T : Nat} {byRow : Bool} {act : Nat → Bool} {off : Nat → Int}
    (hmoves : Moves accs T byRow act off) (hf : accFault h perm accs = none) {j a : Nat} :
    (j, a) ∈ (eltGroups h T byRow accs).flatten ↔ j < elems T ∧ act j = true ∧ a = ((h.base : Int) + off j).toNat := by
  rw [eltGroups_flatten, List.mem_flatMap]
  constructor
  · rintro ⟨c, hc, hmem⟩
    obtain ⟨e, he, heq⟩ := List.mem_map.mp hmem
    cases heq
    obtain ⟨hj, hact, ho⟩ := (hmoves j _).mp ⟨c, hc, he, rfl⟩
    exact ⟨hj, hact, by rw [Acc.at_eq _ _ _ _ (accFault_within hf hc), ho]⟩
  · rintro ⟨hj, hact, rfl⟩
    obtain ⟨c, hc, he, ho⟩ := (hmoves j _).mpr ⟨hj, hact, rfl⟩
    exact ⟨c, hc, List.mem_map.mpr ⟨j, he, by rw [Acc.at_eq _ _ _ _ (accFault_within hf hc), ho]⟩⟩

end Sys2Proof.Machine

namespace Sys2Proof.Claims
open Sys2Proof Sys2Proof.Machine

/-! ### Vector loads and stores at their heads -/

/-- The body of a vector load or store. -/
def accessBody (f : VM) (ld byRow : Bool) (accs : Hd → List Acc) : Hd → Head := if ld then loadBody f byRow accs else storeBody f byRow accs

/-- Instruction i runs the body of its accesses, which lie where the table says. -/
structure VectorAccess (i : Instr) (f : VM) (ld : Bool) (q : Nat) (off : Hd → Nat → Int) (byRow : Bool) : Prop where
  exec : ∀ s, exec i s = routed i q (accessBody f ld byRow (accesses i)) s
  notMma : i.isMma = false
  moves : ∀ x : Hd, x.see = x.k → Moves (accesses i x) f.ty.toNat byRow (x.active f.pfx f.mask f.ty.toNat) (off x)

theorem isVectorAccess_runs {i : Instr} {f : VM} {ld : Bool} {q : Nat} {off : Hd → Nat → Int} (h : IsVectorAccess i f ld q off) :
    ∃ byRow, VectorAccess i f ld q off byRow := by
  cases h with
  | vld | vst => exact ⟨true, fun _ => rfl, rfl, fun x _ => moves_rows x f _ 256⟩
  | vlds | vsts => exact ⟨true, fun _ => rfl, rfl, fun x _ => moves_rows x f _ x.tk.own.toInt⟩
  | vgath | vscat => exact ⟨false, fun _ => rfl, rfl, fun x hx => hx ▸ moves_elements x f x.e.xa.toInt⟩

section
variable {i : Instr} {s s1 : State} {q : Nat} {hs : Bool} {k : Task} {e : Entry} {r : List Entry} {vals : List CtqEntry} {c : Byte} {d : W64}

/-- A head whose body finds a fault raises it, its entries popped (R47, R240). -/
theorem head_faults {body : Hd → Head} (hexec : ∀ s, exec i s = routed i q body s) (hmma : i.isMma = false)
    (h : AtHead i s q hs k e r vals s1) (hbody : body (seen i s s1 k hs e vals) = .fault c d s1) :
    ∃ n, exec i s = .next (s1.raisePopped s.cur hs q e n vals c d) := by
  have hrun := headRun_body i body s s1 s.cur k hs q e vals h.operands h.fences h.loads h.format h.alone h.units h.count
    (fun hm => absurd hm (by simp [hmma]))
  rw [seen] at hbody
  rw [hbody] at hrun
  have hissue := headIssue_runs i body s q hs k e r vals h.task h.entry h.instr h.runs h.isOpen h.gate
  exact ⟨_, (hexec s).trans ((routed_head i q q hs body s h.turn).trans (hissue.trans hrun))⟩

/-- What such a fault leaves: it stands in the queue, and no register, no access on its way and no byte has changed. -/
theorem head_fault_leaves (h : AtHead i s q hs k e r vals s1) (n : Nat) (c : Byte) (d : W64) :
    ∀ t, t = s1.raisePopped s.cur hs q e n vals c d →
      (((t.task s.cur).set hs).rq q).fault = some { cause := c, addr := e.pc, data := d, src := q + 1, await := 0, pos := e.pos } ∧
      (t.task s.cur).v = k.v ∧ (t.task s.cur).stqOut = k.stqOut ∧ ∀ a, t.byte a = s.byte a := by
  rintro t rfl
  have hs1 : (s.claims s.cur k (i.units k)).2 = s1 := by rw [h.units]
  have htask : s1.task s.cur = k := task_of_find s1 s.cur k (by rw [← hs1, claims_tasks]; exact h.task)
  have hmem : s1.mem = s.mem := by rw [← hs1]; exact (claims_mem ..).1
  rw [raisePopped_eq, task_setTask, if_pos rfl, htask]
  exact ⟨faulted_fault .., withSet_v .., withSet_stqOut .., fun a => byte_congr s _ hmem a⟩

theorem loadBody_fault {f : VM} {byRow : Bool} {accs : Hd → List Acc} {x : Hd} (h : accFault x.e.h x.e.h.r (accs x) = some (c, d)) :
    loadBody f byRow accs x = .fault c d x.s := by
  simp only [loadBody, accCheck_fault h]

theorem storeBody_fault {f : VM} {byRow : Bool} {accs : Hd → List Acc} {x : Hd} (h : accFault x.e.h x.e.h.w (accs x) = some (c, d)) :
    storeBody f byRow accs x = .fault c d x.s := by
  simp only [storeBody, accCheck_fault h]

end

theorem vectorAccessFaults : VectorAccessFaults := by
  intro i f ld q off s s1 hs k e r vals c d haccess hhead hf
  obtain ⟨byRow, hva⟩ := isVectorAccess_runs haccess
  have hbody : accessBody f ld byRow (accesses i) (seen i s s1 k hs e vals) = .fault c d s1 := by
    cases ld with
    | true => exact loadBody_fault hf
    | false => exact storeBody_fault hf
  obtain ⟨n, hrun⟩ := head_faults hva.exec hva.notMma hhead hbody
  exact ⟨accFault_cause hf, _, hrun, head_fault_leaves hhead n c d _ rfl⟩

/-- A store of a user context of which an element lies in a read-only page finds the first such element (R58, R85). -/
theorem storeBody_readOnly {f : VM} {byRow : Bool} {accs : Hd → List Acc} {x : Hd} {off : Nat → Int} {j : Nat}
    (hmoves : Moves (accs x) f.ty.toNat byRow (x.active f.pfx f.mask f.ty.toNat) off) (hf : accFault x.e.h x.e.h.w (accs x) = none)
    (hdev : isDevReg x.e.h.base = false) (hfw : x.k.fw = false) (hj : j < elems f.ty.toNat)
    (hact : x.active f.pfx f.mask f.ty.toNat j = true)
    (hro : x.s.readOnly ((x.e.h.base : Int) + off j).toNat (width f.ty.toNat / 8) = true) :
    ∃ m, m < elems f.ty.toNat ∧ x.active f.pfx f.mask f.ty.toNat m = true ∧
      x.s.readOnly ((x.e.h.base : Int) + off m).toNat (width f.ty.toNat / 8) = true ∧
      storeBody f byRow accs x = .fault 0x0A (BitVec.ofInt 64 (off m)) x.s := by
  have hstarts (a : Nat) : (a ∈ (eltGroups x.e.h f.ty.toNat byRow (accs x)).flatMap fun g => g.map fun c => c.2) ↔
      ∃ m, m < elems f.ty.toNat ∧ x.active f.pfx f.mask f.ty.toNat m = true ∧ a = ((x.e.h.base : Int) + off m).toNat := by
    rw [List.flatMap_def, ← List.map_flatten, List.mem_map]
    exact ⟨fun ⟨⟨m, b⟩, hmem, hb⟩ => ⟨m, hb ▸ (mem_eltGroups hmoves hf).mp hmem⟩,
      fun ⟨m, h⟩ => ⟨(m, a), (mem_eltGroups hmoves hf).mpr h, rfl⟩⟩
  obtain ⟨a, hfirst⟩ := Option.isSome_iff_exists.mp (List.find?_isSome (p := fun a => x.s.readOnly a (width f.ty.toNat / 8)) |>.mpr
    ⟨_, (hstarts _).mpr ⟨j, hj, hact, rfl⟩, hro⟩)
  obtain ⟨m, hm, hmact, rfl⟩ := (hstarts a).mp (List.mem_of_find?_eq_some hfirst)
  obtain ⟨b, hb, -, ho⟩ := (hmoves m _).mpr ⟨hm, hmact, rfl⟩
  have hoff : 0 ≤ off m := by
    have hpos := accFault_within hf hb
    rw [ho, Acc.offOf]
    omega
  have hback : ((((x.e.h.base : Int) + off m).toNat : Int) - x.e.h.base) = off m := by omega
  have hkeeps : x.keepsOut (width f.ty.toNat / 8) ((eltGroups x.e.h f.ty.toNat byRow (accs x)).flatMap fun g => g.map fun c => c.2) =
      some (.fault 0x0A (BitVec.ofInt 64 (off m)) x.s) := by
    rw [Hd.keepsOut, hfw, if_neg Bool.false_ne_true, hfirst]
    exact congrArg (fun z => some (Head.fault 0x0A (BitVec.ofInt 64 z) x.s)) hback
  refine ⟨m, hm, hmact, List.find?_some (p := fun a => x.s.readOnly a (width f.ty.toNat / 8)) hfirst, ?_⟩
  simp only [storeBody, accCheck_good hf hdev, hkeeps]

theorem vectorReadOnly : VectorReadOnly := by
  intro i f off s s1 hs k e r vals j haccess hhead x bad hf hdev hfw hbad
  obtain ⟨byRow, hva⟩ := isVectorAccess_runs haccess
  obtain ⟨hj, hact, hro⟩ := hbad
  obtain ⟨m, hm, hmact, hmro, hbody⟩ := storeBody_readOnly (hva.moves x rfl) hf hdev hfw hj hact hro
  obtain ⟨n, hrun⟩ := head_faults hva.exec hva.notMma hhead hbody
  exact ⟨_, _, m, hrun, ⟨hm, hmact, hmro⟩, rfl, head_fault_leaves hhead n _ _ _ rfl⟩

/-- Settles O31: the slice by the checks of `smAccess`, the heads by those of an access list and by the first read-only element. -/
theorem accessFaults : Obligations.AccessFaults := ⟨scalarAccessFaults, vectorAccessFaults, vectorReadOnly⟩

end Sys2Proof.Claims
end

section
/-! SUPPORT. Two blocks of an arena that overlap: a return queue's stale name that TEND makes name a block again (O53). -/

namespace Sys2Proof.Claims
open Sys2Proof Sys2Proof.Machine

/-- A unit of an arena at which a block of n bytes of ASC 0 begins. -/
def blockUnit (n gen : Nat) : AUnit :=
  { exist := true, free := false, size := n, asc := 0, gen := gen, leaving := false, parked := none }

/-- Names of units 0 and 1 of channel 0 at site 0, at generations 0 and 5. -/
def largeName : Nat := mkName 0 0 0 0
def staleName : Nat := mkName 0 0 1 5

/-- A task that runs, with both names in its NRQ. -/
def holdingNames : Task := { Task.empty with phase := .running, ord := { (QSet.empty 1 1 1) with nrq := [staleName, largeName] } }

/-- A block of 16 KB at unit 0, and one of 4 KB at unit 1, which is inside it, at generation 4. -/
def overlapping : State :=
  { State.reset with
    cur := 192, tasks := [(192, holdingNames)],
    site0 := { State.reset.site0 with arena := [(0, blockUnit 16384 0), (1, blockUnit 4096 4)] } }

/-- The state that TEND leaves. -/
def overlappingEnded : State :=
  (upd overlapping { holdingNames with phase := .ended }).afterTend 192

theorem tend_of_overlapping : exec .tend overlapping = .next overlappingEnded :=
  onDecode_runs overlapping holdingNames [] tendBad
    (fun k => (overlapping.now { k with phase := .ended, waitQ := none }).afterTend overlapping.cur) rfl rfl rfl

/-- The name is dropped while it is stale; the end of the large block then gives unit 1 the name's generation. -/
theorem staleName_overlappingEnded : overlappingEnded.blockOf 0 staleName = some 4096 := by decide +kernel

/-- Refutes O53: its clause on TEND, in a state where a block begins inside another (no arena that NSTV and the freeing of blocks leave has
one). The NRQ's stale name is passed over, and relinquishing the large block advances the unit that it names to its generation. -/
theorem not_nameBlocks : ¬ Obligations.NameBlocks := by
  unfold Obligations.NameBlocks
  rintro ⟨-, -, htend, -⟩
  obtain ⟨t, ht, -, -, hstale, -⟩ := htend overlapping holdingNames ⟨rfl, rfl⟩ rfl rfl rfl
  obtain rfl : overlappingEnded = t := Host.Outcome.next.inj (tend_of_overlapping.symm.trans ht)
  have hnone : overlappingEnded.blockOf 0 staleName = none := hstale staleName List.mem_cons_self
  exact absurd (staleName_overlappingEnded.symm.trans hnone) nofun

end Sys2Proof.Claims
end

section
/-! SUPPORT. The steps around the slice: what each does where its condition holds (O43). -/

namespace Sys2Proof.Machine
open Sys2Proof.Claims (sampled sampled_form sampled_arriveAll)

/-! ### Routing and instruction lines (R153, R155) -/

section
variable {s : State} {k : Task}

theorem execRoute_unit {i : Instr} {q : Nat} (hk : find s.tasks s.cur = some k) (hrun : k.phase = .running) (hmiss : k.missing = none)
    (hyield : k.yieldLeft = 0) (hunit : s.fetchUnit k = .unit i) (hhome : i.home = some q) : execRoute s = routeInstr i q s := by
  have hmay : k.mayIssue = true := by simp [Task.mayIssue, hrun, hmiss, hyield]
  simp [execRoute, hk, hmay, hunit, hhome]

/-- Routing by the slice is what the routed instruction itself does there. -/
theorem routeInstr_eq_exec {i : Instr} {q : Nat} (hhome : i.home = some q) (hturn : s.turn = .slice) : exec i s = routeInstr i q s := by
  obtain ⟨body, hexec⟩ := exec_eq_routed hhome
  rw [hexec, routed_slice i q body s hturn]

theorem routing_length (q : Nat) (p : Option Pfx) (e : Entry) :
    ((k.routing q p e).qset.rq q).entries.length = (k.qset.rq q).entries.length + 1 := by
  rw [routing_qset, rq_setRq, List.length_append, List.length_singleton]

theorem execIcacheFill_fills {l : Nat} (hk : find s.tasks s.cur = some k) (hmiss : k.missing = some l)
    (hheld : ∀ a, s.imageAt k l = some a → s.heldAt a = false) :
    execIcacheFill s = .next (((s.arriveAll (s.imageAt k l).toList).setCore k.coreKey
      { s.core k.coreKey with icache := (l :: (s.core k.coreKey).icache).take 4096 }).now { k with missing := none }) := by
  have hfree : (s.imageAt k l).any s.heldAt = false := by
    cases himage : s.imageAt k l with
    | none => rfl
    | some a => exact hheld a himage
  simp [execIcacheFill, hk, hmiss, hfree]

/-- What arrives at sites is not seen by a change of a core and of a context. -/
theorem sampled_setCore_now {t : State} (h : sampled s t) (c : Nat) (v : Core) (k : Task) :
    sampled ((s.setCore c v).setTask s.cur k) ((t.setCore c v).now k) := by
  obtain ⟨_, _, _, _, _, _, _, _, rfl⟩ := sampled_form h
  exact ⟨rfl, h.2⟩

/-! ### Faults on their way to the slice (R347, R348) -/

/-- The first queue with a fault is taken first. -/
theorem firstFault_eq {qs : QSet} {q : Nat} {f : FaultRec} (hq : q ≤ 2) (hf : (qs.rq q).firstFault = some f)
    (hnone : ∀ p, p < q → (qs.rq p).firstFault = none) : qs.firstFault = some (q, f) := by
  match q, hq with
  | 0, _ =>
    have h0 : qs.ldq.firstFault = some f := hf
    simp only [QSet.firstFault, h0]
  | 1, _ =>
    have h0 : qs.ldq.firstFault = none := hnone 0 (by decide)
    have h1 : qs.cmq.firstFault = some f := hf
    simp only [QSet.firstFault, h0, h1]
  | 2, _ =>
    have h0 : qs.ldq.firstFault = none := hnone 0 (by decide)
    have h1 : qs.cmq.firstFault = none := hnone 1 (by decide)
    have h2 : qs.stq.firstFault = some f := hf
    simp only [QSet.firstFault, h0, h1, h2]

theorem rqFirstFault_none {q : RQ} (h : q.fault = none ∧ q.late = []) : q.firstFault = none := by simp [RQ.firstFault, h]

theorem headsRun_of_phase (h : k.phase = .running ∨ k.phase = .ended) : k.headsRun k.inTrap = true := by
  rcases h with h | h <;> simp [Task.headsRun, h]

theorem execRoutedFaultArrival_takes {q : Nat} {f : FaultRec} {r : RQ} (hk : find s.tasks s.cur = some k)
    (hphase : k.phase = .running ∨ k.phase = .ended) (hq : q ≤ 2) (hf : (k.qset.rq q).firstFault = some f)
    (hnone : ∀ p, p < q → (k.qset.rq p).fault = none ∧ (k.qset.rq p).late = []) (hr : (k.qset.rq q).tookFault = r) :
    execRoutedFaultArrival s =
      .next ((s.setTask s.cur (k.setQset (k.qset.setRq q r))).take s.cur f k.pc) := by
  have hfirst := firstFault_eq hq hf fun p hp => rqFirstFault_none (hnone p hp)
  simp [execRoutedFaultArrival, hk, headsRun_of_phase hphase, hfirst, State.takeRouted, task_of_find s s.cur k hk, hr]

/-! ### Drains that end, and the firmware's answers (R95, R349, R350, R355) -/

theorem execTrapEntry_enters {f : FaultRec} {r : Nat} (hk : find s.tasks s.cur = some k) (hphase : k.phase = .drainTrap f r)
    (hdrained : k.drained = true) : execTrapEntry s = .next (s.enterTrap s.cur f r) := by
  simp [execTrapEntry, hk, hphase, hdrained]

theorem execFirmwareSwitchOut_parks {f : FaultRec} (hk : find s.tasks s.cur = some k) (hphase : k.phase = .drainFw f)
    (hdrained : k.drained = true) : execFirmwareSwitchOut s = .next (s.now { k.parked with phase := .switchedOut f }) := by
  simp [execFirmwareSwitchOut, hk, hphase, hdrained]

theorem execFirmwareFaultResume_goesOn {f : FaultRec} (hk : find s.tasks s.cur = some k) (hphase : k.phase = .switchedOut f) :
    execFirmwareFaultResume s = .next (s.now { (if k.inTrap then k else k.goOn) with phase := .running, walk := none }) := by
  simp [execFirmwareFaultResume, hk, hphase]

theorem execFirmwareFaultFatal_fatal {f : FaultRec} (hk : find s.tasks s.cur = some k) (hphase : k.phase = .switchedOut f) :
    execFirmwareFaultFatal s = .next (s.fatal s.cur f) := by
  simp [execFirmwareFaultFatal, hk, hphase]

theorem execYieldEnd_ends (hk : find s.tasks s.cur = some k) (hlast : k.yieldLeft = 1) :
    execYieldEnd s = .next (s.now { k with yieldLeft := 0 }) := by
  simp [execYieldEnd, hk, hlast]

theorem execTaskCycleBound_fatal (hk : find s.tasks s.cur = some k) (hbound : (s.packet k.packet).bound ≠ 0)
    (hpast : (s.packet k.packet).bound * 256 ≤ k.cycle) :
    execTaskCycleBound s = .next (s.fatal s.cur { cause := 0x21, addr := k.pc, data := 0, src := 0, await := 0, pos := 0 }) := by
  simp only [execTaskCycleBound, hk]
  exact if_pos ⟨hbound, hpast⟩

/-- A stopped MMA of a task that resumes goes on, unless the task is in its handler. -/
theorem resumed_mma : (if k.inTrap then k else k.goOn) =
    { k with mma := if k.inTrap then k.mma else k.mma.map fun m => { m with stopped := false } } := by
  split <;> rfl

/-! ### Pre-emption (R215, R357) -/

theorem freeRange_congr {t : State} {c : Nat} (h : (t.core c).slots = (s.core c).slots) (n : Nat) (parts : List (Nat × Nat)) :
    t.freeRange c n parts = s.freeRange c n parts := by
  simp only [State.freeRange, State.rangeEmpty, State.tslot, h]

/-- A newcomer of context 0 whose sibling context is empty takes the lowest free range. -/
theorem placeNew_free {c n w b : Nat} {v : Task} (hv : find s.tasks n = some v) (hother : (s.core c).ctxB = CtxSlot.empty)
    (hfree : s.freeRange c (partSlots (s.packet v.packet).part) [] = some b) :
    s.placeNew c 0 n w = s.setTask n { v with partBase := b, partSize := partSlots (s.packet v.packet).part } := by
  have hparts : s.parts CtxSlot.empty = [] := rfl
  simp [State.placeNew, task_of_find s n v hv, hother, State.newRange, hparts, hfree]

theorem execPreEmptionSwitch_passes {n : Nat} {done : Bool} {v : Task} (hk : find s.tasks s.cur = some k)
    (hphase : k.phase = .drainPre n done) (hv : find s.tasks n = some v) (hdrained : k.drained = true) (hctx : k.ctx = 0) :
    execPreEmptionSwitch s = .next (((s.now { k.parked with phase := .suspended done }).setCore k.coreKey
      { s.core k.coreKey with ctxA := { run := some n, susp := some s.cur } }).placeNew k.coreKey 0 n s.cur) := by
  simp [execPreEmptionSwitch, hk, hphase, hv, hdrained, hctx]

end

end Sys2Proof.Machine

namespace Sys2Proof.Claims
open Sys2Proof Sys2Proof.Machine

/-- Trap entry replaces the context and writes a record. -/
theorem enterTrap_trapped {s : State} {k : Task} (hk : find s.tasks s.cur = some k) (f : FaultRec) (r : Nat) :
    s.enterTrap s.cur f r = { setT s s.cur (trapped s k f r) with hif := (s.enterTrap s.cur f r).hif } ∧
      (s.enterTrap s.cur f r).hif = { s.hif with baro := (s.enterTrap s.cur f r).hif.baro } := by
  have hrecord : s.enterTrap s.cur f r = (setT s s.cur (trapped s k f r)).note 0x02 f.cause.toNat (s.offset k.parked r) f.data
      (some k.parked) := by
    simp only [State.enterTrap, task_of_find s s.cur k hk]
    rfl
  have hnote := note_hif (setT s s.cur (trapped s k f r)) 0x02 f.cause.toNat (s.offset k.parked r) f.data (some k.parked)
  rw [← hrecord] at hnote
  have hhif := congrArg State.hif hnote
  exact ⟨hnote.trans (congrArg (fun z => { setT s s.cur (trapped s k f r) with hif := z }) hhif.symm), hhif⟩

/-- Settles O43: each row from the lemma that says what its step does where the row's condition holds. -/
theorem sliceSteps : Obligations.SliceSteps := by
  intro i pre post s h hpre
  cases h with
  | route k i q =>
    obtain ⟨hk, hturn, hrun, hmiss, hyield, hunit, hhome, hcheck, hhazard, hroom⟩ := hpre
    have hexec := routeInstr_eq_exec hhome hturn
    have hroutes : routeInstr i q s = _ := routeTo_routes s k i q i.pfx _ _ _ _ i.check hk hcheck hhazard hroom
    refine ⟨_, (execRoute_unit hk hrun hmiss hyield hunit hhome).trans hroutes, hexec.trans hroutes, ?_⟩
    rw [State.now, task_setTask, if_pos rfl, routing_length]
  | fill k l =>
    obtain ⟨hk, hmiss, hheld⟩ := hpre
    exact ⟨_, execIcacheFill_fills hk hmiss hheld, sampled_setCore_now (sampled_arriveAll ..) ..⟩
  | yieldEnd k =>
    obtain ⟨hk, hlast⟩ := hpre
    exact ⟨_, execYieldEnd_ends hk hlast, rfl⟩
  | bound k =>
    obtain ⟨hk, hbound, hpast⟩ := hpre
    exact ⟨_, execTaskCycleBound_fatal hk hbound hpast, rfl⟩
  | arrival k q f =>
    obtain ⟨hk, hphase, hq, hfault, hlate, hnone⟩ := hpre
    exact ⟨_, execRoutedFaultArrival_takes hk hphase hq (by simp [RQ.firstFault, hfault, hlate]) hnone
      (by simp only [RQ.tookFault, hlate]), rfl⟩
  | lateArrival k q f r =>
    obtain ⟨hk, hphase, hq, hlate, hnone⟩ := hpre
    exact ⟨_, execRoutedFaultArrival_takes hk hphase hq (by simp only [RQ.firstFault, hlate]) hnone
      (by simp only [RQ.tookFault, hlate]), rfl⟩
  | trap k f r =>
    obtain ⟨hk, hphase, hdrained⟩ := hpre
    exact ⟨_, execTrapEntry_enters hk hphase hdrained, enterTrap_trapped hk f r⟩
  | switchOut k f =>
    obtain ⟨hk, hphase, hdrained⟩ := hpre
    exact ⟨_, execFirmwareSwitchOut_parks hk hphase hdrained, rfl⟩
  | resume k f =>
    obtain ⟨hk, hphase⟩ := hpre
    exact ⟨_, execFirmwareFaultResume_goesOn hk hphase, by rw [resumed_mma]; rfl⟩
  | fatal k f =>
    obtain ⟨hk, hphase⟩ := hpre
    exact ⟨_, execFirmwareFaultFatal_fatal hk hphase, rfl⟩
  | preEmpt k n b done v =>
    obtain ⟨hk, hphase, hv, hne, hdrained, hctx, -, -, hother, hfree⟩ := hpre
    refine ⟨_, execPreEmptionSwitch_passes hk hphase hv hdrained hctx, ?_⟩
    rw [placeNew_free (v := v) (b := b)]
    · rfl
    · simp [State.now, hne, hv]
    · simp [hother]
    · exact (freeRange_congr (by simp [State.now]) ..).trans hfree

end Sys2Proof.Claims
end

section
/-! SUPPORT. The clauses of O53 that hold as they stand, and the clause on TEND where no block begins inside another. -/

namespace Sys2Proof.Machine

/-! ### Units of an arena (R199, R203) -/

/-- Key m is one of the n units at index of channel chan. -/
def InUnits (chan index n m : Nat) : Prop := ∃ j, j < n ∧ m = unitKey chan (index + j)

theorem inUnits_succ {chan index n m : Nat} : InUnits chan index (n + 1) m ↔ m = unitKey chan index ∨ InUnits chan (index + 1) n m := by
  constructor
  · rintro ⟨_ | j, hj, rfl⟩
    · exact .inl rfl
    · exact .inr ⟨j, by omega, congrArg _ (by omega)⟩
  · rintro (rfl | ⟨j, hj, rfl⟩)
    · exact ⟨0, by omega, rfl⟩
    · exact ⟨j + 1, by omega, congrArg _ (by omega)⟩

theorem not_inUnits_of_lt {chan index n m : Nat} (h : m < unitKey chan index) : ¬ InUnits chan index n m := by
  rintro ⟨j, -, rfl⟩
  simp only [unitKey] at h
  omega

theorem get_mapUnits_out (f : AUnit → AUnit) (chan : Nat) {index n m : Nat} (l : Assoc AUnit) (h : ¬ InUnits chan index n m) :
    get AUnit.none (mapUnits f chan index n l) m = get AUnit.none l m := by
  induction n generalizing index l with
  | zero => rfl
  | succ n ih =>
    obtain ⟨hne, hrest⟩ := not_or.mp (mt inUnits_succ.mpr h)
    rw [mapUnits, ih _ hrest, get_put, if_neg hne]

/-- `mapUnits` changes the units of its range, each once, and no other. -/
theorem get_mapUnits_in (f : AUnit → AUnit) (chan : Nat) {index n m : Nat} (l : Assoc AUnit) (h : InUnits chan index n m) :
    get AUnit.none (mapUnits f chan index n l) m = f (get AUnit.none l m) := by
  induction n generalizing index l with
  | zero => obtain ⟨j, hj, -⟩ := h; omega
  | succ n ih =>
    rw [mapUnits]
    rcases inUnits_succ.mp h with rfl | hrest
    · rw [get_mapUnits_out f chan _ (not_inUnits_of_lt (by simp [unitKey])), get_put, if_pos rfl]
    · have hne : m ≠ unitKey chan index := by
        rintro rfl
        exact not_inUnits_of_lt (by simp [unitKey]) hrest
      rw [ih _ hrest, get_put, if_neg hne]

/-! ### Names (R203, R211) -/

/-- Unit m of the arena of site i. -/
def State.unitAt (s : State) (i m : Nat) : AUnit := get AUnit.none (s.site i).arena m

/-- Key of the unit at which the block of a name begins. -/
def blockKey (nm : Nat) : Nat := unitKey (nameChan nm) (nameIndex nm)

/-- That unit. -/
def State.nameUnit (s : State) (nm : Nat) : AUnit := s.unitAt (nameSite nm) (blockKey nm)

theorem nameSite_le (nm : Nat) : nameSite nm ≤ 7 := by
  rw [nameSite]
  omega

/-- What a name with a block says of its unit. -/
theorem blockOf_some {s : State} {asc nm n : Nat} (h : s.blockOf asc nm = some n) :
    (s.nameUnit nm).size = n ∧ (s.nameUnit nm).size ≠ 0 ∧ (s.nameUnit nm).leaving = false := by
  rw [State.blockOf] at h
  split at h
  · next hall =>
    simp only [Bool.and_eq_true, bne_iff_ne, ne_eq, Bool.not_eq_true'] at hall
    exact ⟨Option.some.inj h, hall.1.1.1.2, hall.1.1.2⟩
  · cases h

/-- Whether a name has a block is read off its unit alone. -/
theorem blockOf_congr {s t : State} {nm : Nat} (h : t.nameUnit nm = s.nameUnit nm) (asc : Nat) : t.blockOf asc nm = s.blockOf asc nm := by
  rw [State.nameUnit, State.nameUnit, State.unitAt, State.unitAt, blockKey] at h
  simp only [State.blockOf, h]

theorem blockOf_of_leaving {s : State} {nm : Nat} (h : (s.nameUnit nm).leaving = true) (asc : Nat) : s.blockOf asc nm = none := by
  cases hb : s.blockOf asc nm with
  | none => rfl
  | some n => exact absurd (h.symm.trans (blockOf_some hb).2.2) (by decide)

/-- A unit of a block that is relinquished, at its next generation; and the first of them, which leaves (R211). -/
def AUnit.advanced (u : AUnit) : AUnit := { u with gen := (u.gen + 1) % 256 }
def AUnit.left (u : AUnit) : AUnit := { u with leaving := true, parked := Option.none }

/-- The arena of the site of a name once its block of n bytes is relinquished (R211). -/
def relinquished (l : Assoc AUnit) (nm n : Nat) : Assoc AUnit :=
  mapUnits AUnit.left (nameChan nm) (nameIndex nm) 1 (mapUnits AUnit.advanced (nameChan nm) (nameIndex nm) (n / 4096) l)

theorem relinquish_unitAt (s : State) (nm n : Nat) {i : Nat} (hi : i ≤ 7) (m : Nat) :
    (s.relinquish nm n).unitAt i m =
      if i = nameSite nm then get AUnit.none (relinquished (s.site i).arena nm n) m else s.unitAt i m := by
  have hsite : (s.relinquish nm n).site i = (s.setSite (nameSite nm) { s.site (nameSite nm) with
      arena := relinquished (s.site (nameSite nm)).arena nm n }).site i := rfl
  rw [State.unitAt, hsite, site_setSite _ _ _ _ (nameSite_le nm) hi]
  split
  · next h => rw [h]
  · rfl

/-- The block's first unit leaves. -/
theorem relinquish_leaving (s : State) (nm n : Nat) : ((s.relinquish nm n).nameUnit nm).leaving = true := by
  have hfirst : InUnits (nameChan nm) (nameIndex nm) 1 (blockKey nm) := ⟨0, by decide, rfl⟩
  rw [State.nameUnit, relinquish_unitAt s nm n (nameSite_le nm), if_pos rfl, relinquished, get_mapUnits_in _ _ _ hfirst, AUnit.left]

/-- No unit outside the block changes. -/
theorem relinquish_outside {s : State} {nm n i m : Nat} (hi : i ≤ 7)
    (h : i = nameSite nm → m ≠ blockKey nm ∧ ¬ InUnits (nameChan nm) (nameIndex nm) (n / 4096) m) :
    (s.relinquish nm n).unitAt i m = s.unitAt i m := by
  rw [relinquish_unitAt s nm n hi]
  split
  · next hsite =>
    obtain ⟨hne, hout⟩ := h hsite
    have hfirst : ¬ InUnits (nameChan nm) (nameIndex nm) 1 m := by
      rintro ⟨j, hj, rfl⟩
      obtain rfl : j = 0 := by omega
      exact hne rfl
    rw [relinquished, get_mapUnits_out _ _ _ hfirst, get_mapUnits_out _ _ _ hout, State.unitAt]
  · rfl

/-- No unit changes its size. -/
theorem mapUnits_size {f : AUnit → AUnit} (hf : ∀ u, (f u).size = u.size) (chan index n : Nat) (l : Assoc AUnit) (m : Nat) :
    (get AUnit.none (mapUnits f chan index n l) m).size = (get AUnit.none l m).size := by
  by_cases h : InUnits chan index n m
  · rw [get_mapUnits_in f chan l h, hf]
  · rw [get_mapUnits_out f chan l h]

theorem relinquish_size (s : State) (nm n : Nat) {i : Nat} (hi : i ≤ 7) (m : Nat) :
    ((s.relinquish nm n).unitAt i m).size = (s.unitAt i m).size := by
  rw [relinquish_unitAt s nm n hi]
  split
  · exact (mapUnits_size (f := AUnit.left) (fun _ => rfl) ..).trans (mapUnits_size (f := AUnit.advanced) (fun _ => rfl) ..)
  · rfl

/-! ### Blocks that do not overlap -/

/-- No block begins inside another: of the units of a block, only the first has a size. -/
def Apart (s : State) : Prop :=
  ∀ asc nm n, s.blockOf asc nm = some n →
    ∀ m, m ≠ blockKey nm → InUnits (nameChan nm) (nameIndex nm) (n / 4096) m → (s.unitAt (nameSite nm) m).size = 0

/-- Where blocks do not overlap, the end of one of them makes no name that is stale name a block. -/
theorem blockOf_relinquish {s : State} {asc nm n : Nat} (hapart : Apart s) (hblock : s.blockOf asc nm = some n) {asc' v size : Nat}
    (hv : (s.relinquish nm n).blockOf asc' v = some size) : s.blockOf asc' v = some size := by
  obtain ⟨-, hsize, hstays⟩ := blockOf_some hv
  rw [← hv]
  refine (blockOf_congr (relinquish_outside (nameSite_le v) fun hsite => ⟨?_, fun hin => ?_⟩) asc').symm
  · intro hkey
    have hleaves : ((s.relinquish nm n).nameUnit v).leaving = true := by
      rw [State.nameUnit, hsite, hkey]
      exact relinquish_leaving s nm n
    exact absurd (hleaves.symm.trans hstays) (by decide)
  · by_cases hkey : blockKey v = blockKey nm
    · have hleaves : ((s.relinquish nm n).nameUnit v).leaving = true := by
        rw [State.nameUnit, hsite, hkey]
        exact relinquish_leaving s nm n
      exact absurd (hleaves.symm.trans hstays) (by decide)
    · rw [State.nameUnit, relinquish_size s nm n (nameSite_le v), hsite] at hsize
      exact hsize (hapart asc nm n hblock _ hkey hin)

theorem apart_relinquish {s : State} {asc nm n : Nat} (hapart : Apart s) (hblock : s.blockOf asc nm = some n) :
    Apart (s.relinquish nm n) := by
  intro asc' v size hv m hne hin
  rw [relinquish_size s nm n (nameSite_le v)]
  exact hapart asc' v size (blockOf_relinquish hapart hblock hv) m hne hin

/-- Dropping a name leaves it stale, and every name that was stale. -/
theorem dropName_stale {s : State} (hapart : Apart s) (asc nm : Nat) :
    Apart (s.dropName asc nm) ∧ (s.dropName asc nm).blockOf asc nm = none ∧
      ∀ v, s.blockOf asc v = none → (s.dropName asc nm).blockOf asc v = none := by
  cases hblock : s.blockOf asc nm with
  | none =>
    have hsame : s.dropName asc nm = s := by simp only [State.dropName, hblock]
    rw [hsame]
    exact ⟨hapart, hblock, fun v hv => hv⟩
  | some n =>
    have hgone : s.dropName asc nm = s.relinquish nm n := by simp only [State.dropName, hblock]
    rw [hgone]
    refine ⟨apart_relinquish hapart hblock, blockOf_of_leaving (relinquish_leaving s nm n) asc, fun v hv => ?_⟩
    cases hafter : (s.relinquish nm n).blockOf asc v with
    | none => rfl
    | some size => exact absurd (hv.symm.trans (blockOf_relinquish hapart hblock hafter)) nofun

/-! ### Handles of a relinquished block (R193, R211) -/

theorem find_mapVals {α : Type} (f : Nat → α → α) (l : Assoc α) (n : Nat) : find (mapVals f l) n = (find l n).map (f n) := by
  induction l with
  | nil => rfl
  | cons p r ih =>
    obtain ⟨m, v⟩ := p
    by_cases h : m = n
    · subst h
      simp [mapVals, find]
    · simpa [mapVals, find, h] using ih

theorem get_mem {α : Type} (d : α) (l : Assoc α) (n : Nat) : get d l n = d ∨ (n, get d l n) ∈ l := by
  induction l with
  | nil => exact .inl rfl
  | cons p r ih =>
    obtain ⟨m, v⟩ := p
    by_cases h : m = n
    · subst h
      exact .inr (by simp [get])
    · have hget : get d ((m, v) :: r) n = get d r n := by simp [get, h]
      rw [hget]
      exact ih.imp_right (List.mem_cons_of_mem _)

/-- A register of a revoked context holds no valid handle that the revocation selects. -/
theorem rh_revTask {p : Handle → Bool} (k : Task) (r : BitVec 5)
    (h : p ((revTask p k).rh r) = true) : ((revTask p k).rh r).v = false := by
  rcases get_mem Handle.invalid (revTask p k).h r.toNat with hget | hmem
  · exact congrArg Handle.v hget
  · obtain ⟨⟨m, x⟩, -, hx⟩ := List.mem_map.mp (List.mem_filter.mp hmem).1
    have hrh : (revTask p k).rh r = revHandle p x := (congrArg Prod.snd hx).symm
    rw [hrh] at h ⊢
    rw [revHandle] at h ⊢
    split
    · rfl
    · next hkeep =>
      rw [if_neg hkeep] at h
      simpa [h] using hkeep

/-- The end of a name takes the handles that were made from it from every context. -/
theorem find_relinquish (s : State) (nm n t : Nat) :
    find (s.relinquish nm n).tasks t = (find s.tasks t).map (revTask fun h => h.name == some nm) := by
  rw [State.relinquish, State.revoke, find_mapVals, setSite_tasks]

/-! ### The end of a task (R172) -/

theorem task_dropName_phase (s : State) (asc nm t : Nat) : ((s.dropName asc nm).task t).phase = (s.task t).phase := by
  rw [State.dropName]
  split
  · rw [State.task, State.task, find_relinquish]
    cases find s.tasks t <;> rfl
  · rfl

theorem dropName_lfe (s : State) (asc nm : Nat) : (s.dropName asc nm).lfe = s.lfe := by
  rw [State.dropName]
  split
  · exact setSite_lfe ..
  · rfl

/-- Names that are dropped one after the other, blocks apart: all of them are stale afterwards, and the contexts stay in their phases. -/
theorem dropNames_stale (p asc : Nat) (l : List Nat) {s : State} (hapart : Apart s) (hasc : (s.packet p).asc = asc) :
    (∀ v, v ∈ l ∨ s.blockOf asc v = none → (each (fun nm s => State.dropName s (s.packet p).asc nm) l s).blockOf asc v = none) ∧
      ∀ t, ((each (fun nm s => State.dropName s (s.packet p).asc nm) l s).task t).phase = (s.task t).phase := by
  induction l generalizing s with
  | nil => exact ⟨fun v hv => hv.resolve_left List.not_mem_nil, fun _ => rfl⟩
  | cons nm r ih =>
    obtain ⟨hapart', hnm, hstale⟩ := dropName_stale hapart asc nm
    have hstep := ih hapart' ((congrArg Packet.asc (packet_congr (congrArg Lfe.packets (dropName_lfe s asc nm)) p)).trans hasc)
    rw [each, hasc]
    refine ⟨fun v hv => hstep.1 v ?_, fun t => (hstep.2 t).trans (task_dropName_phase s asc nm t)⟩
    rcases hv with hv | hv
    · rcases List.mem_cons.mp hv with rfl | hv
      · exact .inr hnm
      · exact .inl hv
    · exact .inr (hstale v hv)

/-- The queues of operands and names of a task that has ended, empty. -/
def QSet.discarded (q : QSet) : QSet := { q with ctqLd := [], ctqCm := [], ctqSt := [], tok := [], rtq := [], nrq := [] }

/-- TEND with the routed queues empty drops the names of the NRQ, and then discards what is left in the queues (R172). -/
theorem afterTend_drops {s s1 : State} {k : Task} (t : Nat) (hk : find s.tasks t = some k) (hend : k.hasEnded = true)
    (hin : k.inTrap = false) (hdone : k.ord.allDone = true)
    (hdrop : each (fun nm s => State.dropName s (s.packet k.packet).asc nm) k.ord.nrq s = s1) :
    s.afterTend t = s1.setTask t { s1.task t with ord := (s1.task t).ord.discarded } := by
  simp only [State.afterTend, hk, hend, hin, hdone, hdrop, Bool.not_false, Bool.and_self, if_true]
  rfl

/-! ### The freeing of a block (R211) -/

theorem quiet_of {s : State} {a n nm : Nat}
    (htasks : ∀ e ∈ s.tasks, ∀ x ∈ e.2.slice ++ e.2.ldqOut ++ e.2.stqOut, x.touches a n = false)
    (hlate : ∀ e ∈ s.ce.late, ∀ x ∈ e.2, x.1 < a ∨ a + n ≤ x.1)
    (hcmds : ∀ e ∈ s.ce.cmds, e.2.state = .ended ∨ nm ∉ e.2.names) : s.quiet a n nm = true := by
  have hall : (s.tasks.all fun p => !p.2.touching a n) = true := by
    rw [List.all_eq_true]
    intro e he
    rw [Bool.not_eq_true', Task.touching, List.any_eq_false]
    exact fun x hx => by simp [htasks e he x hx]
  have hnone : s.lateIn a n = false := by
    rw [State.lateIn, List.any_eq_false]
    intro e he
    rw [Bool.not_eq_true, List.any_eq_false]
    intro x hx
    have hout := hlate e he x hx
    simp only [Bool.and_eq_true, decide_eq_true_eq, not_and]
    omega
  have hleft : (s.ce.cmds.all fun c => c.2.state == .ended || !c.2.names.contains nm) = true := by
    rw [List.all_eq_true]
    intro e he
    simpa using hcmds e he
  rw [State.quiet, hall, hnone, hleft]
  rfl

/-- A unit that is free again. -/
def AUnit.freed (u : AUnit) : AUnit := { u with free := true, size := 0, asc := 0, leaving := false }

/-- Site i once the units of the block at index of channel chan are free again. -/
def Site.freed (st : Site) (chan index : Nat) (u : AUnit) : Site :=
  { st with arena := mapUnits AUnit.freed chan index (u.size / 4096) st.arena,
            used := put 0 st.used u.asc (get 0 st.used u.asc - u.size / 4096) }

theorem execNameBlockFree_frees {s : State} {i chan index : Nat} {u : AUnit}
    (hu : get AUnit.none (s.site i).arena (unitKey chan index) = u) (hleaving : u.leaving = true) (hhand : s.handing i = false)
    (hquiet : s.quiet (arenaAddr i chan index) u.size (mkName i chan index ((u.gen + 255) % 256)) = true) :
    execNameBlockFree i chan index s = .next (s.setSite i ((s.site i).freed chan index u)) := by
  simp only [execNameBlockFree, hu, hleaving, hhand, hquiet, Bool.not_true, Bool.or_self, Bool.false_eq_true, if_false]
  rfl

end Sys2Proof.Machine

namespace Sys2Proof.Claims
open Sys2Proof Sys2Proof.Machine

/-- The clause of O53 on XLTN. -/
theorem xltnBlock : XltnBlock := by
  intro s k h a n hready hhand hblock howner
  exact onSlice_ready hready (by
    simp only [hhand, hblock, howner, Bool.false_eq_true, if_false, ne_eq, not_true]
    rfl)

/-- The clause of O53 on NREL: the block's first unit leaves, and revocation takes the handles of the name. -/
theorem nrelReleases : NrelReleases := by
  intro s k a n hready hblock
  have hrun : exec (.nrel a) s = .next ((s.now (k.adv 4)).relinquish (k.rx a).toNat n) :=
    onSlice_ready hready (by simp only [hblock])
  refine ⟨_, hrun, blockOf_of_leaving (relinquish_leaving ..) _, ?_, fun m v hv r hname => ?_,
    fun x => byte_congr _ _ (relinquish_mem ..).1 x⟩
  · have hfind : find (s.now (k.adv 4)).tasks s.cur = some (k.adv 4) := by simp [State.now]
    rw [State.task, find_relinquish, hfind]
    rfl
  · rw [find_relinquish] at hv
    obtain ⟨w, -, rfl⟩ := Option.map_eq_some_iff.mp hv
    exact rh_revTask w r (by simp [hname])

/-- The clause of O53 on TEND, where no block begins inside another. -/
theorem tendReleases_of_apart {s : State} {k : Task} (hready : Ready s k []) (hfw : k.fw = false) (hin : k.inTrap = false)
    (hdone : k.ord.allDone = true) (hapart : Apart s) :
    ∃ t, exec .tend s = .next t ∧ (t.task s.cur).phase = .ended ∧ (t.task s.cur).ord.nrq = [] ∧
      (∀ nm ∈ k.ord.nrq, t.blockOf (s.ascOf k) nm = none) ∧ ∀ x, t.byte x = s.byte x := by
  have hrun : exec .tend s = .next ((s.now { k with phase := .ended, waitQ := none }).afterTend s.cur) :=
    onDecode_ready hready (by simp [tendBad, hfw, hin]) rfl
  obtain ⟨hstale, hphase⟩ := dropNames_stale k.packet (s.ascOf k) k.ord.nrq
    (s := s.now { k with phase := .ended, waitQ := none }) hapart rfl
  have hend : (s.now { k with phase := .ended, waitQ := none }).afterTend s.cur = _ :=
    afterTend_drops s.cur (find_upd ..) rfl hin hdone rfl
  refine ⟨_, hrun, ?_, ?_, fun nm hnm => ?_, fun x => byte_congr _ _ (afterTend_mem ..).1 x⟩
  · rw [hend, task_setTask, if_pos rfl]
    exact (hphase s.cur).trans (congrArg Task.phase (task_upd ..))
  · rw [hend, task_setTask, if_pos rfl]
    rfl
  · rw [hend]
    exact hstale nm (.inl hnm)

/-- The clause of O53 on the freeing of a block. -/
theorem blockFreed : BlockFreed := by
  intro s i c n u hi hu hleaving hhand hsize htasks hlate hcmds
  have hsite : (s.setSite i ((s.site i).freed c n u)).site i = (s.site i).freed c n u := by
    rw [site_setSite _ _ _ _ hi hi, if_pos rfl]
  refine ⟨_, execNameBlockFree_frees hu hleaving hhand (quiet_of htasks hlate hcmds), by rw [hsite], ?_, ?_, ?_⟩
  · intro j hj
    rw [hsite, Site.freed, get_mapUnits_in AUnit.freed c _ ⟨j, hj, rfl⟩]
    exact ⟨rfl, rfl⟩
  · intro m hm
    rw [hsite, Site.freed, get_mapUnits_out AUnit.freed c _ fun ⟨j, hj, hkey⟩ => hm j hj hkey]
  · rw [hsite, Site.freed, get_put, if_pos rfl]

end Sys2Proof.Claims
end

section
/-! SUPPORT. The tile store: slots and the state beside them, the issue of a head that changes both, and the checks of a tile that is
read (O33 to O37). -/

namespace Sys2Proof.Machine

/-! ### Slots (R214 to R218) -/

@[simp] theorem tslot_setTask (s : State) (t : Nat) (k : Task) (c p : Nat) : (s.setTask t k).tslot c p = s.tslot c p := rfl

theorem tslot_setTslot (s : State) (c p q : Nat) (v : TSlot) : (s.setTslot c p v).tslot c q = if q = p then v else s.tslot c q := by
  rw [State.tslot, State.setTslot, core_setCore, if_pos rfl]
  exact get_put ..

theorem tslot_setTslot_self (s : State) (c p : Nat) (v : TSlot) : (s.setTslot c p v).tslot c p = v := by
  rw [tslot_setTslot, if_pos rfl]

theorem tslot_congr {s t : State} {c : Nat} (h : (t.core c).slots = (s.core c).slots) (p : Nat) : t.tslot c p = s.tslot c p := by
  rw [State.tslot, State.tslot, h]

/-- What slot n of a partition holds is read off its physical slot and the saved tiles of the core. -/
theorem view_congr {s u : State} {k : Task} {n : Nat} (hsaved : (u.core k.coreKey).savedTiles = (s.core k.coreKey).savedTiles)
    (hslot : u.tslot k.coreKey (k.partBase + n) = s.tslot k.coreKey (k.partBase + n)) (t : Nat) : u.view t k n = s.view t k n := by
  simp only [State.view, hsaved, hslot]

/-- A tile that a slot of a partition holds stands in the physical slot. -/
theorem view_tile {s : State} {t : Nat} {k : Task} {n : Nat} {tl : TSlot} (h : s.view t k n = .tile tl) :
    s.tslot k.coreKey (k.partBase + n) = tl ∧ tl.state ≠ .empty ∧ tl.owner = t := by
  rw [State.view] at h
  split at h
  · cases h
  · split at h
    · cases h
    · dsimp only at h
      split at h
      · cases h
      · next hstate =>
        split at h
        · next howner =>
          cases h
          exact ⟨rfl, by simpa using hstate, by simpa using howner⟩
        · cases h

end Sys2Proof.Machine

namespace Sys2Proof.Claims
open Sys2Proof Sys2Proof.Machine

/-! ### What an instruction may change beside its context -/

/-- t differs from s, in its current task and beside it, at most where `routedOnly` lets it. -/
def Beside (s t : State) : Prop :=
  t = { s with mem := t.mem, poison := t.poison, tick := t.tick, tasks := t.tasks, cores := t.cores, site0 := t.site0,
               site1 := t.site1, site2 := t.site2, site3 := t.site3, site4 := t.site4, site5 := t.site5, site6 := t.site6,
               site7 := t.site7 } ∧
  (∀ n, n ≠ s.cur → find t.tasks n = find s.tasks n) ∧
  (∀ c, { t.core c with slots := (s.core c).slots, tlb := (s.core c).tlb } = s.core c) ∧
  ∀ n, { t.site n with sampled := (s.site n).sampled, shadow := (s.site n).shadow, arena := (s.site n).arena,
                       used := (s.site n).used } = s.site n

theorem Beside.refl (s : State) : Beside s s := ⟨rfl, fun _ _ => rfl, fun _ => rfl, fun _ => rfl⟩

/-- What such a change lets be written. -/
theorem Beside.form {s t : State} (h : Beside s t) : ∃ m p x ks cs s0 s1 s2 s3 s4 s5 s6 s7, t =
    { s with mem := m, poison := p, tick := x, tasks := ks, cores := cs, site0 := s0, site1 := s1, site2 := s2, site3 := s3, site4 := s4,
             site5 := s5, site6 := s6, site7 := s7 } :=
  ⟨_, _, _, _, _, _, _, _, _, _, _, _, _, h.1⟩

theorem Beside.cur {s t : State} (h : Beside s t) : t.cur = s.cur := by
  obtain ⟨_, _, _, _, _, _, _, _, _, _, _, _, _, rfl⟩ := h.form
  rfl

theorem Beside.lfe {s t : State} (h : Beside s t) : t.lfe = s.lfe := by
  obtain ⟨_, _, _, _, _, _, _, _, _, _, _, _, _, rfl⟩ := h.form
  rfl

theorem Beside.savedTiles {s t : State} (h : Beside s t) (c : Nat) : (t.core c).savedTiles = (s.core c).savedTiles := by
  rw [← h.2.2.1 c]

theorem Beside.owner {s t : State} (h : Beside s t) (n : Nat) : (t.site n).owner = (s.site n).owner := by
  rw [← h.2.2.2 n]

theorem Beside.trans {s t u : State} (h : Beside s t) (h' : Beside t u) : Beside s u := by
  refine ⟨?_, fun n hn => ?_, fun c => ?_, fun n => ?_⟩
  · obtain ⟨_, _, _, _, _, _, _, _, _, _, _, _, _, ht⟩ := h.form
    obtain ⟨_, _, _, _, _, _, _, _, _, _, _, _, _, hu⟩ := h'.form
    rw [hu, ht]
  · rw [h'.2.1 n (h.cur ▸ hn), h.2.1 n hn]
  · rw [← h.2.2.1 c, ← h'.2.2.1 c]
  · rw [← h.2.2.2 n, ← h'.2.2.2 n]

theorem Beside.setTask {s t : State} (h : Beside s t) (k : Task) : Beside s (t.setTask s.cur k) :=
  h.trans ⟨rfl, fun n hn => by rw [tasks_setTask, find_ins, if_neg (h.cur ▸ hn)], fun _ => rfl, fun _ => rfl⟩

theorem Beside.setTslot {s t : State} (h : Beside s t) (c p : Nat) (v : TSlot) : Beside s (t.setTslot c p v) := by
  refine h.trans ⟨rfl, fun _ _ => rfl, fun d => ?_, fun _ => rfl⟩
  rw [State.setTslot, core_setCore]
  split
  · next hd => subst hd; rfl
  · rfl

theorem Beside.warmed {s t u : State} (h : Beside s t) (hw : warmed t u) (htasks : u.tasks = t.tasks) : Beside s u := by
  refine h.trans ⟨?_, fun n _ => by rw [htasks], fun c => ?_, fun n => ?_⟩
  · obtain ⟨_, _, _, _, _, _, _, _, _, _, hu⟩ := warmed_form hw
    rw [hu]
  · rw [← hw.2.1 c]
  · rw [← hw.2.2 n]

theorem arrive_tasks (s : State) (a : Nat) : (s.arrive a).tasks = s.tasks := (congrArg State.tasks (sampled_arrive s a).1).trans rfl

theorem Beside.arrive {s t : State} (h : Beside s t) (a : Nat) : Beside s (t.arrive a) :=
  h.warmed (warmed_of_sampled (sampled_arrive t a)) (arrive_tasks t a)

/-- The arena and the quota of a site change. -/
theorem Beside.setArena {s t : State} (h : Beside s t) {i : Nat} (hi : i ≤ 7) (l : Assoc AUnit) (w : Assoc Nat) :
    Beside s (t.setSite i { t.site i with arena := l, used := w }) := by
  refine h.trans ⟨by unfold State.setSite; split <;> rfl, fun n _ => by rw [setSite_tasks], fun c => by rw [core_setSite],
    fun n => ?_⟩
  rw [site_min _ n, site_min t n, site_setSite _ _ _ _ hi (Nat.min_le_right ..)]
  split
  · next hn => rw [hn]
  · rfl

theorem Beside.clear {s t : State} (h : Beside s t) (a n : Nat) : Beside s (t.clear a n) :=
  h.trans ⟨rfl, fun _ _ => rfl, fun _ => rfl, fun _ => rfl⟩

theorem Beside.draw {s t : State} (h : Beside s t) : Beside s t.draw.2 :=
  h.trans ⟨rfl, fun _ _ => rfl, fun _ => rfl, fun _ => rfl⟩

/-- The context that `routedOnly` leaves: its queues, its windows and its accesses on their way may differ. -/
def SameBeside (k k2 : Task) : Prop :=
  k2 = { k with win := k2.win, ord := k2.ord, hnd := k2.hnd, ldqOut := k2.ldqOut, stqOut := k2.stqOut, wid := k2.wid }

theorem SameBeside.refl (k : Task) : SameBeside k k := rfl

theorem sameBeside_reads {k k2 : Task} {l : List Access} (h : k2 = { k with win := k2.win, ldqOut := l }) : SameBeside k k2 := by
  rw [SameBeside]
  conv_lhs => rw [h]
  rw [h]

theorem sameBeside_withSet {k k2 : Task} (h : SameBeside k k2) (hs : Bool) (q : QSet) : SameBeside k (k2.withSet hs q) := by
  rw [SameBeside] at h ⊢
  rw [h]
  cases hs <;> rfl

/-- The context k2 is written last. -/
theorem Beside.routedOnly {s t : State} {k k2 : Task} (h : Beside s t) (hk : SameBeside k k2) :
    routedOnly s (t.setTask s.cur k2) k := by
  obtain ⟨hform, htasks, hcores, hsites⟩ := h.setTask k2
  have htask : (t.setTask s.cur k2).task s.cur = k2 := by rw [task_setTask, if_pos rfl]
  exact ⟨hform, htasks, htask.symm ▸ hk, hcores, hsites⟩

/-! ### Touches -/

theorem warmed_touchAll (s : State) (c : Nat) (h : Handle) (l : List Nat) : warmed s (s.touchAll c h l) :=
  each_inv (P := warmed s) (fun a _ ht => warmed_trans ht (warmed_touch _ c h a)) l (warmed_refl s)

theorem touchAll_tasks (s : State) (c : Nat) (h : Handle) (l : List Nat) : (s.touchAll c h l).tasks = s.tasks :=
  each_inv (P := fun t => t.tasks = s.tasks) (fun a t ht => (touch_tasks t c h a).trans ht) l rfl

theorem tslot_of_warmed {s t : State} (h : warmed s t) (c p : Nat) : t.tslot c p = s.tslot c p :=
  tslot_congr (by rw [← h.2.1 c]) p

theorem mem_of_warmed {s t : State} (h : warmed s t) : t.mem = s.mem := by
  obtain ⟨_, _, _, _, _, _, _, _, _, _, rfl⟩ := warmed_form h
  rfl

theorem Beside.touchAll {s t : State} (h : Beside s t) (c : Nat) (hd : Handle) (l : List Nat) : Beside s (t.touchAll c hd l) :=
  h.warmed (warmed_touchAll t c hd l) (touchAll_tasks ..)

end Sys2Proof.Claims
end

section
namespace Sys2Proof.Machine

/-- The issued entry that an effect leaves of entry e. -/
def Eff.issued (x : Eff) (e : Entry) : Issued :=
  { entry := e, holding := true, busy := x.busy, skipped := x.skipped, flags := x.flags, push := x.push, fills := x.fills, got := [],
    olds := x.olds, oldm := x.oldm }

/-- An instruction of no matrix unit leaves the unit's last taker. -/
theorem tookMatrix_eq (s : State) (t : Nat) (k : Task) {i : Instr} (h : (i.unit == 2) = false) : s.tookMatrix t k i = s :=
  if_neg (by simpa using h)

end Sys2Proof.Machine

namespace Sys2Proof.Claims
open Sys2Proof Sys2Proof.Machine

section
variable {i : Instr} {s s1 : State} {q : Nat} {hs : Bool} {k : Task} {e : Entry} {r : List Entry} {vals : List CtqEntry}

/-- The claims of a head's units change no context. -/
theorem AtHead.tasks_eq (h : AtHead i s q hs k e r vals s1) : s1.tasks = s.tasks := by
  have hs1 : (s.claims s.cur k (i.units k)).2 = s1 := by rw [h.units]
  rw [← hs1, claims_tasks]

theorem AtHead.task_eq (h : AtHead i s q hs k e r vals s1) : s1.task s.cur = k :=
  task_of_find s1 s.cur k (h.tasks_eq ▸ h.task)

theorem claim_frame (s : State) (t : Nat) (k : Task) (u : Nat) : ∃ c, (s.claim t k u).2 = { s with cores := c } := by
  unfold State.claim
  dsimp only
  (repeat' split) <;> exact ⟨_, rfl⟩

theorem claims_frame (s : State) (t : Nat) (k : Task) (l : List Nat) : ∃ c, (s.claims t k l).2 = { s with cores := c } := by
  induction l generalizing s with
  | nil => exact ⟨s.cores, rfl⟩
  | cons u l ih =>
    obtain ⟨c, hc⟩ := claim_frame s t k u
    obtain ⟨d, hd⟩ := ih (s.claim t k u).2
    exact ⟨d, hd.trans (by rw [hc])⟩

/-- They change the cores alone. -/
theorem AtHead.frame (h : AtHead i s q hs k e r vals s1) : ∃ c, s1 = { s with cores := c } := by
  obtain ⟨c, hc⟩ := claims_frame s s.cur k (i.units k)
  rw [h.units] at hc
  exact ⟨c, hc⟩

theorem AtHead.byte_eq (h : AtHead i s q hs k e r vals s1) (a : Nat) : s1.byte a = s.byte a := by
  obtain ⟨_, rfl⟩ := h.frame
  rfl

theorem AtHead.cur_eq (h : AtHead i s q hs k e r vals s1) : s1.cur = s.cur := by
  obtain ⟨_, rfl⟩ := h.frame
  rfl

theorem AtHead.lfe_eq (h : AtHead i s q hs k e r vals s1) : s1.lfe = s.lfe := by
  obtain ⟨_, rfl⟩ := h.frame
  rfl

/-- An instruction of queue q that does not use the matrix unit runs body at its head. -/
structure RunsAtHead (i : Instr) (q : Nat) (body : Hd → Head) : Prop where
  exec : ∀ s, exec i s = routed i q body s
  notMma : i.isMma = false
  unit : (i.unit == 2) = false

/-- A head whose body does x issues: the context that x leaves, with its queues as `issuedSet` says (R240). -/
theorem head_issues {body : Hd → Head} {x : Eff} {k2 : Task} (hruns : RunsAtHead i q body) (h : AtHead i s q hs k e r vals s1) (hbody : body (seen i s s1 k hs e vals) = .done x)
    (hk2 : x.s.task s.cur = k2) (hentry : ((k2.set hs).rq q).entries = e :: r) :
    exec i s = .next (x.s.setTask s.cur (k2.withSet hs (issuedSet i (k2.set hs) q e r ((x.keeping k i).issued e)))) := by
  have hrun := headRun_body i body s s1 s.cur k hs q e vals h.operands h.fences h.loads h.format h.alone h.units h.count
    (fun hm => absurd hm (by simp [hruns.notMma]))
  rw [seen] at hbody
  rw [hbody] at hrun
  rw [hruns.exec, routed_head i q q hs body s h.turn,
    headIssue_runs i body s q hs k e r vals h.task h.entry h.instr h.runs h.isOpen h.gate, hrun]
  simp only [issueHead_eq _ _ _ _ _ _ _ _ _ _ hk2, tookMatrix_eq _ _ _ hruns.unit, rq_takeTokens, ctq_takeTokens, hentry, issuedSet]
  rfl

/-- An effect that goes on keeps no register (R243). -/
theorem keeping_of_busy {x : Eff} (hbusy : x.busy = true) (hmma : i.isMma = false) : x.keeping k i = x := by
  simp [Eff.keeping, hbusy, hmma]

/-- A head that leaves reads on their way into the slots fills. -/
theorem head_reads {body : Hd → Head} {u : State} {k2 : Task} {fills : List Nat} (hruns : RunsAtHead i q body)
    (h : AtHead i s q hs k e r vals s1)
    (hbody : body (seen i s s1 k hs e vals) = .done { s := u, fills := fills, busy := true }) (hk2 : u.task s.cur = k2)
    (hset : k2.set hs = k.set hs) :
    exec i s = .next (u.setTask s.cur (k2.withSet hs (issuedSet i (k.set hs) q e r (reading e fills)))) := by
  rw [head_issues hruns h hbody hk2 (hset ▸ h.entry), keeping_of_busy rfl hruns.notMma, hset]
  rfl

/-- A head that has done its work only holds its unit. -/
theorem head_holds {body : Hd → Head} {u : State} {k2 : Task} (hruns : RunsAtHead i q body) (h : AtHead i s q hs k e r vals s1)
    (hbody : body (seen i s s1 k hs e vals) = .done { s := u }) (hk2 : u.task s.cur = k2)
    (hentry : ((k2.set hs).rq q).entries = e :: r) :
    exec i s = .next (u.setTask s.cur (k2.withSet hs (issuedSet i (k2.set hs) q e r (held k e 0)))) := by
  rw [head_issues hruns h hbody hk2 hentry]
  simp only [held, h.instr]
  rfl

/-- The same, said of the context alone: where beside it nothing changes. -/
theorem issues_of_holds {body : Hd → Head} {k2 : Task} (hruns : RunsAtHead i q body) (h : AtHead i s q hs k e r vals s1)
    (hbody : body (seen i s s1 k hs e vals) = .done { s := s1.setTask s.cur k2 }) (hentry : ((k2.set hs).rq q).entries = e :: r) :
    Issues i s s1 q hs k2 e r (held k e 0) := by
  have htask : (s1.setTask s.cur k2).task s.cur = k2 := by rw [task_setTask, if_pos rfl]
  rw [Issues, tookMatrix_eq _ _ _ hruns.unit, head_holds hruns h hbody htask hentry, setTask_setTask]
  rfl

theorem entries_issuedSet (i : Instr) (qs : QSet) (q : Nat) (e : Entry) (r : List Entry) (it : Issued) :
    ((issuedSet i qs q e r it).rq q).entries = r := by
  simp only [issuedSet, rq_setRq]

end

/-! ### Reads of a tile (R218 to R220) -/

/-- Without reads on their way there is nothing that takes place before an event on the tile. -/
theorem flushTile_of_noReads {s : State} {t n : Nat} (h : noReads s t n) : s.flushTile t n = s := by
  have hqueue : s.tileQueue t n = [] := by
    rw [State.tileQueue, List.flatMap_eq_nil_iff]
    intro p hp
    rw [List.map_eq_nil_iff, List.filter_eq_nil_iff]
    intro a ha hreads
    have hno := h p hp a ha
    cases a <;> simp_all [Access.readsSlot]
  rw [State.flushTile, hqueue, State.copyTiles]
  dsimp only
  split <;> rfl

theorem noReads_congr {s u : State} {t n : Nat} (h : u.tasks = s.tasks) (hno : noReads s t n) : noReads u t n := by
  rw [noReads, h]
  exact hno

/-- A tile that may be read passes the checks of a read. -/
theorem readTile_of_readableBy {s : State} {t o n : Nat} {ok : Task} {c : BitVec 1} {tl : TSlot} (h : readableBy s t o ok n c tl) :
    s.readTile t o ok n (c == 1) = .ok tl := by
  obtain ⟨hview, hlive, hgood, hsum, hother, hown, -⟩ := h
  have habsent : ¬(shareSum tl.shares = 0 ∨ (o ≠ t ∧ shareOf tl.shares t = 0)) := fun h => h.elim hsum fun ⟨ho, hz⟩ => hother ho hz
  have hcount : ¬((c == 1) = true ∧ shareOf tl.shares t = 0) := fun ⟨hc, hz⟩ => hown (by simpa using hc) hz
  simp only [State.readTile, hview, hlive, hgood, if_neg habsent, if_neg hcount]
  rfl

/-- What the instruction sees once the reads of a tile that nothing reads have taken place. -/
theorem flushed_of_noReads {i : Instr} {s s1 : State} {q : Nat} {hs : Bool} {k : Task} {e : Entry} {r : List Entry}
    {vals : List CtqEntry} (h : AtHead i s q hs k e r vals s1) {o n : Nat} (hno : noReads s1 o n) :
    (seen i s s1 k hs e vals).flushed o n = seen i s s1 k hs e vals := by
  simp only [Hd.flushed, seen, flushTile_of_noReads hno, h.task_eq]

/-- An EMPTY slot is free for a tile. -/
theorem slotFree_of_empty {x : Hd} {s : State} {n code : Nat} (h : slotEmpty s x.t x.k n) : x.slotFree s n code = .ok () := by
  rw [slotEmpty] at h
  simp only [Hd.slotFree, h]

/-! ### Fetches (R226) -/

theorem fillPlace_eq (tr : BitVec 2) (r j : Nat) : fillPlace tr r j = placeIn tr r j := by
  by_cases h0 : tr = 0
  · simp [fillPlace, placeIn, h0]
  · by_cases h1 : tr = 1
    · simp [fillPlace, placeIn, h1, Nat.mod_one]
    · simp only [fillPlace, placeIn, if_neg h0, if_neg h1]

theorem fillReads_eq (p a rows pitch : Nat) (tr : BitVec 2) (cls pos : Nat) :
    fillReads p a rows pitch tr cls pos = tileReads p a rows pitch tr cls pos := by
  simp only [fillReads, tileReads, fillPlace_eq]

/-- What a fetch by the entry at position pos of the current task does: reads behind those of the LDQ's stream, and tile x in physical
slot p of core c. -/
structure Fetches (s u : State) (c p : Nat) (x : TSlot) (reads : List Access) : Prop where
  tasks : u.tasks = ins s.tasks s.cur { s.task s.cur with ldqOut := (s.task s.cur).ldqOut ++ reads }
  slot : ∀ q, u.tslot c q = if q = p then x else s.tslot c q
  mem : u.mem = s.mem
  beside : Beside s u

theorem Fetches.task {s u : State} {c p : Nat} {x : TSlot} {reads : List Access} (h : Fetches s u c p x reads) :
    u.task s.cur = { s.task s.cur with ldqOut := (s.task s.cur).ldqOut ++ reads } := by
  rw [State.task, h.tasks, find_ins, if_pos rfl]
  rfl

/-- A fetch that passes its checks starts. -/
theorem fetchTile_starts {x : Hd} {s : State} {h : Handle} {off : Int} {rows pitch : Nat} {tr : BitVec 2} (n count cls : Nat)
    (ht : x.t = s.cur) (hok : fetchOk h off rows pitch (rowWidth tr)) :
    ∃ u, x.fetchTile s n h off rows pitch tr count cls = .ok u ∧ Fetches s u x.k.coreKey (x.k.partBase + n)
      (fetched s.cur x.e.pos (s.tslot x.k.coreKey (x.k.partBase + n)) count tr)
      (tileReads (x.k.partBase + n) (h.addr off) rows pitch tr cls x.e.pos) := by
  obtain ⟨hrows, hdev⟩ := hok
  refine ⟨_, by simp only [Hd.fetchTile, hrows, hdev, Bool.false_eq_true, if_false]; rfl, ?_, fun q => ?_, ?_, ?_⟩
  · rw [touchAll_tasks, ht, ← fillReads_eq]
    rfl
  · rw [tslot_of_warmed (warmed_touchAll ..), tslot_setTslot, ht]
    rfl
  · rw [mem_of_warmed (warmed_touchAll ..)]
    rfl
  · rw [ht]
    exact (((Beside.refl s).setTask _).setTslot _ _ _).touchAll _ _ _

/-- The clause of O33 on TFETCH. -/
theorem fetchStarts : FetchStarts := by
  intro f s s1 hs k e r vals rows pitch hhead hempty hshape hok p cls
  obtain ⟨u, hu, hfetch⟩ := fetchTile_starts (x := seen (.tfetch f) s s1 k hs e vals) f.ta.toNat f.n12.toNat (classOf f.pfx f.cls)
    hhead.cur_eq.symm hok
  have hbody : fetchBody f (seen (.tfetch f) s s1 k hs e vals) = .done { s := u, fills := [p], busy := true } := by
    have hfree : (seen (.tfetch f) s s1 k hs e vals).slotFree s1 f.ta.toNat 3 = .ok () := slotFree_of_empty hempty
    simp only [fetchBody, show (seen (.tfetch f) s s1 k hs e vals).s = s1 from rfl, hfree]
    simp only [show (seen (.tfetch f) s s1 k hs e vals).e = e from rfl, hshape, hu]
    rfl
  have htask := hfetch.task
  rw [hhead.cur_eq, hhead.task_eq] at htask
  refine ⟨_, head_reads ⟨fun _ => rfl, rfl, rfl⟩ hhead hbody htask (by cases hs <;> rfl), fun a => ?_, ?_, ?_, fun q hq => ?_, ?_⟩
  · exact (byte_congr _ _ hfetch.mem a).trans (hhead.byte_eq a)
  · rw [tasks_setTask, hfetch.tasks, hhead.cur_eq, ins_ins]
    rfl
  · rw [tslot_setTask, ← hhead.cur_eq]
    exact (hfetch.slot p).trans (if_pos rfl)
  · rw [tslot_setTask]
    exact (hfetch.slot q).trans (if_neg hq)
  · rw [← hhead.cur_eq]
    exact hfetch.beside.routedOnly (sameBeside_withSet (sameBeside_reads rfl) hs _)

end Sys2Proof.Claims
end

section
/-! SUPPORT. The reads of the LDQ's stream: what one brings to a slot, and the end of an entry's work (O33, O36, O37). -/

namespace Sys2Proof.Machine

/-! ### Bytes of a number -/

/-- A byte put where there is none is read back there, and every other byte stays. -/
theorem byte_add {S b p : Nat} (hS : S / 2 ^ (8 * p) % 2 ^ 8 = 0) (hb : b < 2 ^ 8) (j : Nat) :
    (S + b * 2 ^ (8 * p)) / 2 ^ (8 * j) % 2 ^ 8 = if j = p then b else S / 2 ^ (8 * j) % 2 ^ 8 := by
  obtain hj | rfl | hj := Nat.lt_trichotomy j p
  · obtain ⟨m, rfl⟩ : ∃ m, p = j + 1 + m := ⟨p - (j + 1), by omega⟩
    have hsplit : b * 2 ^ (8 * (j + 1 + m)) = 2 ^ (8 * j) * (2 ^ 8 * (b * 2 ^ (8 * m))) := by
      rw [show 8 * (j + 1 + m) = 8 * j + (8 + 8 * m) by ring, pow_add, pow_add]
      ring
    rw [hsplit, Nat.add_mul_div_left _ _ (by positivity), Nat.add_mul_mod_self_left, if_neg (by omega)]
  · rw [Nat.add_mul_div_right _ _ (by positivity), if_pos rfl]
    omega
  · obtain ⟨m, rfl⟩ : ∃ m, j = p + 1 + m := ⟨j - (p + 1), by omega⟩
    have hsplit : 2 ^ (8 * (p + 1 + m)) = 2 ^ (8 * p) * (2 ^ 8 * 2 ^ (8 * m)) := by
      rw [show 8 * (p + 1 + m) = 8 * p + (8 + 8 * m) by ring, pow_add, pow_add]
    have hhigh : (S / 2 ^ (8 * p) + b) / 2 ^ 8 = S / 2 ^ (8 * p) / 2 ^ 8 := by omega
    rw [hsplit, ← Nat.div_div_eq_div_mul, ← Nat.div_div_eq_div_mul, Nat.add_mul_div_right _ _ (by positivity), hhigh,
      if_neg (by omega), ← Nat.div_div_eq_div_mul, ← Nat.div_div_eq_div_mul]

/-- The number that bytes at places make up. -/
def placed (l : List (Nat × Byte)) : Nat := sumNat (l.map fun b => b.2.toNat * 2 ^ (8 * b.1))

theorem placed_cons (b : Nat × Byte) (l : List (Nat × Byte)) : placed (b :: l) = placed l + b.2.toNat * 2 ^ (8 * b.1) :=
  Nat.add_comm ..

/-- Where no byte is placed the number has none. -/
theorem placed_none {l : List (Nat × Byte)} (hl : (l.map fun b => b.1).Nodup) {j : Nat} (h : ∀ b ∈ l, b.1 ≠ j) :
    placed l / 2 ^ (8 * j) % 2 ^ 8 = 0 := by
  induction l generalizing j with
  | nil => simp [placed, sumNat]
  | cons b l ih =>
    obtain ⟨hb, hl⟩ := List.nodup_cons.mp hl
    have hfree : placed l / 2 ^ (8 * b.1) % 2 ^ 8 = 0 := ih hl fun c hc hcb => hb (List.mem_map.mpr ⟨c, hc, hcb⟩)
    rw [placed_cons, byte_add hfree b.2.isLt, if_neg (h b List.mem_cons_self).symm, ih hl fun c hc => h c (List.mem_cons_of_mem _ hc)]

/-- Bytes at distinct places are the bytes of the number there. -/
theorem placed_at {l : List (Nat × Byte)} (hl : (l.map fun b => b.1).Nodup) {b : Nat × Byte} (hb : b ∈ l) :
    placed l / 2 ^ (8 * b.1) % 2 ^ 8 = b.2.toNat := by
  induction l with
  | nil => cases hb
  | cons c l ih =>
    obtain ⟨hc, hl⟩ := List.nodup_cons.mp hl
    have hfree : placed l / 2 ^ (8 * c.1) % 2 ^ 8 = 0 := placed_none hl fun d hd hdc => hc (List.mem_map.mpr ⟨d, hd, hdc⟩)
    rw [placed_cons, byte_add hfree c.2.isLt]
    rcases List.mem_cons.mp hb with rfl | hb
    · rw [if_pos rfl]
    · rw [if_neg fun (h : b.1 = c.1) => hc (List.mem_map.mpr ⟨b, hb, h⟩), ih hl hb]

/-- Bytes ored into a vector, byte by byte. -/
theorem byte_or_ofNat {w : Nat} (x : BitVec w) (S : Nat) {j : Nat} (hj : 8 * j + 8 ≤ w) :
    (x ||| BitVec.ofNat w S).toNat / 2 ^ (8 * j) % 2 ^ 8 = x.toNat / 2 ^ (8 * j) % 2 ^ 8 ||| S / 2 ^ (8 * j) % 2 ^ 8 := by
  refine Nat.eq_of_testBit_eq fun i => ?_
  simp only [BitVec.toNat_or, BitVec.toNat_ofNat, Nat.testBit_mod_two_pow, Nat.testBit_div_two_pow, Nat.testBit_or]
  by_cases hi : i < 8
  · simp [hi, show i + 8 * j < w by omega]
  · simp [hi]

/-! ### What a tile takes (R217, R226) -/

theorem take_nil (x : TSlot) : x.take [] = x := by
  simp [TSlot.take, sumNat]

/-- The bytes read, at their places in the tile. -/
def inTile (l : List (Nat × Byte × Bool)) : List (Nat × Byte) := l.map fun b => (b.1 % 65536, b.2.1)

theorem take_byte (x : TSlot) (l : List (Nat × Byte × Bool)) {j : Nat} (hj : j < 65536) :
    (x.take l).data.toNat / 2 ^ (8 * j) % 2 ^ 8 =
      x.data.toNat / 2 ^ (8 * j) % 2 ^ 8 ||| placed (inTile l) / 2 ^ (8 * j) % 2 ^ 8 := by
  rw [TSlot.take, byte_or_ofNat _ _ (by omega), placed, inTile, List.map_map]
  rfl

/-- The tile of an entry that fills a slot. -/
def TSlot.filledBy (x : TSlot) (t pos : Nat) : Bool := x.state == .filling && x.owner == t && x.filler == pos

theorem eraseDups_replicate {l : List Nat} {p : Nat} (hl : ∀ m ∈ l, m = p) (hne : l ≠ []) : l.eraseDups = [p] := by
  obtain ⟨a, r, rfl⟩ := List.exists_cons_of_ne_nil hne
  obtain rfl := hl a List.mem_cons_self
  have hrest : (r.filter fun b => !b == a) = [] := by
    rw [List.filter_eq_nil_iff]
    intro b hb
    simp [hl b (List.mem_cons_of_mem _ hb)]
  rw [List.eraseDups_cons, hrest, List.eraseDups_nil]

/-- Bytes read for physical slot p reach the tile there, while the entry fills it, and nothing else (R217, R226). -/
theorem gotBytes_tile {s : State} {t pos p : Nat} {k : Task} {l : List (Nat × Byte × Bool)} (hk : find s.tasks t = some k)
    (hl : ∀ b ∈ l, b.1 / 65536 = p + 1) : s.gotBytes t pos l =
      if l ≠ [] ∧ (s.tslot k.coreKey p).filledBy t pos = true then s.setTslot k.coreKey p ((s.tslot k.coreKey p).take l) else s := by
  have hmine : (l.filter fun b => decide (b.1 < 65536)) = [] := by
    rw [List.filter_eq_nil_iff]
    intro b hb
    have := hl b hb
    simp only [decide_eq_true_eq]
    omega
  have hothers : (l.filter fun b => decide (65536 ≤ b.1)) = l := by
    rw [List.filter_eq_self]
    intro b hb
    have := hl b hb
    simp only [decide_eq_true_eq]
    omega
  have hslot : (l.filter fun b => b.1 / 65536 == p + 1) = l := by
    rw [List.filter_eq_self]
    intro b hb
    simp [hl b hb]
  by_cases hne : l = []
  · subst hne
    simp [State.gotBytes, hk, each]
  · have hslots : (l.map fun b => b.1 / 65536 - 1).eraseDups = [p] := by
      refine eraseDups_replicate (fun m hm => ?_) (by simpa using hne)
      obtain ⟨b, hb, rfl⟩ := List.mem_map.mp hm
      rw [hl b hb]
      rfl
    simp only [State.gotBytes, hk, hmine, hothers, hslots, each, hslot, List.isEmpty_nil, if_true, TSlot.filledBy]
    simp [hne]

/-- The slots after such a read. -/
theorem gotBytes_tslot {s : State} {t pos p : Nat} {k : Task} {l : List (Nat × Byte × Bool)} (hk : find s.tasks t = some k)
    (hl : ∀ b ∈ l, b.1 / 65536 = p + 1) (q : Nat) : (s.gotBytes t pos l).tslot k.coreKey q =
      if q = p ∧ (s.tslot k.coreKey p).filledBy t pos = true then (s.tslot k.coreKey p).take l else s.tslot k.coreKey q := by
  rw [gotBytes_tile hk hl]
  by_cases hq : q = p
  · subst hq
    by_cases hne : l = []
    · simp [hne, take_nil]
    · by_cases hfills : (s.tslot k.coreKey q).filledBy t pos = true
      · rw [if_pos ⟨hne, hfills⟩, if_pos ⟨rfl, hfills⟩, tslot_setTslot_self]
      · rw [if_neg fun h => hfills h.2, if_neg fun h => hfills h.2]
  · rw [if_neg fun h : q = p ∧ _ => hq h.1]
    split
    · rw [tslot_setTslot, if_neg hq]
    · rfl

/-- Such a read changes no context. -/
theorem gotBytes_tasks {s : State} {t pos p : Nat} {k : Task} {l : List (Nat × Byte × Bool)} (hk : find s.tasks t = some k)
    (hl : ∀ b ∈ l, b.1 / 65536 = p + 1) : (s.gotBytes t pos l).tasks = s.tasks := by
  rw [gotBytes_tile hk hl]
  split <;> rfl

/-! ### Issued entries (R242) -/

/-- A change of the issued entry at a position is found there. -/
theorem issuedAt_atPos (k : Task) (pos : Nat) {f : Issued → Issued} (hf : ∀ i, (f i).entry = i.entry) :
    (k.atPos pos f).issuedAt pos = (k.issuedAt pos).map f := by
  have hfind (l : List Issued) : ((l.map fun i => if i.entry.pos = pos then f i else i).find? fun i => i.entry.pos == pos) =
      (l.find? fun i => i.entry.pos == pos).map f := by
    induction l with
    | nil => rfl
    | cons a l ih =>
      by_cases ha : a.entry.pos = pos
      · simp [ha, hf]
      · simpa [ha] using ih
  simp only [Task.issuedAt, Task.atPos, QSet.atPos, ← List.map_append]
  exact hfind _

/-- An entry whose work is over. -/
def Issued.idle (i : Issued) : Issued := { i with busy := false }

/-- An entry of the LDQ, no vector load, with no read left has done its work (R242). -/
theorem landEntry_eq {s : State} {t pos : Nat} {k : Task} {it : Issued} (hk : find s.tasks t = some k)
    (hit : k.issuedAt pos = some it) (hload : ∀ f, it.entry.instr ≠ .vld f ∧ it.entry.instr ≠ .vlds f ∧ it.entry.instr ≠ .vgath f) :
    s.landEntry t pos =
      if k.ldqOut.any fun a => a.posOf == some pos then s else s.setTask t (k.atPos pos Issued.idle) := by
  simp only [State.landEntry, hk, hit]
  split
  · rfl
  · split
    · next f h => exact absurd h (hload f).1
    · next f h => exact absurd h (hload f).2.1
    · next f h => exact absurd h (hload f).2.2
    · rfl

end Sys2Proof.Machine

namespace Sys2Proof.Claims
open Sys2Proof Sys2Proof.Machine

/-- What a read of the LDQ's stream brings. -/
def bytesRead (s : State) (want : List (Nat × Nat)) : List (Nat × Byte × Bool) := want.map fun w => (w.1, s.byte w.2, s.bad w.2)

/-- A read that may be performed takes place whole (R250, R328). -/
theorem exec_read {s : State} {k : Task} {t n pos cls : Nat} {want : List (Nat × Nat)} {it : Issued}
    (h : mayRead s t k n want cls pos it) : exec (.accessPerformed t n ⟨1, 0⟩) s = .next
      (((s.setTask t { k with ldqOut := dropFences (dropAt k.ldqOut n) }).gotBytes t pos (bytesRead s want)).landEntry t pos) := by
  obtain ⟨hk, hitem, hmay, hheld, -⟩ := h
  have hfree : (want.any fun c => s.heldAt c.2) = false := by
    rw [List.any_eq_false]
    intro w hw
    simp [hheld w hw]
  have hrun : performLdq s t k n 0 =
      ((s.setTask t { k with ldqOut := dropFences (dropAt k.ldqOut n) }).gotBytes t pos (bytesRead s want)).landEntry t pos := by
    simp [performLdq, hitem, whichItem, hmay, hfree, leaveItem, bytesRead]
  rw [← hrun]
  show execAccessPerformed t n ⟨1, 0⟩ s = _
  simp [execAccessPerformed, hk]

section
variable {s : State} {t pos : Nat} {k : Task} {it : Issued} (hk : find s.tasks t = some k) (hit : k.issuedAt pos = some it)
  (hload : ∀ f, it.entry.instr ≠ .vld f ∧ it.entry.instr ≠ .vlds f ∧ it.entry.instr ≠ .vgath f)
include hk hit hload

/-- What the end of an entry's work may change is its own mark in the context. -/
theorem landEntry_frame : ∃ k2, k2.ldqOut = k.ldqOut ∧ (s.landEntry t pos = s ∧ k2 = k ∨ s.landEntry t pos = s.setTask t k2) := by
  rw [landEntry_eq hk hit hload]
  split
  · exact ⟨k, rfl, .inl ⟨rfl, rfl⟩⟩
  · exact ⟨k.atPos pos Issued.idle, rfl, .inr rfl⟩

theorem landEntry_ldqOut : ((s.landEntry t pos).task t).ldqOut = k.ldqOut := by
  obtain ⟨k2, hsame, ⟨hu, rfl⟩ | hu⟩ := landEntry_frame hk hit hload
  · rw [hu, task_of_find s t _ hk]
  · rw [hu, task_setTask, if_pos rfl, hsame]

theorem landEntry_tslot (c p : Nat) : (s.landEntry t pos).tslot c p = s.tslot c p := by
  obtain ⟨k2, -, ⟨hu, -⟩ | hu⟩ := landEntry_frame hk hit hload <;> rw [hu]
  exact tslot_setTask ..

/-- An entry without a read left has done its work. -/
theorem landEntry_idle (hlast : ∀ a ∈ k.ldqOut, a.posOf ≠ some pos) :
    ∃ j, ((s.landEntry t pos).task t).issuedAt pos = some j ∧ j.busy = false ∧ j.entry = it.entry := by
  have hnone : (k.ldqOut.any fun a => a.posOf == some pos) = false := by
    rw [List.any_eq_false]
    intro a ha
    simp [hlast a ha]
  rw [landEntry_eq hk hit hload, hnone, if_neg Bool.false_ne_true, task_setTask, if_pos rfl,
    issuedAt_atPos k pos (f := Issued.idle) fun _ => rfl, hit]
  exact ⟨_, rfl, rfl, rfl⟩

end

/-- The bytes read stand in the tile at the places they were read for. -/
theorem placed_bytesRead {s : State} {want : List (Nat × Nat)} {p : Nat} (hplace : ∀ w ∈ want, w.1 / 65536 = p + 1)
    (hdistinct : (want.map fun w => w.1).Nodup) :
    (∀ w ∈ want, placed (inTile (bytesRead s want)) / 2 ^ (8 * (w.1 % 65536)) % 2 ^ 8 = (s.byte w.2).toNat) ∧
      ∀ j, (∀ w ∈ want, w.1 % 65536 ≠ j) → placed (inTile (bytesRead s want)) / 2 ^ (8 * j) % 2 ^ 8 = 0 := by
  have hcells : inTile (bytesRead s want) = want.map fun w => (w.1 % 65536, s.byte w.2) := by
    rw [inTile, bytesRead, List.map_map]
    rfl
  have hnodup : ((want.map fun w => (w.1 % 65536, s.byte w.2)).map fun b => b.1).Nodup := by
    rw [List.map_map]
    refine List.Nodup.of_map (fun m => 65536 * (p + 1) + m) ?_
    rw [List.map_map]
    refine (List.map_congr_left fun w hw => ?_) ▸ hdistinct
    have := hplace w hw
    simp only [Function.comp_apply]
    omega
  rw [hcells]
  refine ⟨fun w hw => placed_at hnodup (b := (w.1 % 65536, s.byte w.2)) (List.mem_map.mpr ⟨w, hw, rfl⟩), fun j hj => ?_⟩
  refine placed_none hnodup fun b hb => ?_
  obtain ⟨w, hw, rfl⟩ := List.mem_map.mp hb
  exact hj w hw

/-- The clause of O33 on a read: the tile takes the bytes, which are read where they stand, and the entry's work may be over. -/
theorem fillTakesBytes : FillTakesBytes := by
  intro s k t n p pos cls want it hread hplace hdistinct hload x fills
  have hrun := exec_read hread
  obtain ⟨hk, -, -, -, hit⟩ := hread
  obtain ⟨k1, hk1⟩ : ∃ k1, k1 = { k with ldqOut := dropFences (dropAt k.ldqOut n) } := ⟨_, rfl⟩
  rw [← hk1] at hrun
  have hkey : k1.coreKey = k.coreKey := by rw [hk1]; rfl
  have hit1 : k1.issuedAt pos = some it := by rw [hk1]; exact hit
  have hout : k1.ldqOut = dropFences (dropAt k.ldqOut n) := by rw [hk1]
  have hl : ∀ b ∈ bytesRead s want, b.1 / 65536 = p + 1 := by
    intro b hb
    obtain ⟨w, hw, rfl⟩ := List.mem_map.mp hb
    exact hplace w hw
  have hfind : find (s.setTask t k1).tasks t = some k1 := by rw [tasks_setTask, find_ins, if_pos rfl]
  have hgot : find ((s.setTask t k1).gotBytes t pos (bytesRead s want)).tasks t = some k1 := by rw [gotBytes_tasks hfind hl, hfind]
  have hslot (q : Nat) : (((s.setTask t k1).gotBytes t pos (bytesRead s want)).landEntry t pos).tslot k.coreKey q =
      if q = p ∧ x.filledBy t pos = true then x.take (bytesRead s want) else s.tslot k.coreKey q := by
    rw [landEntry_tslot hgot hit1 hload, ← hkey, gotBytes_tslot hfind hl, hkey]
    rfl
  have hfills : fills ↔ x.filledBy t pos = true := by simp [fills, TSlot.filledBy, and_assoc]
  obtain ⟨hat, hnone⟩ := placed_bytesRead (s := s) hplace hdistinct
  refine ⟨_, hrun, fun h => ?_, fun h => ?_, fun q hq => ?_, ?_, fun hlast => ?_, fun a => ?_⟩
  · have ⟨hstate, _, _⟩ := h
    rw [hslot, if_pos ⟨rfl, hfills.mp h⟩]
    refine ⟨?_, fun w hw => ?_, fun j hj hw => ?_, hstate, rfl⟩
    · simp [TSlot.take, bytesRead, Function.comp_def]
    · rw [take_byte _ _ (Nat.mod_lt _ (by decide)), hat w hw]
    · rw [take_byte _ _ hj, hnone j hw, Nat.or_zero]
  · rw [hslot, if_neg fun hx => h (hfills.mpr hx.2)]
  · rw [hslot, if_neg fun hx => hq hx.1]
  · rw [landEntry_ldqOut hgot hit1 hload, hout]
  · rw [landEntry_ldqOut hgot hit1 hload] at hlast
    exact landEntry_idle hgot hit1 hload hlast
  · rw [byte_congr _ _ (landEntry_mem ..).1, byte_congr _ _ (gotBytes_mem ..).1, byte_setTask]

/-- Settles O33: a fetch that passes its checks starts, and each of its reads reaches the tile while the entry fills it. -/
theorem tileFetch : Obligations.TileFetch := ⟨fetchStarts, fillTakesBytes⟩

end Sys2Proof.Claims
end

section
/-! SUPPORT. Windows: the fetches of a TWIN, group by group, and the turn of a TADV (O34). -/

namespace Sys2Proof.Machine

/-! ### Windows (R227, R228) -/

theorem window_setWindow (k : Task) (n : Nat) (w : Window) : (k.setWindow n w).window n = some w := by
  rw [Task.window, Task.setWindow, get_put, if_pos rfl]

/-- The class of an instruction stays its class where its prefix is applied again. -/
theorem classOf_classOf (p : Option Pfx) (c : BitVec 4) : classOf p (BitVec.ofNat 4 (classOf p c)) = classOf p c := by
  obtain ⟨d, hd⟩ | hnone : (∃ d, p = some (.pxo d)) ∨ ∀ d : BitVec 4, classOf p d = d.toNat := by
    cases p with
    | none => exact .inr fun _ => rfl
    | some y =>
      cases y with
      | pxo d => exact .inl ⟨d, rfl⟩
      | pxm | pxc | pxp | pxr | pxs => exact .inr fun _ => rfl
  · rw [hd]
    rfl
  · rw [hnone, hnone, BitVec.ofNat_toNat, BitVec.setWidth_eq]

/-- What a legal descriptor of a TWIN gives its window. -/
theorem windowOf_some {f : TL} {e : Entry} {w : Window} (h : windowOf f e = some w) :
    w.h = e.h ∧ w.tr = f.tr.toNat ∧ w.cls = classOf f.pfx f.cls ∧ w.next = 0 ∧ w.size ≤ 16 := by
  simp only [windowOf] at h
  split at h
  · cases h
  · next hlegal =>
    cases h
    simp only [not_or, not_lt] at hlegal
    obtain ⟨-, -, -, hsize⟩ := hlegal
    exact ⟨rfl, rfl, rfl, rfl, Nat.pow_le_pow_right (by decide) hsize⟩

/-- The reads that fetch group g of a window of context k into its slot. -/
def Window.reads (w : Window) (k : Task) (cls pos slot g : Nat) : List Access :=
  Claims.tileReads (k.partBase + slot) (w.h.addr (w.off + (g * w.rows * w.pitch : Nat))) w.rows w.pitch (BitVec.ofNat 2 w.tr) cls pos

/-- A group whose rows pass their checks. -/
def Window.groupOk (w : Window) (g : Nat) : Prop :=
  Claims.fetchOk w.h (w.off + (g * w.rows * w.pitch : Nat)) w.rows w.pitch (rowWidth (BitVec.ofNat 2 w.tr))

end Sys2Proof.Machine

namespace Sys2Proof.Claims
open Sys2Proof Sys2Proof.Machine

/-- The fetch of a group that passes its checks starts, in the window's class or that of a PXO prefix (R228). -/
theorem fetchGroup_starts {x : Hd} {s : State} {w : Window} {g : Nat} (n : Nat) (ht : x.t = s.cur) (hok : w.groupOk g) :
    ∃ u, x.fetchGroup s w g n = .ok u ∧ Fetches s u x.k.coreKey (x.k.partBase + n)
      (fetched s.cur x.e.pos (s.tslot x.k.coreKey (x.k.partBase + n)) w.count (BitVec.ofNat 2 w.tr))
      (w.reads x.k (w.classFor x.e.instr.pfx) x.e.pos n g) :=
  fetchTile_starts n w.count (w.classFor x.e.instr.pfx) ht hok

/-! ### The initial fetches of a TWIN (R230) -/

/-- From s, the TWIN at position pos of the current task, whose context is k, has started the fetches of the first g groups of its window w,
its number wn, in class cls. -/
structure Started (s : State) (k : Task) (w : Window) (wn cls pos g : Nat) (u : State) : Prop where
  window : (u.task s.cur).window wn = some { w with next := g }
  task : u.task s.cur = { k with win := (u.task s.cur).win,
                                 ldqOut := k.ldqOut ++ (List.range g).flatMap fun j => w.reads k cls pos (w.first + j) j }
  filled : ∀ j, j < g → u.tslot k.coreKey (k.partBase + (w.first + j)) =
    fetched s.cur pos (s.tslot k.coreKey (k.partBase + (w.first + j))) w.count (BitVec.ofNat 2 w.tr)
  others : ∀ q, (∀ j, j < g → q ≠ k.partBase + (w.first + j)) → u.tslot k.coreKey q = s.tslot k.coreKey q
  mem : u.mem = s.mem
  beside : Beside s u

section
variable {x : Hd} {s : State} {w : Window} {wn cls : Nat} (ht : x.t = s.cur) (hcls : w.classFor x.e.instr.pfx = cls)
include ht

/-- Before the first fetch the window is declared. -/
theorem started_zero (hnext : w.next = 0) :
    Started s x.k w wn cls x.e.pos 0 (s.setTask x.t (x.k.setWindow wn w)) := by
  have htask : (s.setTask x.t (x.k.setWindow wn w)).task s.cur = x.k.setWindow wn w := by rw [task_setTask, if_pos ht.symm]
  refine ⟨?_, ?_, fun j hj => absurd hj (Nat.not_lt_zero j), fun _ _ => rfl, rfl, ?_⟩
  · rw [htask, window_setWindow, ← hnext]
  · rw [htask, List.range_zero, List.flatMap_nil, List.append_nil]
    rfl
  · rw [ht]
    exact (Beside.refl s).setTask _

include hcls

/-- One more fetch, into an EMPTY slot. -/
theorem started_succ {g : Nat} {u : State} (h : Started s x.k w wn cls x.e.pos g u) (hempty : slotEmpty s x.t x.k (w.first + g))
    (hok : w.groupOk g) : x.slotFree u (w.first + g) 3 = .ok () ∧
      ∃ v, x.fetchGroup u { w with next := g } g (w.first + g) = .ok v ∧
        Started s x.k w wn cls x.e.pos (g + 1) (v.setTask x.t ((v.task x.t).setWindow wn { w with next := g + 1 })) := by
  have hslot : u.tslot x.k.coreKey (x.k.partBase + (w.first + g)) = s.tslot x.k.coreKey (x.k.partBase + (w.first + g)) :=
    h.others _ fun j hj => by omega
  have hfree : slotEmpty u x.t x.k (w.first + g) := (view_congr (h.beside.savedTiles _) hslot _).trans hempty
  have hcur : u.cur = s.cur := h.beside.cur
  obtain ⟨v, hv, hfetch⟩ := fetchGroup_starts (x := x) (w := { w with next := g }) (g := g) (w.first + g) (ht.trans hcur.symm) hok
  have hreads : ({ w with next := g } : Window).reads x.k (Window.classFor { w with next := g } x.e.instr.pfx) x.e.pos (w.first + g) g =
      w.reads x.k cls x.e.pos (w.first + g) g := by rw [← hcls]; rfl
  rw [hreads, hcur, hslot] at hfetch
  have htask := hfetch.task
  rw [hcur] at htask
  have hnew (z : Task) : (v.setTask x.t z).task s.cur = z := by rw [task_setTask, if_pos ht.symm]
  refine ⟨slotFree_of_empty hfree, v, hv, ?_, ?_, fun j hj => ?_, fun q hq => ?_, ?_, ?_⟩
  · rw [hnew, window_setWindow]
  · rw [hnew, ht, htask, Task.setWindow, h.task, List.range_succ, List.flatMap_append, List.flatMap_singleton, List.append_assoc]
  · rw [tslot_setTask, hfetch.slot]
    rcases Nat.lt_succ_iff_lt_or_eq.mp hj with hj | rfl
    · rw [if_neg (by omega), h.filled j hj]
    · rw [if_pos rfl]
  · rw [tslot_setTask, hfetch.slot, if_neg (hq g (Nat.lt_succ_self g)), h.others q fun j hj => hq j (Nat.lt_succ_of_lt hj)]
  · exact hfetch.mem.trans h.mem
  · rw [ht]
    exact (h.beside.trans hfetch.beside).setTask _

/-- The initial fetches, of m groups, come to their end. -/
theorem twinLoop_done {m : Nat} (hfree : ∀ g, g < m → slotEmpty s x.t x.k (w.first + g) ∧ w.groupOk g) (n : Nat) {g : Nat} {u : State}
    (hgm : g ≤ m) (hfuel : m ≤ g + n) (h : Started s x.k w wn cls x.e.pos g u) :
    ∃ v, twinLoop x wn m n { w with next := g } u = twinDone x m { w with next := m } v ∧ Started s x.k w wn cls x.e.pos m v := by
  induction n generalizing g u with
  | zero =>
    obtain rfl : g = m := by omega
    exact ⟨u, rfl, h⟩
  | succ n ih =>
    rcases Nat.eq_or_lt_of_le hgm with rfl | hlt
    · exact ⟨u, by rw [twinLoop, if_pos (Nat.le_refl _)], h⟩
    · obtain ⟨hempty, hok⟩ := hfree g hlt
      obtain ⟨hslot, v, hv, hnext⟩ := started_succ ht hcls h hempty hok
      obtain ⟨z, hz, hdone⟩ := ih (Nat.succ_le_of_lt hlt) (by omega) hnext
      refine ⟨z, ?_, hdone⟩
      rw [twinLoop, if_neg (Nat.not_le.mpr hlt)]
      simp only [hslot, hv]
      exact hz

end

/-- The slots of a TWIN at its head EMPTY and its groups in range, its window is declared and its initial fetches have started. -/
theorem twinBody_done {f : TL} {s s1 : State} {hs : Bool} {k : Task} {e : Entry} {r : List Entry} {vals : List CtqEntry} {w : Window}
    (hhead : AtHead (.twin f) s 0 hs k e r vals s1) (hwindow : windowOf f e = some w) (hfits : w.first + w.size ≤ k.partSize)
    (hnew : k.window (e.xb.toNat / 2 ^ 32 % 4) = none)
    (hgroups : ∀ g, g < min w.size w.groups → slotEmpty s1 s.cur k (w.first + g) ∧
      fetchOk e.h (w.off + (g * w.rows * w.pitch : Nat)) w.rows w.pitch (rowWidth f.tr)) :
    ∃ v, twinBody f (seen (.twin f) s s1 k hs e vals) =
        twinDone (seen (.twin f) s s1 k hs e vals) (min w.size w.groups) { w with next := min w.size w.groups } v ∧
      Started s1 k w (e.xb.toNat / 2 ^ 32 % 4) w.cls e.pos (min w.size w.groups) v := by
  obtain ⟨hh, htr, hcls, hnext, hsize⟩ := windowOf_some hwindow
  have ht : (seen (.twin f) s s1 k hs e vals).t = s1.cur := hhead.cur_eq.symm
  have hclass : w.classFor e.instr.pfx = w.cls := by
    rw [hhead.instr, Window.classFor, hcls]
    exact classOf_classOf ..
  have hfree : ∀ g, g < min w.size w.groups → slotEmpty s1 s.cur k (w.first + g) ∧ w.groupOk g := by
    intro g hg
    rw [Window.groupOk, htr, BitVec.ofNat_toNat, BitVec.setWidth_eq, hh]
    exact hgroups g hg
  have hzero := started_zero (wn := e.xb.toNat / 2 ^ 32 % 4) (cls := w.cls) ht hnext
  obtain ⟨v, hv, hdone⟩ := twinLoop_done ht hclass hfree 16 (Nat.zero_le _) (by omega) hzero
  refine ⟨v, ?_, hdone⟩
  rw [← hv]
  simp only [twinBody, seen, hwindow, if_neg (Nat.not_lt.mpr hfits), hnew, ← hnext]

/-- The clause of O34 on TWIN. -/
theorem windowDeclared : WindowDeclared := by
  intro f s s1 hs k e r vals w hhead hwindow hfits hnew hgroups
  obtain ⟨v, hbody, hwin, hctx, hfilled, -, hmem, hbeside⟩ := twinBody_done hhead hwindow hfits hnew hgroups
  obtain ⟨hh, htr, -⟩ := windowOf_some hwindow
  rw [htr, BitVec.ofNat_toNat, BitVec.setWidth_eq, hhead.cur_eq] at hfilled
  rw [hhead.cur_eq] at hwin hctx
  have hset : (v.task s.cur).set hs = k.set hs := by
    rw [hctx]
    cases hs <;> rfl
  have hrun := head_issues ⟨fun _ => rfl, rfl, rfl⟩ hhead hbody rfl (hset.symm ▸ hhead.entry)
  refine ⟨_, hrun, fun a => ?_, ?_, ?_, ?_, ?_, fun g hg => ?_⟩
  · exact (byte_congr _ _ hmem a).trans (hhead.byte_eq a)
  · rw [task_setTask, if_pos rfl, Task.window, withSet_win]
    exact hwin
  · rw [task_setTask, if_pos rfl, set_withSet, entries_issuedSet]
  · rw [← hhead.cur_eq] at hctx ⊢
    exact hbeside.routedOnly (sameBeside_withSet (sameBeside_reads hctx) hs _)
  · rw [task_setTask, if_pos rfl, withSet_ldqOut, hctx, ← hh]
    simp only [Window.reads, htr, BitVec.ofNat_toNat, BitVec.setWidth_eq]
  · rw [tslot_setTask]
    exact hfilled g hg

section
variable {f : TL} {s s1 : State} {hs : Bool} {k : Task} {e : Entry} {r : List Entry} {vals : List CtqEntry} {w : Window}

/-- A TADV after the last group turns its window. -/
theorem tadvBody_turns (hwindow : k.window f.ta.toNat = some w) (hempty : slotEmpty s1 s.cur k (w.first + w.oldest))
    (hlast : w.groups ≤ w.next) : tadvBody f (seen (.tadv f) s s1 k hs e vals) =
      .done { s := s1.setTask s.cur (k.setWindow f.ta.toNat { w with oldest := (w.oldest + 1) % w.size }) } := by
  have hfree : (seen (.tadv f) s s1 k hs e vals).slotFree s1 (w.first + w.oldest) 4 = .ok () := slotFree_of_empty hempty
  rw [seen] at hfree ⊢
  simp only [tadvBody, hwindow, hfree, if_neg (Nat.not_lt.mpr hlast)]

/-- One before it fetches the next group into the oldest slot. -/
theorem tadvBody_fetches (hwindow : k.window f.ta.toNat = some w) (hempty : slotEmpty s1 s.cur k (w.first + w.oldest))
    (hleft : w.next < w.groups) {u : State}
    (hu : (seen (.tadv f) s s1 k hs e vals).fetchGroup s1 w w.next (w.first + w.oldest) = .ok u) :
    tadvBody f (seen (.tadv f) s s1 k hs e vals) =
      .done { s := u.setTask s.cur ((u.task s.cur).setWindow f.ta.toNat { w with next := w.next + 1, oldest := (w.oldest + 1) % w.size }),
              fills := [k.partBase + (w.first + w.oldest)], busy := true } := by
  have hfree : (seen (.tadv f) s s1 k hs e vals).slotFree s1 (w.first + w.oldest) 4 = .ok () := slotFree_of_empty hempty
  rw [seen] at hfree hu ⊢
  simp only [tadvBody, hwindow, hfree, if_pos hleft, hu]
  rfl

end

/-- The clause of O34 on TADV. -/
theorem windowAdvances : WindowAdvances := by
  intro f s s1 hs k e r vals w hhead hwindow hempty
  have hkeeps (z : Window) : (k.setWindow f.ta.toNat z).set hs = k.set hs := by cases hs <;> rfl
  constructor
  · intro hlast
    exact issues_of_holds ⟨fun _ => rfl, rfl, rfl⟩ hhead (tadvBody_turns hwindow hempty hlast) ((hkeeps _).symm ▸ hhead.entry)
  · intro hleft hok p
    obtain ⟨u, hu, hfetch⟩ := fetchGroup_starts (x := seen (.tadv f) s s1 k hs e vals) (w.first + w.oldest) hhead.cur_eq.symm hok
    have htask := hfetch.task
    rw [hhead.cur_eq, hhead.task_eq] at htask
    have hrun := head_reads ⟨fun _ => rfl, rfl, rfl⟩ hhead (tadvBody_fetches hwindow hempty hleft hu)
      (by rw [task_setTask, if_pos rfl]) (by rw [htask]; cases hs <;> rfl)
    rw [setTask_setTask, htask] at hrun
    refine ⟨_, hrun, fun a => ?_, ?_, ?_, ?_, ?_⟩
    · exact (byte_congr _ _ hfetch.mem a).trans (hhead.byte_eq a)
    · rw [task_setTask, if_pos rfl, Task.window, withSet_win]
      exact window_setWindow ..
    · rw [← hhead.cur_eq]
      exact hfetch.beside.routedOnly (sameBeside_withSet (sameBeside_reads rfl) hs _)
    · rw [task_setTask, if_pos rfl, withSet_ldqOut]
      have hclass : w.classFor e.instr.pfx = w.classFor f.pfx := by rw [hhead.instr]; rfl
      exact congrArg (fun c => k.ldqOut ++ w.reads k c e.pos (w.first + w.oldest) w.next) hclass
    · rw [tslot_setTask, ← hhead.cur_eq]
      exact (hfetch.slot p).trans (if_pos rfl)

/-- Settles O34: the fetches of a TWIN start one after the other, each into its own slot, and a TADV's into the oldest. -/
theorem tileWindows : Obligations.TileWindows := ⟨windowDeclared, windowAdvances⟩

end Sys2Proof.Claims
end

section
/-! SUPPORT. Shares in a tile: counts of its holders, TSETTLE and TSHARE (O35). -/

namespace Sys2Proof.Machine

/-! ### Counts of holders (R216) -/

theorem shareOf_setShare_self (l : List (Nat × Nat)) (t n : Nat) : shareOf (setShare l t n) t = n := by
  have hnone : ((l.filter fun p => p.1 != t).filter fun p => p.1 == t) = [] := by
    rw [List.filter_filter, List.filter_eq_nil_iff]
    intro p _
    by_cases hp : p.1 = t <;> simp [hp]
  rw [shareOf, setShare, List.filter_append, hnone]
  split
  · next hn => simp [hn, sumNat]
  · simp [sumNat]

theorem shareOf_setShare_ne (l : List (Nat × Nat)) {t u : Nat} (n : Nat) (h : u ≠ t) : shareOf (setShare l t n) u = shareOf l u := by
  have hkeep : ((l.filter fun p => p.1 != t).filter fun p => p.1 == u) = l.filter fun p => p.1 == u := by
    rw [List.filter_filter]
    refine List.filter_congr fun p _ => ?_
    by_cases hp : p.1 = u <;> simp [hp, h]
  have hnew : ((if n = 0 then [] else [(t, n)]).filter fun p => p.1 == u) = [] := by
    split
    · rfl
    · simp [h.symm]
  rw [shareOf, setShare, List.filter_append, hkeep, hnew, List.append_nil, shareOf]

/-- The only holder's share given up, the slot is EMPTY. -/
theorem without_only {tl : TSlot} {t n : Nat} (hstate : tl.state ≠ .empty) (hshares : tl.shares = [(t, n)]) :
    tl.without t = tl.emptied := by
  have hnone : setShare tl.shares t 0 = [] := by simp [hshares, setShare]
  rw [TSlot.without, if_neg (by simpa using hstate), TSlot.withShares, hnone, if_pos (show shareSum [] = 0 from rfl)]

theorem holderOf_self (s : State) (t : Nat) (k : Task) : s.holderOf t k 8 = some t := if_pos rfl

end Sys2Proof.Machine

namespace Sys2Proof.Claims
open Sys2Proof Sys2Proof.Machine

/-- The clause of O35 on TSETTLE. -/
theorem tsettleOwn : TsettleOwn := by
  intro s k d a b tl hready hfw hread hown hview hmma hno hshare
  have hk : s.task s.cur = k := task_of_find s s.cur k hready.1
  obtain ⟨-, hstate, -⟩ := view_tile hview
  have hrun : exec (.tsettle d a b) s = .next ((s.setTslot k.coreKey (k.phys (k.rx a).toNat) (tl.without s.cur)).setTask s.cur
      (go (k.wx d (BitVec.ofNat 64 (shareOf tl.shares s.cur))) 4)) := by
    refine onDecode_ready hready (by simp [noFw, hfw]) ?_
    have hcur : (s.setTslot k.coreKey (k.phys (k.rx a).toNat) (tl.without s.cur)).task s.cur = k := hk
    simp only [hread, hown, holderOf_self, hk, flushTile_of_noReads hno, hview, hmma, hshare, hcur]
    rfl
  refine ⟨_, hrun, by rw [task_setTask, if_pos rfl], fun honly => ?_, rfl⟩
  rw [tslot_setTask, without_only hstate honly]
  exact tslot_setTslot_self ..

section
variable {f : TL} {s s1 : State} {hs : Bool} {k : Task} {e : Entry} {r : List Entry} {vals : List CtqEntry} {tl : TSlot} {v : Nat}

/-- The shares of a tile once task t has given c of its count to task v (R232). -/
def sharesGiven (l : List (Nat × Nat)) (t v c : Nat) : List (Nat × Nat) :=
  setShare (setShare l t (shareOf l t - c)) v (shareOf (setShare l t (shareOf l t - c)) v + c)

/-- A TSHARE that passes its checks gives its count to the other holder. -/
theorem tshareBody_gives (hhead : AtHead (.tshare f) s 0 hs k e r vals s1) (hview : s1.view s.cur k f.ta.toNat = .tile tl)
    (hno : noReads s1 s.cur f.ta.toNat) (hmma : k.mmaReads f.ta.toNat = false) (hsel : e.xa.toNat ≤ 8) (hone : 1 ≤ e.xb.toNat)
    (hmine : e.xb.toNat ≤ shareOf tl.shares s.cur) (hholder : s1.holderOf s.cur k e.xa.toNat = some v) (hv : v ≠ s.cur)
    (hpacket : (s1.task v).packet = k.packet) (hfour : (sharesGiven tl.shares s.cur v e.xb.toNat).length ≤ 4) :
    tshareBody f (seen (.tshare f) s s1 k hs e vals) = .done { s := (s1.setTslot k.coreKey (k.phys f.ta.toNat)
      { tl with shares := sharesGiven tl.shares s.cur v e.xb.toNat }) } := by
  have hcount : ¬(e.xb.toNat < 1 ∨ shareOf tl.shares s.cur < e.xb.toNat) := by omega
  simp only [tshareBody, show (seen (.tshare f) s s1 k hs e vals).t = s.cur from rfl, flushed_of_noReads hhead hno]
  simp only [seen, hview, hmma, if_neg (Nat.not_lt.mpr hsel), if_neg hcount, hholder, if_neg hv, hpacket,
    Bool.false_eq_true, if_false, ne_eq, not_true_eq_false]
  exact if_neg (Nat.not_lt.mpr hfour)

end

/-- The clause of O35 on TSHARE. -/
theorem tileShare : TileShare := by
  intro f s s1 hs k e r vals tl v hhead hview hno hmma hsel hone hmine hholder hv hpacket l hfour
  have hbody := tshareBody_gives hhead hview (noReads_congr hhead.tasks_eq hno) hmma hsel hone hmine hholder hv hpacket hfour
  have hrun := head_holds ⟨fun _ => rfl, rfl, rfl⟩ hhead hbody hhead.task_eq hhead.entry
  refine ⟨_, hrun, ?_, ?_, ?_, ?_, ?_, fun a => hhead.byte_eq a⟩
  · rw [tslot_setTask]
    exact tslot_setTslot_self ..
  · rw [shareOf_setShare_ne _ _ hv.symm, shareOf_setShare_self]
  · rw [shareOf_setShare_self, shareOf_setShare_ne _ _ hv]
  · rw [task_setTask, if_pos rfl, set_withSet, entries_issuedSet]
  · rw [← hhead.cur_eq]
    exact ((Beside.refl s1).setTslot _ _ _).routedOnly (sameBeside_withSet (SameBeside.refl k) hs _)

/-- Settles O35: what a context gives up leaves its tile, and what it gives to a holder stays in the sum. -/
theorem tileShares : Obligations.TileShares := ⟨tsettleOwn, tileShare⟩

end Sys2Proof.Claims
end

section
/-! SUPPORT. Tiles and registers: the reads of VLDT and VLDX, the eight registers of TWR, and the rows of TWB (O37). -/

namespace Sys2Proof.Machine

/-! ### Tile reads that take place (R220, R234) -/

/-- An item that stands once in a stream leaves it. -/
theorem filter_eq_dropAt {α : Type} [DecidableEq α] {l : List α} {n : Nat} {a : α} (h : l[n]? = some a) (hrest : a ∉ dropAt l n) :
    (l.filter fun b => b != a) = dropAt l n := by
  induction l generalizing n with
  | nil => simp at h
  | cons c l ih =>
    cases n with
    | zero =>
      obtain rfl : c = a := by simpa using h
      rw [List.filter_cons_of_neg (by simp)]
      refine List.filter_eq_self.mpr fun b hb => ?_
      simp only [bne_iff_ne, ne_eq]
      rintro rfl
      exact hrest hb
    | succ n =>
      obtain ⟨hne, hrest⟩ := not_or.mp (mt List.mem_cons.mpr hrest)
      rw [List.filter_cons_of_pos (by simpa using Ne.symm hne)]
      exact congrArg (c :: ·) (ih (by simpa using h) hrest)

section
variable (k : Task) (pos : Nat) (vd : VField) (g : VReg → VReg)

theorem lands_ldqOut : (k.lands pos vd g).ldqOut = k.ldqOut := by
  unfold Task.lands
  dsimp only
  split <;> rfl

theorem lands_partBase : (k.lands pos vd g).partBase = k.partBase := by
  unfold Task.lands
  dsimp only
  split <;> rfl

/-- The register that lands, and the others. -/
theorem lands_rv (q : Nat) : (k.lands pos vd g).rv q = if isVReg vd = true ∧ q = vd.toNat then g (k.rv q) else k.rv q := by
  unfold Task.lands
  dsimp only
  split
  · next hreg =>
    rw [rv_wv]
    by_cases hq : q = vd.toNat
    · rw [if_pos hq, if_pos ⟨hreg, hq⟩, hq]
    · rw [if_neg hq, if_neg fun h => hq h.2]
      rfl
  · next hreg =>
    rw [if_neg fun h => hreg h.1]
    rfl

/-- The entry has done its work. -/
theorem lands_issuedAt {it : Issued} (hit : k.issuedAt pos = some it) :
    ∃ j, (k.lands pos vd g).issuedAt pos = some j ∧ j.busy = false ∧ j.entry = it.entry := by
  have hland (o : List (Nat × VReg)) : (k.atPos pos fun i => { i with busy := false, olds := o }).issuedAt pos =
      some { it with busy := false, olds := o } := by
    rw [issuedAt_atPos k pos (f := fun i => { i with busy := false, olds := o }) fun _ => rfl, hit]
    rfl
  unfold Task.lands
  dsimp only
  split
  · exact ⟨_, hland _, rfl, rfl⟩
  · exact ⟨_, hland _, rfl, rfl⟩

/-- No MMA starts or ends. -/
theorem lands_mmaReads (n : Nat) : (k.lands pos vd g).mmaReads n = k.mmaReads n := by
  unfold Task.lands
  dsimp only
  split
  · have hcmq : ((k.atPos pos fun i => { i with busy := false, olds := [(vd.toNat, k.rv vd.toNat)] }).ord.refresh 0 vd.toNat g).cmq.issued =
        k.ord.cmq.issued.map fun i => i.refresh vd.toNat g := rfl
    simp only [Task.mmaReads, Task.wv, hcmq, List.any_map]
    rfl
  · rfl

end

/-- The context k once read a of the tile tl has taken place for the entry at pos: its bytes from off are in the register vd. -/
def Task.tileRead (k : Task) (tl : TSlot) (vd : VField) (off : Nat) (a : Access) (pos : Nat) : Task :=
  ({ k with ldqOut := k.ldqOut.filter fun b => b != a } : Task).lands pos vd fun _ => tileReg tl off

theorem tileRead_partBase (k : Task) (tl : TSlot) (vd : VField) (off : Nat) (a : Access) (pos : Nat) :
    (k.tileRead tl vd off a pos).partBase = k.partBase := lands_partBase ..

theorem tileRead_mmaReads (k : Task) (tl : TSlot) (vd : VField) (off : Nat) (a : Access) (pos n : Nat) :
    (k.tileRead tl vd off a pos).mmaReads n = k.mmaReads n := lands_mmaReads ..

/-! ### The shares of a tile once it has been read (R217, R270) -/

theorem mmaOn_setTask {s : State} {t : Nat} {k k2 : Task} (hk : find s.tasks t = some k) (hbase : k2.partBase = k.partBase)
    (hreads : ∀ n, k2.mmaReads n = k.mmaReads n) (c p : Nat) : (s.setTask t k2).mmaOn c p = s.mmaOn c p := by
  simp only [State.mmaOn, tslot_setTask, tasks_setTask, find_ins]
  split
  · next ht => simp only [ht, hk, Option.any_some, hbase, hreads]
  · rfl

theorem mmaOn_congr {s u : State} {c p : Nat} (htasks : u.tasks = s.tasks) (hslot : u.tslot c p = s.tslot c p) :
    u.mmaOn c p = s.mmaOn c p := by
  rw [State.mmaOn, State.mmaOn, htasks, hslot]

theorem tslot_setShares (s : State) (c p : Nat) (x : TSlot) (l : List (Nat × Nat)) : (s.setShares c p x l).tslot c p =
    if s.mmaOn c p = false ∧ shareSum l = 0 then x.emptied else { x with shares := l } := by
  rw [State.setShares, tslot_setTslot_self, TSlot.withShares]
  cases s.mmaOn c p <;> simp

/-! ### Parts of numbers -/

/-- A part of a part of a number. -/
theorem part_of_part (x a : Nat) {b c d : Nat} (h : c + d ≤ b) : x / 2 ^ a % 2 ^ b / 2 ^ c % 2 ^ d = x / 2 ^ (a + c) % 2 ^ d := by
  refine Nat.eq_of_testBit_eq fun i => ?_
  simp only [Nat.testBit_mod_two_pow, Nat.testBit_div_two_pow]
  by_cases hi : i < d
  · simp [hi, show i + c < b by omega, Nat.add_assoc, Nat.add_comm c a]
  · simp [hi]

theorem part_of_ofNat (x : Nat) {w c d : Nat} (h : c + d ≤ w) : (BitVec.ofNat w x).toNat / 2 ^ c % 2 ^ d = x / 2 ^ c % 2 ^ d := by
  have hpart := part_of_part x 0 h
  rwa [pow_zero, Nat.div_one, Nat.zero_add, ← BitVec.toNat_ofNat] at hpart

/-- The bytes of a register's value are its elements of 8 bits. -/
theorem value_byte (v : VReg) {j : Nat} (hj : j < 8192) : v.value / 2 ^ (8 * j) % 2 ^ 8 = v.elem 8 j := by
  obtain ⟨r, i, hi, rfl⟩ : ∃ r i, i < 256 ∧ j = 256 * r + i := ⟨j / 256, j % 256, by omega, by omega⟩
  have hrow : v.value / 2 ^ (2048 * r) % 2 ^ 2048 = v.elem 2048 r := by
    rw [VReg.value, packBits_elem 2048 _ (by omega), elem_mod]
  have hbyte : v.elem 2048 r / 2 ^ (8 * i) % 2 ^ 8 = v.elem 8 (256 * r + i) := by
    have hrw : r * 2048 / 2048 = r := by omega
    have hrb : (256 * r + i) * 8 / 2048 = r := by omega
    rw [VReg.elem, VReg.elem, hrw, hrb]
    split
    · rw [part_of_part _ _ (by omega), show 2048 * r + 8 * i = 8 * (256 * r + i) by ring]
    · simp
  rw [← hbyte, ← hrow, part_of_part _ _ (by omega), show 2048 * r + 8 * i = 8 * (256 * r + i) by ring]

theorem value_mod (v : VReg) : v.value % 2 ^ 65536 = v.value := by
  have h := Nat.mod_eq_of_lt (packBits_lt 2048 (fun r => v.elem 2048 r) 32)
  rw [show 2048 * 32 = 65536 from rfl] at h
  exact h

/-- The bytes of registers one after the other. -/
theorem packed_byte (f : Nat → VReg) {m n j : Nat} (hn : n < m) (hj : j < 8192) :
    packBits 65536 (fun i => (f i).value) m / 2 ^ (8 * (8192 * n + j)) % 2 ^ 8 = (f n).elem 8 j := by
  rw [← value_byte (f n) hj, ← value_mod, ← packBits_elem 65536 (fun i => (f i).value) hn, part_of_part _ _ (by omega),
    show 65536 * n + 8 * j = 8 * (8192 * n + j) by ring]

/-- Bytes 8 KiB long of a tile as a register. -/
theorem tileReg_byte (tl : TSlot) (off : Nat) {j : Nat} (hj : j < 8192) :
    (tileReg tl off).elem 8 j = tl.data.toNat / 2 ^ (8 * (off + j)) % 2 ^ 8 := by
  have hrow : (BitVec.allOnes 32).getLsbD (j * 8 / 2048) = true := by
    rw [BitVec.getLsbD_allOnes, decide_eq_true_iff]
    omega
  rw [tileReg, VReg.elem, if_pos hrow, part_of_ofNat _ (by omega), Nat.div_div_eq_div_mul, ← pow_add, ← Nat.mul_add]

end Sys2Proof.Machine

namespace Sys2Proof.Claims
open Sys2Proof Sys2Proof.Machine

section
variable {i : Instr} {s s1 : State} {q : Nat} {hs : Bool} {k : Task} {e : Entry} {r : List Entry} {vals : List CtqEntry}

/-- A head whose reads are on their way, said of the context alone. -/
theorem issues_of_reads {body : Hd → Head} {k2 : Task} {fills : List Nat} (hruns : RunsAtHead i q body)
    (h : AtHead i s q hs k e r vals s1)
    (hbody : body (seen i s s1 k hs e vals) = .done { s := s1.setTask s.cur k2, fills := fills, busy := true })
    (hset : k2.set hs = k.set hs) : Issues i s s1 q hs k2 e r (reading e fills) := by
  have htask : (s1.setTask s.cur k2).task s.cur = k2 := by rw [task_setTask, if_pos rfl]
  rw [Issues, tookMatrix_eq _ _ _ hruns.unit, head_reads hruns h hbody htask hset, setTask_setTask, hset]
  rfl

/-- A tile that may be read passes the checks of VLDT and VLDX: its read is on its way. -/
theorem tileLoad_reads {f : TL} {o : Nat} {tl : TSlot} (hhead : AtHead i s q hs k e r vals s1)
    (hread : readableBy s1 s.cur o (s1.task o) f.ta.toNat f.c tl) (halign : e.xa.toNat % 256 = 0) (hlast : e.xa.toNat ≤ 57344) :
    tileLoad f (seen i s s1 k hs e vals) o (s1.task o) = .done
      { s := s1.setTask s.cur { k with ldqOut := k.ldqOut ++ [.tile o f.ta.toNat e.xa.toNat (decide (f.c = 1)) e.pos] }, busy := true } := by
  have hplace : ¬(e.xa.toNat % 256 ≠ 0 ∨ 57344 < e.xa.toNat) := by omega
  have hok := readTile_of_readableBy hread
  obtain ⟨-, -, -, -, -, -, hno⟩ := hread
  rw [tileLoad, flushed_of_noReads hhead hno]
  simp only [seen, if_neg hplace, hok]
  rfl

end

/-- The clause of O37 on the issue of VLDT and VLDX. -/
theorem tileReadIssues : TileReadIssues := by
  intro f s s1 hs k e r vals tl i o hform hhead hread halign hlast
  have hload := tileLoad_reads hhead hread halign hlast
  rcases hform with ⟨rfl, rfl⟩ | ⟨rfl, hsel, hholder⟩
  · rw [hhead.task_eq] at hload
    exact issues_of_reads ⟨fun _ => rfl, rfl, rfl⟩ hhead hload (by cases hs <;> rfl)
  · have hbody : vldxBody f (seen (.vldx f) s s1 k hs e vals) = tileLoad f (seen (.vldx f) s s1 k hs e vals) o (s1.task o) := by
      simp only [vldxBody, seen, if_neg (Nat.not_lt.mpr hsel), hholder]
    exact issues_of_reads ⟨fun _ => rfl, rfl, rfl⟩ hhead (hbody.trans hload) (by cases hs <;> rfl)

/-! ### A tile read takes place -/

section
variable {s : State} {k : Task} {t n o m off pos : Nat} {c : Bool} {tl : TSlot} {it : Issued} {f : TL}

/-- The read takes place, by itself or as the last of the tile (R220). -/
theorem exec_tileRead (hk : find s.tasks t = some k) (hitem : k.ldqOut[n]? = some (.tile o m off c pos))
    (hview : s.view o (s.task o) m = .tile tl) (hlast : c = true → shareSum (setShare tl.shares t (shareOf tl.shares t - 1)) = 0 →
      s.tileQueue o m = [(t, .tile o m off c pos)]) :
    exec (.accessPerformed t n ⟨1, 0⟩) s = .next (s.copyTiles o m [(t, .tile o m off c pos)]) := by
  have hrun : exec (.accessPerformed t n ⟨1, 0⟩) s = .next (s.readTileNow t n) := by
    show execAccessPerformed t n ⟨1, 0⟩ s = _
    simp [execAccessPerformed, hk, performLdq, hitem]
  rw [hrun]
  simp only [State.readTileNow, hk, Option.bind_some, hitem, hview]
  split
  · next hempties =>
    obtain ⟨hc, hsum⟩ := (Bool.and_eq_true ..).mp hempties
    rw [State.flushTile, hlast hc (by simpa using hsum)]
  · rfl

/-- The tile is copied into the register that the entry names. -/
theorem copyTile_lands (hk : find s.tasks t = some k) (hit : k.issuedAt pos = some it)
    (hform : it.entry.instr = .vldt f ∨ it.entry.instr = .vldx f) : s.copyTile t (some tl) (.tile o m off c pos) =
      s.setTask t (k.tileRead tl f.vd off (.tile o m off c pos) pos) := by
  have hdest : k.tileDest pos = f.vd := by
    rcases hform with h | h <;> simp only [Task.tileDest, hit, Option.map_some, h] <;> rfl
  simp only [State.copyTile, task_of_find s t k hk, hdest]
  rfl

theorem copyTiles_one {a : Access} (hview : s.view o (s.task o) m = .tile tl) : s.copyTiles o m [(t, a)] =
    if a.consumes = true then (s.copyTile t (some tl) a).setShares (s.task o).coreKey ((s.task o).partBase + m) tl
      (setShare tl.shares t (shareOf tl.shares t - 1))
    else s.copyTile t (some tl) a := by
  rw [State.copyTiles, hview]
  cases hc : a.consumes <;> simp [each, hc, Task.phys]

end

/-- The clause of O37 on the read of VLDT and VLDX. -/
theorem tileToRegister : TileToRegister := by
  intro f s k t n o m off pos c tl it hk hitem hit hform hview hoff hrest hlast
  have hrun := exec_tileRead hk hitem hview hlast
  rw [copyTiles_one hview, copyTile_lands hk hit hform, Access.consumes] at hrun
  obtain ⟨k2, hk2⟩ : ∃ k2, k2 = k.tileRead tl f.vd off (.tile o m off c pos) pos := ⟨_, rfl⟩
  have hmma : (s.setTask t k2).mmaOn (s.task o).coreKey ((s.task o).partBase + m) =
      s.mmaOn (s.task o).coreKey ((s.task o).partBase + m) := by
    rw [hk2]
    exact mmaOn_setTask hk (tileRead_partBase ..) (tileRead_mmaReads _ _ _ _ _ _) _ _
  rw [← hk2] at hrun
  have hcontext : k2.ldqOut = dropAt k.ldqOut n ∧
      (isVReg f.vd = true → ∀ j, j < 8192 → (k2.rv f.vd.toNat).elem 8 j = tl.data.toNat / 2 ^ (8 * (off + j)) % 2 ^ 8) ∧
      (∀ q, q ≠ f.vd.toNat ∨ isVReg f.vd = false → k2.rv q = k.rv q) ∧
      ∃ j, k2.issuedAt pos = some j ∧ j.busy = false ∧ j.entry = it.entry := by
    rw [hk2, Task.tileRead]
    refine ⟨?_, fun hreg j hj => ?_, fun q hq => ?_, lands_issuedAt _ _ _ _ hit⟩
    · rw [lands_ldqOut]
      exact filter_eq_dropAt hitem hrest
    · rw [lands_rv, if_pos ⟨hreg, rfl⟩, tileReg_byte tl off hj]
    · rw [lands_rv, if_neg fun h => hq.elim (fun hne => hne h.2) fun hno => absurd (h.1.symm.trans hno) (by decide)]
      rfl
  have hothers (q : Nat) (hq : q ≠ t) : find (s.setTask t k2).tasks q = find s.tasks q := by rw [tasks_setTask, find_ins, if_neg hq]
  have htask : (s.setTask t k2).task t = k2 := by rw [task_setTask, if_pos rfl]
  obtain ⟨hout, hreg, hrv, hidle⟩ := hcontext
  cases c with
  | false =>
    rw [if_neg Bool.false_ne_true] at hrun
    refine ⟨_, hrun, ?_⟩
    rw [htask]
    exact ⟨hout, hreg, hrv, hidle, hothers, rfl, fun _ => rfl, nofun⟩
  | true =>
    rw [if_pos rfl] at hrun
    refine ⟨_, hrun, ?_⟩
    have htask' : ((s.setTask t k2).setShares (s.task o).coreKey ((s.task o).partBase + m) tl
        (setShare tl.shares t (shareOf tl.shares t - 1))).task t = k2 := htask
    rw [htask']
    refine ⟨hout, hreg, hrv, hidle, hothers, rfl, nofun, fun _ => ?_⟩
    rw [tslot_setShares, hmma]
    rfl

/-! ### TWR (R236) -/

/-- The tile that TWR makes of eight registers. -/
def writtenTile (f : TL) (t pos gen : Nat) (k : Task) : TSlot :=
  { state := .filling, owner := t, declared := f.n12.toNat, shares := [(t, f.n12.toNat)], gen := gen, poison := false, tr := 0, filler := pos,
    data := BitVec.ofNat 524288 (packBits 65536 (fun i => (k.rv (f.va.toNat + i)).value) 8) }

theorem twrBody_writes {f : TL} {s s1 : State} {hs : Bool} {k : Task} {e : Entry} {vals : List CtqEntry}
    (hempty : slotEmpty s1 s.cur k f.ta.toNat) : twrBody f (seen (.twr f) s s1 k hs e vals) =
      .done { s := (s1.setTslot k.coreKey (k.partBase + f.ta.toNat)
        (writtenTile f s.cur e.pos (s1.tslot k.coreKey (k.partBase + f.ta.toNat)).gen k)) } := by
  have hfree : (seen (.twr f) s s1 k hs e vals).slotFree s1 f.ta.toNat 3 = .ok () := slotFree_of_empty hempty
  rw [seen] at hfree ⊢
  simp only [twrBody, hfree]
  rfl

/-- The clause of O37 on TWR. -/
theorem registersToTile : RegistersToTile := by
  intro f s s1 hs k e r vals hhead hempty
  have hrun := head_holds ⟨fun _ => rfl, rfl, rfl⟩ hhead (twrBody_writes hempty) hhead.task_eq hhead.entry
  refine ⟨_, _, hrun, tslot_setTslot_self .., rfl, rfl, rfl, rfl, fun n hn j hj => ?_, rfl⟩
  exact (part_of_ofNat _ (by omega)).trans (packed_byte (fun i => k.rv (f.va.toNat + i)) hn hj)

/-! ### TWB (R237) -/

section
variable {f : TL} {s s1 : State} {hs : Bool} {k : Task} {e : Entry} {r : List Entry} {vals : List CtqEntry} {tl : TSlot} {rows pitch : Nat}

/-- The rows of a tile, as writes at a pitch from an address. -/
def tileWrites (tl : TSlot) (a rows pitch cls wid pos : Nat) : List Access :=
  (List.range rows).map fun n =>
    .write (cellsAt (a + n * pitch) (bytesOf 512 (tl.data.toNat / 2 ^ (4096 * n) % 2 ^ 4096))) cls wid pos

theorem cellsAt_ne_nil (a w : Nat) {n : Nat} (h : n ≠ 0) : cellsAt a (bytesOf n w) ≠ [] := by
  obtain ⟨m, rfl⟩ := Nat.exists_eq_succ_of_ne_zero h
  exact nofun

/-- A store into pages none of which a slot maps read-only, or of context F, is not kept out (R58, R85). -/
theorem keepsOut_none {x : Hd} {n : Nat} {l : List Nat} (h : x.k.fw = true ∨ ∀ a ∈ l, x.s.readOnly a n = false) : x.keepsOut n l = none := by
  rw [Hd.keepsOut]
  rcases h with hfw | hro
  · rw [if_pos hfw]
  · have hnone : (l.find? fun a => x.s.readOnly a n) = none := List.find?_eq_none.mpr fun a ha => by simp [hro a ha]
    rw [hnone]
    exact ite_self _

/-- Writes of lists of cells, none empty, leave the STQ one for each list. -/
theorem post_eq (k : Task) (cls pos : Nat) {l : List (List (Nat × Byte))} (h : ∀ c ∈ l, c ≠ []) :
    k.post cls pos l = { k with stqOut := k.stqOut ++ l.map fun c => .write c cls k.wid pos, wid := k.wid + 1 } := by
  have hall : (l.filter fun c => !c.isEmpty) = l := List.filter_eq_self.mpr fun c hc => by simpa using h c hc
  rw [Task.post, hall]

/-- The context after a TWB has handed over the rows of its tile. -/
def afterTwb (f : TL) (k : Task) (e : Entry) (tl : TSlot) (rows pitch : Nat) : Task :=
  { k with stqOut := k.stqOut ++ tileWrites tl (e.h.addr e.xa.toInt) rows pitch (classOf f.pfx f.cls) k.wid e.pos, wid := k.wid + 1 }

theorem twbBody_writes (hhead : AtHead (.twb f) s 2 hs k e r vals s1) (hread : readable s1 s.cur k f.ta.toNat f.c tl)
    (hshape : shapeOf e.xb.toNat 512 = some (rows, pitch)) (hrows : rowsFault e.h e.h.w e.xa.toInt rows pitch 512 = none)
    (hdev : isDevReg e.h.base = false)
    (hro : k.fw = true ∨ ∀ n, n < rows → s1.readOnly (e.h.addr e.xa.toInt + n * pitch) 512 = false) :
    ∃ u, Beside s1 u ∧ u.tasks = s1.tasks ∧ u.mem = s1.mem ∧ (∀ p, u.tslot k.coreKey p = s1.tslot k.coreKey p) ∧
      twbBody f (seen (.twb f) s s1 k hs e vals) = .done { s := if f.c = 1 then
        (u.setTask s.cur (afterTwb f k e tl rows pitch)).consume s.cur k f.ta.toNat tl else u.setTask s.cur (afterTwb f k e tl rows pitch) } := by
  have hok := readTile_of_readableBy hread
  obtain ⟨-, -, -, -, -, -, hno⟩ := hread
  have hkeeps : (seen (.twb f) s s1 k hs e vals).keepsOut 512 ((List.range rows).map fun n => e.h.addr e.xa.toInt + n * pitch) = none :=
    keepsOut_none (hro.imp_right fun h a ha => by
      obtain ⟨n, hn, rfl⟩ := List.mem_map.mp ha
      exact h n (List.mem_range.mp hn))
  refine ⟨s1.touchAll k.coreKey e.h ((List.range rows).map fun n => e.h.addr e.xa.toInt + n * pitch),
    (Beside.refl s1).touchAll _ _ _, touchAll_tasks .., mem_of_warmed (warmed_touchAll ..),
    fun p => tslot_of_warmed (warmed_touchAll ..) _ p, ?_⟩
  have hpost := post_eq k (classOf f.pfx f.cls) e.pos (l := (List.range rows).map fun n =>
    cellsAt (e.h.addr e.xa.toInt + n * pitch) (bytesOf 512 (tl.data.toNat / 2 ^ (4096 * n) % 2 ^ 4096))) (by
      intro c hc
      obtain ⟨n, -, rfl⟩ := List.mem_map.mp hc
      exact cellsAt_ne_nil _ _ (by decide))
  rw [List.map_map] at hpost
  simp only [twbBody, show (seen (.twb f) s s1 k hs e vals).t = s.cur from rfl, flushed_of_noReads hhead hno]
  rw [seen] at hkeeps ⊢
  simp only [hok, hshape, hrows, hdev, Bool.false_eq_true, if_false, hkeeps, hpost]
  rfl

end

/-- A consuming read counts the share down, and changes the slot alone. -/
theorem consume_frame (s : State) (t : Nat) (k : Task) (n : Nat) (tl : TSlot) :
    (∃ x, s.consume t k n tl = s.setTslot k.coreKey (k.partBase + n) x) ∧
      (s.consume t k n tl).tslot k.coreKey (k.partBase + n) = consumed s k.coreKey (k.partBase + n) tl t :=
  ⟨⟨_, rfl⟩, tslot_setShares ..⟩

/-- The clause of O37 on TWB. -/
theorem tileWriteBack : TileWriteBack := by
  intro f s s1 hs k e r vals tl rows pitch hhead hread hshape hrows hdev hro
  obtain ⟨u, hbeside, htasks, hmem, hslots, hbody⟩ := twbBody_writes hhead hread hshape hrows hdev hro
  obtain ⟨K, hK⟩ : ∃ K, K = afterTwb f k e tl rows pitch := ⟨_, rfl⟩
  rw [← hK] at hbody
  have hset : K.set hs = k.set hs := by rw [hK]; cases hs <;> rfl
  have hsame : SameBeside k K := by rw [hK]; exact rfl
  have hout : K.stqOut = k.stqOut ++ tileWrites tl (e.h.addr e.xa.toInt) rows pitch (classOf f.pfx f.cls) k.wid e.pos := by rw [hK]; rfl
  obtain ⟨⟨x, hx⟩, hconsumed⟩ := consume_frame (u.setTask s.cur K) s.cur k f.ta.toNat tl
  have hmma : (u.setTask s.cur K).mmaOn k.coreKey (k.partBase + f.ta.toNat) = s1.mmaOn k.coreKey (k.partBase + f.ta.toNat) := by
    have hk : find u.tasks s.cur = some k := by rw [htasks, hhead.tasks_eq, hhead.task]
    rw [mmaOn_setTask hk (by rw [hK]; rfl) (fun n => by rw [hK]; rfl), mmaOn_congr htasks (hslots _)]
  obtain ⟨v, hv⟩ : ∃ v, v = if f.c = 1 then (u.setTask s.cur K).consume s.cur k f.ta.toNat tl else u.setTask s.cur K := ⟨_, rfl⟩
  have hvtask : v.task s.cur = K := by
    have htask : (u.setTask s.cur K).task s.cur = K := by rw [task_setTask, if_pos rfl]
    rw [hv, hx]
    split <;> exact htask
  have hvbeside : Beside s1 v := by
    have hset := hbeside.setTask K
    rw [hhead.cur_eq] at hset
    rw [hv, hx]
    split
    · exact hset.setTslot _ _ _
    · exact hset
  have hvmem : v.mem = s1.mem := by
    rw [hv, hx]
    split <;> exact hmem
  rw [← hv] at hbody
  have hrun := head_holds ⟨fun _ => rfl, rfl, rfl⟩ hhead hbody hvtask (hset ▸ hhead.entry)
  refine ⟨_, hrun, fun a => ?_, ?_, fun hc => ?_, ?_, ?_⟩
  · exact (byte_congr _ _ hvmem a).trans (hhead.byte_eq a)
  · rw [task_setTask, if_pos rfl, withSet_stqOut, hout]
    rfl
  · rw [tslot_setTask, hv, if_pos hc, hconsumed, consumed, consumed, hmma]
  · rw [task_setTask, if_pos rfl, set_withSet, entries_issuedSet]
  · rw [← hhead.cur_eq]
    exact hvbeside.routedOnly (sameBeside_withSet hsame hs _)

/-- Settles O37: each transfer by what its body does with a tile that may be read, or with an EMPTY slot. -/
theorem tileTransfers : Obligations.TileTransfers := ⟨tileReadIssues, tileToRegister, registersToTile, tileWriteBack⟩

end Sys2Proof.Claims
end

section
/-! SUPPORT. The clauses of O36 that hold: TPARK, TUNPARK, and the last read of a TUNPARK. -/

namespace Sys2Proof.Machine

/-! ### Blocks for names (R199 to R203) -/

theorem mostFree_mem {l : List (Nat × List (Nat × Nat))} {c : Nat × List (Nat × Nat)} (h : mostFree l = some c) : c ∈ l := by
  induction l with
  | nil => cases h
  | cons d l ih =>
    rw [mostFree] at h
    split at h
    · cases h
      exact List.mem_cons_self
    · next e he =>
      split at h
      · cases h
        exact List.mem_cons_of_mem _ (ih he)
      · cases h
        exact List.mem_cons_self

/-- The lowest index is that of an element, or the one given. -/
theorem lowest_mem (l : List (Nat × Nat)) (m : Nat) : lowest l m = m ∨ ∃ c ∈ l, lowest l m = c.2 := by
  induction l generalizing m with
  | nil => exact .inl rfl
  | cons c l ih =>
    rw [lowest]
    rcases ih (min c.2 m) with h | ⟨d, hd, h⟩
    · rw [h]
      rcases Nat.le_total c.2 m with hle | hle
      · exact .inr ⟨c, List.mem_cons_self, Nat.min_eq_left hle⟩
      · exact .inl (Nat.min_eq_right hle)
    · exact .inr ⟨d, List.mem_cons_of_mem _ hd, h⟩

/-- The block chosen is free (R199, R200). -/
theorem choose_free {s : State} {die asc n pick i c j : Nat} (h : s.choose die asc n pick = .block i c j) :
    freeBlock (s.site i).arena c j n = true ∧ j < 2 ^ 32 := by
  rw [State.choose] at h
  split at h
  · next m bl hmost =>
    split at h
    · next d hd =>
      obtain ⟨hi, hc, hj⟩ := Choice.block.inj h
      have hbl : bl = freeBlocks (s.site i).arena n := by
        obtain ⟨a, -, ha⟩ := List.mem_map.mp (List.mem_filter.mp (mostFree_mem hmost)).1
        obtain ⟨ham, hab⟩ := Prod.mk.inj ha
        rw [← hab, ham, hi]
      have hmem : (c, j) ∈ bl := by
        rw [← hj]
        rcases lowest_mem (bl.filter fun e => e.1 == d.1) d.2 with hlow | ⟨e, he, hlow⟩
        · rw [hlow, ← hc]
          exact List.mem_of_getElem? hd
        · obtain ⟨hbe, hed⟩ := List.mem_filter.mp he
          rw [hlow, ← hc, ← beq_iff_eq.mp hed]
          exact hbe
      rw [hbl, freeBlocks, List.mem_filter] at hmem
      obtain ⟨hunit, hfree⟩ := hmem
      obtain ⟨p, -, hp⟩ := List.mem_map.mp hunit
      refine ⟨((Bool.and_eq_true ..).mp hfree).2, ?_⟩
      rw [← (Prod.mk.inj hp).2]
      exact Nat.mod_lt _ (by decide)
    · cases h
  · split at h <;> cases h

/-- The first unit of a free block exists. -/
theorem freeBlock_exist {l : Assoc AUnit} {chan index n : Nat} (h : freeBlock l chan index (n + 1) = true) :
    (get AUnit.none l (unitKey chan index)).exist = true := by
  rw [freeBlock] at h
  simp only [Bool.and_eq_true] at h
  exact h.1.1

/-- The fields of a name (R203). -/
theorem name_fields {i c j g : Nat} (hi : i ≤ 7) (hc : c < 32) (hj : j < 2 ^ 32) (hg : g < 256) :
    nameSite (mkName i c j g) = i ∧ nameChan (mkName i c j g) = c ∧ nameIndex (mkName i c j g) = j ∧
      mkName i c j g % 256 = g ∧ mkName i c j g < 2 ^ 48 := by
  unfold nameSite nameChan nameIndex mkName
  omega

/-! ### Units of a name -/

/-- The unit at which a name's block begins takes another parked record (R222). -/
def State.parking (s : State) (nm : Nat) (p : Option Parked) : State :=
  s.setSite (nameSite nm) { s.site (nameSite nm) with
    arena := mapUnits (fun u => { u with parked := p }) (nameChan nm) (nameIndex nm) 1 (s.site (nameSite nm)).arena }

theorem mapUnits_first (f : AUnit → AUnit) (chan index n : Nat) (l : Assoc AUnit) :
    get AUnit.none (mapUnits f chan index (n + 1) l) (unitKey chan index) = f (get AUnit.none l (unitKey chan index)) :=
  get_mapUnits_in f chan l ⟨0, by omega, rfl⟩

theorem nameUnit_parking (s : State) (nm : Nat) (p : Option Parked) :
    (s.parking nm p).nameUnit nm = { s.nameUnit nm with parked := p } := by
  rw [State.nameUnit, State.unitAt, State.parking, site_setSite _ _ _ _ (nameSite_le nm) (nameSite_le nm), if_pos rfl]
  exact mapUnits_first ..

theorem nameUnit_congr {s u : State} (h : ∀ n, (u.site n).arena = (s.site n).arena) (nm : Nat) : u.nameUnit nm = s.nameUnit nm := by
  rw [State.nameUnit, State.nameUnit, State.unitAt, State.unitAt, h]

/-- A parked record says nothing of whether a name has a block. -/
theorem blockOf_parking (s : State) (asc nm : Nat) (p : Option Parked) : (s.parking nm p).blockOf asc nm = s.blockOf asc nm := by
  have h := nameUnit_parking s nm p
  rw [State.nameUnit, State.nameUnit, State.unitAt, State.unitAt, blockKey] at h
  simp only [State.blockOf, h]

/-- A name of its context, at the generation of a unit in use, has the unit's block (R203). -/
theorem blockOf_of_unit {s : State} {asc nm : Nat} (hbound : nm < 2 ^ 48) (hexist : (s.nameUnit nm).exist = true)
    (hfree : (s.nameUnit nm).free = false) (hsize : (s.nameUnit nm).size ≠ 0) (hleaving : (s.nameUnit nm).leaving = false)
    (hasc : (s.nameUnit nm).asc = asc) (hgen : (s.nameUnit nm).gen = nm % 256) : s.blockOf asc nm = some (s.nameUnit nm).size := by
  rw [State.nameUnit, State.unitAt, blockKey] at *
  simp only [State.blockOf, decide_eq_true hbound, hexist, hfree, hleaving, hasc, hgen]
  simp [hsize]

/-- The unit at which an allocated block begins. -/
theorem nameUnit_allocate (s : State) (asc : Nat) {i c j n nm : Nat} (hi : i ≤ 7) (hsite : nameSite nm = i) (hchan : nameChan nm = c)
    (hindex : nameIndex nm = j) : (s.allocate asc i c j (n + 1)).nameUnit nm =
      { s.nameUnit nm with free := false, asc := asc, leaving := false, parked := none, size := 4096 * (n + 1) } := by
  have hclear (t : State) (a m : Nat) : (t.clear a m).nameUnit nm = t.nameUnit nm := rfl
  rw [State.allocate, hclear, State.nameUnit, State.unitAt, hsite, site_setSite _ _ _ _ hi hi, if_pos rfl, blockKey, hchan, hindex]
  refine (mapUnits_first ..).trans ?_
  rw [mapUnits_first, State.nameUnit, State.unitAt, blockKey, hsite, hchan, hindex]

/-! ### Memory beside a block (R201) -/

theorem get_filter {α : Type} (d : α) (p : Nat → Bool) (l : Assoc α) {n : Nat} (h : p n = true) :
    get d (l.filter fun c => p c.1) n = get d l n := by
  induction l with
  | nil => rfl
  | cons c l ih =>
    obtain ⟨m, v⟩ := c
    by_cases hm : m = n
    · subst hm
      simp [h, get]
    · by_cases hp : p m = true
      · simpa [hp, get, hm] using ih
      · simpa [hp, get, hm] using ih

theorem byte_clear (s : State) {a n x : Nat} (h : x < a ∨ a + n ≤ x) : (s.clear a n).byte x = s.byte x := by
  rw [State.byte, State.byte, State.clear]
  exact congrArg (fun v => if mapped x then v else 0)
    (get_filter unlisted (fun m => decide (m < a) || decide (a + n ≤ m)) s.mem (by simpa using h))

theorem byte_allocate (s : State) (asc i c j n : Nat) {x : Nat} (h : x < arenaAddr i c j ∨ arenaAddr i c j + 4096 * n ≤ x) :
    (s.allocate asc i c j n).byte x = s.byte x := by
  rw [State.allocate, byte_clear _ h, byte_setSite]

end Sys2Proof.Machine

namespace Sys2Proof.Claims
open Sys2Proof Sys2Proof.Machine

theorem Beside.parking {s t : State} (h : Beside s t) (nm : Nat) (p : Option Parked) : Beside s (t.parking nm p) :=
  h.setArena (nameSite_le nm) _ (t.site (nameSite nm)).used

theorem Beside.allocate {s t : State} (h : Beside s t) (asc : Nat) {i : Nat} (hi : i ≤ 7) (c j n : Nat) :
    Beside s (t.allocate asc i c j n) :=
  (h.setArena hi _ _).clear _ _

theorem arena_of_sampled {s t : State} (h : sampled s t) (n : Nat) : (t.site n).arena = (s.site n).arena := by
  rw [← h.2 n]

theorem cores_of_sampled {s t : State} (h : sampled s t) : t.cores = s.cores := by
  obtain ⟨_, _, _, _, _, _, _, _, rfl⟩ := sampled_form h
  rfl

theorem tslot_of_cores {s t : State} (h : t.cores = s.cores) (c p : Nat) : t.tslot c p = s.tslot c p := by
  rw [State.tslot, State.tslot, State.core, State.core, h]

theorem tslot_parking (s : State) (nm : Nat) (p : Option Parked) (c q : Nat) : (s.parking nm p).tslot c q = s.tslot c q :=
  tslot_of_cores (setSite_cores ..) c q

theorem byte_parking (s : State) (nm : Nat) (p : Option Parked) (a : Nat) : (s.parking nm p).byte a = s.byte a := byte_setSite ..

/-! ### TUNPARK (R233) -/

section
variable {f : TL} {s s1 : State} {hs : Bool} {k : Task} {e : Entry} {r : List Entry} {vals : List CtqEntry} {n : Nat}

/-- The tile that a TUNPARK brings back, before any of its bytes has been read. -/
def unparkedTile (t pos gen : Nat) (p : Parked) : TSlot :=
  { state := .filling, owner := t, declared := p.declared, shares := setShare p.shares t (shareOf p.shares t + p.owner), gen := gen,
    poison := p.poison, tr := p.tr, filler := pos, data := 0 }

theorem tunparkBody_fills {p : Parked} (hhead : AtHead (.tunpark f) s 0 hs k e r vals s1)
    (hhand : s1.handing (nameSite e.xa.toNat) = false) (hblock : s1.blockOf (s.ascOf k) e.xa.toNat = some n)
    (hparked : s1.parkedOf e.xa.toNat = some p) (howner : (s1.site (nameSite e.xa.toNat)).owner = k.die)
    (hempty : slotEmpty s1 s.cur k f.ta.toNat) (hshares : shareSum p.shares + p.owner ≠ 0) :
    tunparkBody f (seen (.tunpark f) s s1 k hs e vals) = .done
      { s := ((((s1.setTslot k.coreKey (k.partBase + f.ta.toNat)
            (unparkedTile s.cur e.pos (s1.tslot k.coreKey (k.partBase + f.ta.toNat)).gen p)).parking e.xa.toNat none).arrive
              (nameAddr e.xa.toNat)).setTask s.cur
          { k with ldqOut := k.ldqOut ++ tileReads (k.partBase + f.ta.toNat) (nameAddr e.xa.toNat) 128 512 0 (classOf f.pfx 0) e.pos }),
        fills := [k.partBase + f.ta.toNat], busy := true } := by
  have hfree : (seen (.tunpark f) s s1 k hs e vals).slotFree s1 f.ta.toNat 3 = .ok () := slotFree_of_empty hempty
  have hasc : s1.ascOf k = s.ascOf k := congrArg Packet.asc (packet_congr (congrArg Lfe.packets hhead.lfe_eq) k.packet)
  rw [seen] at hfree ⊢
  simp only [tunparkBody, hhand, Bool.and_false, Bool.false_eq_true, if_false, hasc, hblock, hparked, howner, ne_eq, not_true_eq_false,
    hfree, if_neg hshares, fillReads_eq]
  rfl

end

/-- The clause of O36 on TUNPARK. -/
theorem tileUnpark : TileUnpark := by
  intro f s s1 hs k e r vals p n hhead hhand hblock hparked howner hempty hshares
  have hrun := head_reads ⟨fun _ => rfl, rfl, rfl⟩ hhead (tunparkBody_fills hhead hhand hblock hparked howner hempty hshares)
    (by rw [task_setTask, if_pos rfl]) (by cases hs <;> rfl)
  rw [setTask_setTask] at hrun
  obtain ⟨u, hu⟩ : ∃ u, u = s1.setTslot k.coreKey (k.partBase + f.ta.toNat)
    (unparkedTile s.cur e.pos (s1.tslot k.coreKey (k.partBase + f.ta.toNat)).gen p) := ⟨_, rfl⟩
  have hsampled := sampled_arrive (u.parking e.xa.toNat none) (nameAddr e.xa.toNat)
  have hunit := nameUnit_congr (arena_of_sampled hsampled) e.xa.toNat
  rw [← hu] at hrun
  refine ⟨_, hrun, ?_, ?_, ?_, ?_, ?_, fun a => ?_, ?_⟩
  · rw [tslot_setTask, tslot_of_cores (cores_of_sampled hsampled), tslot_parking, hu, tslot_setTslot_self]
    rfl
  · rw [task_setTask, if_pos rfl, withSet_ldqOut]
    rfl
  · exact (congrArg AUnit.parked (hunit.trans (nameUnit_parking ..))).trans rfl
  · refine (blockOf_congr (t := (u.parking e.xa.toNat none).arrive (nameAddr e.xa.toNat)) hunit _).trans ?_
    rw [blockOf_parking, hu]
    exact hblock
  · rw [task_setTask, if_pos rfl, set_withSet, entries_issuedSet]
  · rw [byte_setTask, byte_congr _ _ (arrive_mem ..).1, byte_parking, hu]
    exact hhead.byte_eq a
  · rw [← hhead.cur_eq, hu]
    exact ((((Beside.refl s1).setTslot _ _ _).parking _ _).arrive _).routedOnly (sameBeside_withSet (sameBeside_reads rfl) hs _)

/-! ### TPARK (R235) -/

section
variable {f : TL} {s s1 : State} {hs : Bool} {k : Task} {e : Entry} {r : List Entry} {vals : List CtqEntry} {tl : TSlot}

/-- A block that is to be had is allocated and named (R200 to R203). -/
theorem block_allocates {i : Instr} {n : Nat} (hfree : blockFree s1 k hs n) : ∃ ch c j, ch ≤ 7 ∧ c < 32 ∧ j < 2 ^ 32 ∧ s1.unitGen ch c j < 256 ∧
    freeBlock (s1.site ch).arena c j (n / 4096) = true ∧ (seen i s s1 k hs e vals).block n =
      .ok (s1.draw.2.allocate (s1.ascOf k) ch c j (n / 4096), mkName ch c j (s1.unitGen ch c j), arenaAddr ch c j) := by
  obtain ⟨hroom, hpick⟩ := hfree
  obtain ⟨ch, c, j, hchoose, hch, hc, hgen⟩ := hpick s1.draw.1
  obtain ⟨hfree, hj⟩ := choose_free hchoose
  have hcap : (seen i s s1 k hs e vals).nrqRoom = true := decide_eq_true hroom
  have hchoose' : s1.draw.2.choose k.die (s1.ascOf k) (n / 4096) s1.draw.1 = .block ch c j := hchoose
  refine ⟨ch, c, j, hch, hc, hj, hgen, hfree, ?_⟩
  rw [Hd.block, hcap]
  simp only [seen, Bool.not_true, Bool.false_eq_true, if_false, hchoose']
  rfl

/-- What a tile keeps against its block (R222, R235). -/
def parkedRecord (tl : TSlot) (t : Nat) : Parked :=
  { declared := tl.declared, owner := shareOf tl.shares t, shares := setShare tl.shares t 0, tr := tl.tr, poison := false }

/-- The context k whose tile is parked under the name nm: the name waits for its push, the bytes are on their way. -/
def parkingTask (f : TL) (k : Task) (hs : Bool) (pos nm : Nat) (tl : TSlot) : Task :=
  { k.nameOut hs nm with
    stqOut := k.stqOut ++ [.write (cellsAt (nameAddr nm) (bytesOf 65536 tl.data.toNat)) (classOf f.pfx f.cls) k.wid pos], wid := k.wid + 1 }

theorem post_nameOut (f : TL) (k : Task) (hs : Bool) (pos nm : Nat) (tl : TSlot) :
    (k.nameOut hs nm).post (classOf f.pfx f.cls) pos [cellsAt (nameAddr nm) (bytesOf 65536 tl.data.toNat)] =
      parkingTask f k hs pos nm tl := by
  rw [post_eq _ _ _ fun c hc => List.mem_singleton.mp hc ▸ cellsAt_ne_nil _ _ (by decide)]
  cases hs <;> rfl

theorem names_issuedSet (i : Instr) (qs : QSet) (q : Nat) (e : Entry) (r : List Entry) (it : Issued) :
    (issuedSet i qs q e r it).names = qs.names := by
  have hchan (s : QSet) (a b n : Nat) : (s.setChan a b n).names = s.names := rfl
  have hrq (s : QSet) (p : Nat) (v : RQ) : (s.setRq p v).names = s.names := by unfold QSet.setRq; split <;> rfl
  have hctq (s : QSet) (p : Nat) (v : List CtqEntry) : (s.setCtq p v).names = s.names := by unfold QSet.setCtq; split <;> rfl
  rw [issuedSet, hrq, hctq, takeTokens]
  (repeat' split) <;> simp only [hchan]

theorem tparkBody_parks (hhead : AtHead (.tpark f) s 2 hs k e r vals s1) (hread : readable s1 s.cur k f.ta.toNat 0 tl)
    (hmma : k.mmaReads f.ta.toNat = false) {u : State} {nm : Nat}
    (hblock : (seen (.tpark f) s s1 k hs e vals).block 65536 = .ok (u, nm, nameAddr nm)) :
    tparkBody f (seen (.tpark f) s s1 k hs e vals) = .done
      { s := ((((u.parking nm (some (parkedRecord tl s.cur))).setTslot k.coreKey (k.partBase + f.ta.toNat) tl.emptied).arrive
          (nameAddr nm)).setTask s.cur (parkingTask f k hs e.pos nm tl)) } := by
  have hok := readTile_of_readableBy hread
  obtain ⟨-, -, hgood, -, -, -, hno⟩ := hread
  rw [show ((0 : BitVec 1) == 1) = false from rfl] at hok
  simp only [tparkBody, show (seen (.tpark f) s s1 k hs e vals).t = s.cur from rfl, flushed_of_noReads hhead hno, hblock]
  simp only [seen, hok, hmma, Bool.false_eq_true, if_false, post_nameOut, hgood]
  rfl

end

/-- The clause of O36 on TPARK. -/
theorem tilePark : TilePark := by
  intro f s s1 hs k e r vals tl hhead hread hmma hfree
  obtain ⟨i, c, j, hi, hc, hj, hgen, hunits, hblock⟩ := block_allocates (i := .tpark f) (s := s) (e := e) (vals := vals) hfree
  obtain ⟨nm, hnm⟩ : ∃ nm, nm = mkName i c j (s1.unitGen i c j) := ⟨_, rfl⟩
  obtain ⟨hsite, hchan, hindex, hlow, hbound⟩ := hnm ▸ name_fields hi hc hj hgen
  have haddr : arenaAddr i c j = nameAddr nm := by rw [nameAddr, hsite, hchan, hindex]
  rw [← hnm, haddr] at hblock
  have hrun := head_holds ⟨fun _ => rfl, rfl, rfl⟩ hhead (tparkBody_parks hhead hread hmma hblock) (by rw [task_setTask, if_pos rfl])
    (by cases hs <;> exact hhead.entry)
  obtain ⟨u, hu⟩ : ∃ u, u = s1.draw.2.allocate (s1.ascOf k) i c j (65536 / 4096) := ⟨_, rfl⟩
  rw [← hu, setTask_setTask] at hrun
  have hbeside : Beside s1 u := hu ▸ (Beside.refl s1).draw.allocate _ hi _ _ _
  have hslots (p : Nat) : u.tslot k.coreKey p = s1.tslot k.coreKey p := by
    rw [hu]
    exact tslot_of_cores (setSite_cores ..) _ p
  obtain ⟨v, hv⟩ : ∃ v, v = ((u.parking nm (some (parkedRecord tl s.cur))).setTslot k.coreKey (k.partBase + f.ta.toNat) tl.emptied).arrive
    (nameAddr nm) := ⟨_, rfl⟩
  rw [← hv] at hrun
  have hsampled := sampled_arrive ((u.parking nm (some (parkedRecord tl s.cur))).setTslot k.coreKey (k.partBase + f.ta.toNat) tl.emptied)
    (nameAddr nm)
  rw [← hv] at hsampled
  have hunit : v.nameUnit nm = { s1.nameUnit nm with
      free := false, asc := s1.ascOf k, leaving := false, parked := some (parkedRecord tl s.cur), size := 65536 } := by
    have hparked := (nameUnit_congr (arena_of_sampled hsampled) nm).trans (nameUnit_parking u nm (some (parkedRecord tl s.cur)))
    rw [hparked, hu, nameUnit_allocate _ _ hi hsite hchan hindex (n := 15)]
    rfl
  have hexist : (s1.nameUnit nm).exist = true := by
    rw [State.nameUnit, State.unitAt, blockKey, hsite, hchan, hindex]
    exact freeBlock_exist (n := 15) hunits
  have hnamed : (s1.nameUnit nm).gen = nm % 256 := by
    rw [hlow, State.nameUnit, State.unitAt, blockKey, hsite, hchan, hindex]
    rfl
  have hasc : s1.ascOf k = s.ascOf k := congrArg Packet.asc (packet_congr (congrArg Lfe.packets hhead.lfe_eq) k.packet)
  refine ⟨_, nm, hrun, ?_, ?_, ?_, ?_, ?_, ?_, fun a ha => ?_⟩
  · have hblockOf : v.blockOf (s.ascOf k) nm = some (v.nameUnit nm).size := by
      refine blockOf_of_unit hbound ?_ ?_ ?_ ?_ ?_ ?_ <;> rw [hunit]
      · exact hexist
      · exact (show (65536 : Nat) ≠ 0 by decide)
      · exact hasc
      · exact hnamed
    exact hblockOf.trans (congrArg some (congrArg AUnit.size hunit))
  · rw [tslot_setTask, tslot_of_cores (cores_of_sampled hsampled), tslot_setTslot_self]
    rfl
  · exact (congrArg AUnit.parked hunit).trans rfl
  · rw [task_setTask, if_pos rfl, set_withSet, names_issuedSet]
    cases hs <;> rfl
  · rw [task_setTask, if_pos rfl, withSet_stqOut]
    rfl
  · rw [← hhead.cur_eq, hv]
    refine (((hbeside.parking _ _).setTslot _ _ _).arrive _).routedOnly (sameBeside_withSet ?_ hs _)
    rw [SameBeside]
    cases hs <;> rfl
  · rw [byte_setTask, hv, byte_congr _ _ (arrive_mem ..).1, byte_congr _ _ (setTslot_mem ..).1, byte_parking, hu,
      byte_allocate _ _ _ _ _ _ (haddr ▸ ha)]
    exact hhead.byte_eq a

/-! ### The end of a TUNPARK (R233, R242) -/

/-- What a read brings changes tasks and cores alone, and of the task's entries none but what it has read. -/
theorem gotBytes_frame {s : State} {t pos : Nat} {k : Task} {it : Issued} (hk : find s.tasks t = some k) (hit : k.issuedAt pos = some it)
    (l : List (Nat × Byte × Bool)) : (∃ ks cs, s.gotBytes t pos l = { s with tasks := ks, cores := cs }) ∧
      ∃ k2 j, find (s.gotBytes t pos l).tasks t = some k2 ∧ k2.ldqOut = k.ldqOut ∧ k2.issuedAt pos = some j ∧ j.entry = it.entry := by
  obtain ⟨s1, hs1⟩ : ∃ s1, s1 = if (l.filter fun b => decide (b.1 < 65536)).isEmpty then s else
    s.setTask t (k.atPos pos fun i => { i with got := i.got ++ l.filter fun b => decide (b.1 < 65536) }) := ⟨_, rfl⟩
  have hslots : (s.gotBytes t pos l).tasks = s1.tasks ∧ ∃ cs, s.gotBytes t pos l = { s1 with cores := cs } := by
    simp only [State.gotBytes, hk, ← hs1]
    refine each_inv (P := fun u => u.tasks = s1.tasks ∧ ∃ cs, u = { s1 with cores := cs }) (fun p u hu => ?_) _ ⟨rfl, _, rfl⟩
    split
    · obtain ⟨htasks, cs, rfl⟩ := hu
      exact ⟨rfl, _, rfl⟩
    · exact hu
  obtain ⟨htasks, cs, hcores⟩ := hslots
  rw [htasks, hcores, hs1]
  split
  · exact ⟨⟨_, _, rfl⟩, k, it, hk, rfl, hit, rfl⟩
  · obtain ⟨add, hadd⟩ : ∃ add : Issued → Issued, add = fun i => { i with got := i.got ++ l.filter fun b => decide (b.1 < 65536) } := ⟨_, rfl⟩
    rw [← hadd]
    refine ⟨⟨_, _, rfl⟩, k.atPos pos add, add it,
      by rw [tasks_setTask, find_ins, if_pos rfl], rfl, ?_, ?_⟩
    · rw [issuedAt_atPos k pos (f := add) fun i => by rw [hadd], hit]
      rfl
    · rw [hadd]

/-- The clause of O36 on the last read of a TUNPARK. -/
theorem unparkRead (f : TL) (s : State) (k : Task) (t n pos cls : Nat) (want : List (Nat × Nat)) (it : Issued)
    (hinstr : it.entry.instr = .tunpark f) (hread : mayRead s t k n want cls pos it)
    (hlast : ∀ a ∈ dropFences (dropAt k.ldqOut n), a.posOf ≠ some pos) :
    ∃ u, exec (.accessPerformed t n ⟨1, 0⟩) s = .next u ∧ (∀ asc nm, u.blockOf asc nm = s.blockOf asc nm) ∧
      (∀ a, u.byte a = s.byte a) ∧ ∃ j, (u.task t).issuedAt pos = some j ∧ j.busy = false ∧ j.entry = it.entry := by
  have hrun := exec_read hread
  obtain ⟨-, -, -, -, hit⟩ := hread
  obtain ⟨k1, hk1⟩ : ∃ k1, k1 = { k with ldqOut := dropFences (dropAt k.ldqOut n) } := ⟨_, rfl⟩
  rw [← hk1] at hrun
  have hfind : find (s.setTask t k1).tasks t = some k1 := by rw [tasks_setTask, find_ins, if_pos rfl]
  obtain ⟨⟨ks, cs, hframe⟩, k2, j, hk2, hout, hj, hentry⟩ := gotBytes_frame hfind (it := it) (by rw [hk1]; exact hit) (bytesRead s want)
  have hload : ∀ g, j.entry.instr ≠ .vld g ∧ j.entry.instr ≠ .vlds g ∧ j.entry.instr ≠ .vgath g := by
    rw [hentry, hinstr]
    exact fun g => ⟨nofun, nofun, nofun⟩
  obtain ⟨i, hi, hbusy, hsame⟩ := landEntry_idle hk2 hj hload (by rw [hout, hk1]; exact hlast)
  refine ⟨_, hrun, fun asc nm => ?_, fun a => ?_, i, hi, hbusy, hsame.trans hentry⟩
  · obtain ⟨_, -, ⟨hu, -⟩ | hu⟩ := landEntry_frame hk2 hj hload <;> rw [hu, hframe] <;> rfl
  · rw [byte_congr _ _ (landEntry_mem ..).1, byte_congr _ _ (gotBytes_mem ..).1, byte_setTask]

end Sys2Proof.Claims
end

section
/-! SUPPORT. The completion of a TUNPARK where no block begins inside another (O36). -/

namespace Sys2Proof.Machine

/-! ### The completion of a TUNPARK (R172, R233, R242) -/

@[simp] theorem rq_signal (qs : QSet) (a b n : Nat) (on : Bool) : (qs.signal a b on).1.rq n = qs.rq n := by
  rw [QSet.signal]
  split
  · rfl
  · split
    · exact rq_setChan ..
    · rfl

@[simp] theorem rq_signals (qs : QSet) (q n : Nat) (tok : BitVec 4) : (qs.signals q tok).1.rq n = qs.rq n :=
  (rq_signal ..).trans (rq_signal ..)

/-- Queues of a context once the oldest issued entry i of queue q has completed, r behind it (R36, R77, R159). -/
def QSet.completed (qs : QSet) (q : Nat) (i : Issued) (r : List Issued) : QSet :=
  let sig := (qs.setRq q { qs.rq q with issued := r }).signals q i.entry.instr.tok
  let flt : FaultRec := { cause := 0x1B, addr := i.entry.pc, data := 0, src := q + 1, await := 0, pos := i.entry.pos }
  let qs2 := if sig.2 then sig.1.setRq q { sig.1.rq q with late := (sig.1.rq q).late ++ [flt], halted := true } else sig.1
  match i.push with
  | some v => { qs2 with rtq := qs2.rtq ++ [v] }
  | none => qs2

theorem issued_completed (qs : QSet) (q : Nat) (i : Issued) (r : List Issued) : ((qs.completed q i r).rq q).issued = r := by
  have hpush (p : QSet) : (QSet.rq (match i.push with | some v => { p with rtq := p.rtq ++ [v] } | none => p) q).issued = (p.rq q).issued := by
    cases i.push
    · rfl
    · match q with
      | 0 | 1 | _ + 2 => rfl
  refine (hpush _).trans ?_
  split <;> simp only [rq_setRq, rq_signals]

/-- A TUNPARK whose work is over completes: it leaves its queue, its name is dropped, and a task that has ended may be done. -/
theorem exec_unparkComplete {s : State} {t : Nat} {hs : Bool} {k : Task} {it : Issued} {r : List Issued} {nm : Nat}
    (hk : find s.tasks t = some k) (hissued : ((k.set hs).rq 0).issued = it :: r) (hover : it.finished s t k = true)
    (hunparks : it.unparks = some nm) :
    exec (.entryComplete t 0 hs) s = .next (((s.setTask t ({ k with fflags := k.fflags ||| it.flags }.withSet hs
      ((k.set hs).completed 0 it r))).dropName (s.ascOf k) nm).afterTend t) := by
  simp only [exec, execEntryComplete, hk, hissued, hover, hunparks, Bool.not_true, Bool.false_eq_true, if_false]
  rfl

/-- Dropping a name leaves every task in its packet. -/
theorem packet_dropName {s : State} {asc nm t : Nat} {k : Task} (hk : find (s.dropName asc nm).tasks t = some k) :
    ∃ k0, find s.tasks t = some k0 ∧ k.packet = k0.packet := by
  rw [State.dropName] at hk
  split at hk
  · rw [find_relinquish] at hk
    obtain ⟨k0, hk0, rfl⟩ := Option.map_eq_some_iff.mp hk
    exact ⟨k0, hk0, rfl⟩
  · exact ⟨k, hk, rfl⟩

theorem issued_revTask (p : Handle → Bool) (k : Task) (hs : Bool) : ((revTask p k).set hs).ldq.issued = (k.set hs).ldq.issued := by
  cases hs <;> rfl

theorem issued_dropName (s : State) (asc nm t : Nat) (hs : Bool) :
    (((s.dropName asc nm).task t).set hs).ldq.issued = ((s.task t).set hs).ldq.issued := by
  rw [State.dropName]
  split
  · rw [State.task, State.task, find_relinquish]
    cases find s.tasks t
    · rfl
    · exact issued_revTask ..
  · rfl

/-- What may follow the end of a task: nothing, or its names are dropped and what is left in its queues is discarded (R172). -/
theorem afterTend_cases (s : State) (t : Nat) : s.afterTend t = s ∨ ∃ k s1, find s.tasks t = some k ∧
    each (fun nm s => State.dropName s (s.packet k.packet).asc nm) k.ord.nrq s = s1 ∧
      s.afterTend t = s1.setTask t { s1.task t with ord := (s1.task t).ord.discarded } := by
  cases hk : find s.tasks t with
  | none => exact .inl (by simp only [State.afterTend, hk])
  | some k =>
    by_cases hdone : (k.hasEnded && !k.inTrap && k.ord.allDone) = true
    · refine .inr ⟨k, _, rfl, rfl, ?_⟩
      simp only [State.afterTend, hk, hdone, if_true]
      rfl
    · exact .inl (by simp only [State.afterTend, hk, hdone, if_false, Bool.false_eq_true])

/-- The end of a task leaves the entries of its queues. -/
theorem issued_afterTend (s : State) (t : Nat) (hs : Bool) :
    (((s.afterTend t).task t).set hs).ldq.issued = ((s.task t).set hs).ldq.issued := by
  obtain hsame | ⟨k, s1, -, rfl, hend⟩ := afterTend_cases s t
  · rw [hsame]
  · rw [hend, task_setTask, if_pos rfl]
    have hnames := each_inv (P := fun u => ((u.task t).set hs).ldq.issued = ((s.task t).set hs).ldq.issued)
      (fun nm u hu => (issued_dropName u (u.packet k.packet).asc nm t hs).trans hu) k.ord.nrq rfl
    refine Eq.trans ?_ hnames
    cases hs <;> rfl

/-- The end of a task makes no stale name of its context a name again, where no block begins inside another. -/
theorem afterTend_stale {s : State} {t v asc : Nat} (hapart : Apart s) (hasc : ∀ k, find s.tasks t = some k → s.ascOf k = asc)
    (hv : s.blockOf asc v = none) : (s.afterTend t).blockOf asc v = none := by
  obtain hsame | ⟨k, s1, hk, rfl, hend⟩ := afterTend_cases s t
  · rw [hsame]
    exact hv
  · rw [hend]
    exact (dropNames_stale k.packet asc k.ord.nrq hapart (hasc k hk)).1 v (.inr hv)

end Sys2Proof.Machine

namespace Sys2Proof.Claims
open Sys2Proof Sys2Proof.Machine

/-- The clause of O36 on the completion of a TUNPARK, where no block begins inside another. -/
theorem unparkCompletes_of_apart {f : TL} {s : State} {hs : Bool} {k : Task} {t : Nat} {it : Issued} {r : List Issued}
    (hinstr : it.entry.instr = .tunpark f) (hk : find s.tasks t = some k) (hissued : (k.set hs).ldq.issued = it :: r)
    (hskip : it.skipped = false) (hbusy : it.busy = false) (hhold : it.holding = false)
    (hfills : ∀ p ∈ it.fills, (s.tslot k.coreKey p).state = .filling → (s.tslot k.coreKey p).owner = t →
      (s.tslot k.coreKey p).filler ≠ it.entry.pos) (hapart : Apart s) :
    ∃ u, exec (.entryComplete t 0 hs) s = .next u ∧ u.blockOf (s.ascOf k) it.entry.xa.toNat = none ∧
      ((u.task t).set hs).ldq.issued.length = r.length ∧ ∀ a, u.byte a = s.byte a := by
  have hover : it.finished s t k = true := by
    simp only [Issued.finished, hbusy, hhold, Bool.not_false, Bool.true_and, List.all_eq_true]
    intro p hp
    simpa only [Bool.not_eq_true', Bool.and_eq_false_imp, Bool.and_eq_true, beq_iff_eq, beq_eq_false_iff_ne, and_imp] using hfills p hp
  have hunparks : it.unparks = some it.entry.xa.toNat := by simp only [Issued.unparks, hinstr, hskip, Bool.false_eq_true, if_false]
  obtain ⟨hapart', hstale, -⟩ := dropName_stale (s := s.setTask t ({ k with fflags := k.fflags ||| it.flags }.withSet hs
    ((k.set hs).completed 0 it r))) hapart (s.ascOf k) it.entry.xa.toNat
  refine ⟨_, exec_unparkComplete hk hissued hover hunparks, ?_, ?_, fun a => ?_⟩
  · refine afterTend_stale hapart' (fun k2 hk2 => ?_) hstale
    obtain ⟨k1, hk1, hpacket⟩ := packet_dropName hk2
    rw [tasks_setTask, find_ins, if_pos rfl, Option.some.injEq] at hk1
    rw [State.ascOf, hpacket, ← hk1, State.packet, dropName_lfe]
    cases hs <;> rfl
  · rw [issued_afterTend, issued_dropName, task_setTask, if_pos rfl, set_withSet]
    exact congrArg List.length (issued_completed (k.set hs) 0 it r)
  · rw [byte_congr _ _ (afterTend_mem ..).1, byte_congr _ _ (dropName_mem ..).1, byte_setTask]

end Sys2Proof.Claims
end

section
/-! SUPPORT. The stale name of a TUNPARK that becomes a name again as its entry, the task's last, completes (O36). -/

namespace Sys2Proof.Claims
open Sys2Proof Sys2Proof.Machine

/-- A TUNPARK with no prefix, for slot 0. -/
def plainTunpark : TL :=
  { pfx := none, tok := 0, ta := 0, c := 0, hint := 0, cls := 0, h := 0, xa := 1, xb := 0, n12 := 0, tr := 0 }

/-- Its entry, whose work is over; its name is stale: the unit that it names is at the generation before. -/
def lateUnpark : Issued :=
  { entry := { instr := .tunpark plainTunpark, pos := 0, pc := 0, h := Handle.invalid, xa := BitVec.ofNat 64 staleName, xb := 0, seed := 0,
               popped := none },
    holding := false, busy := false, skipped := false, flags := 0, push := none, fills := [], got := [], olds := [], oldm := [] }

/-- A task that has ended, with that entry alone in its queues and the name of the large block in its NRQ. -/
def endedUnparking : Task :=
  { Task.empty with phase := .ended,
                    ord := { (QSet.empty 1 1 1) with nrq := [largeName], ldq := { (RQ.empty 1) with issued := [lateUnpark] } } }

/-- That task on the arena in which a block begins inside another. -/
def unparkEnding : State := { overlapping with tasks := [(192, endedUnparking)] }

/-- The block of the stale name after a step. -/
def staleBlockAfter : Out → Option Nat
  | .next u => u.blockOf 0 staleName
  | _ => none

/-- The entry completes, its name passed over as stale; TEND then relinquishes the large block, whose units advance to that name's
generation. -/
theorem staleBlockAfter_unparkEnding : staleBlockAfter (exec (.entryComplete 192 0 false) unparkEnding) = some 4096 := by
  decide +kernel

/-- Refutes O36: its clause on the completion of a TUNPARK, where the entry's name is already stale and its completion lets an ended task
relinquish a block that overlaps the one named. Where no block begins inside another the clause holds (`unparkCompletes_of_apart`), and so do
the other three (`tilePark`, `tileUnpark`, `unparkRead`). -/
theorem not_tileParking : ¬ Obligations.TileParking := by
  unfold Obligations.TileParking
  rintro ⟨-, -, hcompletes, -⟩
  obtain ⟨u, hu, hnone, -⟩ := hcompletes plainTunpark unparkEnding false endedUnparking 192 lateUnpark [] rfl rfl rfl rfl rfl rfl
    (fun p hp => absurd hp List.not_mem_nil)
  have hstale : staleBlockAfter (exec (.entryComplete 192 0 false) unparkEnding) = none := by
    rw [hu]
    exact hnone
  exact absurd (staleBlockAfter_unparkEnding.symm.trans hstale) nofun

end Sys2Proof.Claims
end

section
/-! SUPPORT. VSEL, and the sums that VRSCAN leaves along a row (O25). -/

namespace Sys2Proof.Machine

/-! ### Prefix sums (R256) -/

theorem length_prefixN (acc : Num) (fl : BitVec 6) (l : List Num) : (prefixN acc fl l).length = l.length := by
  induction l generalizing acc fl with
  | nil => rfl
  | cons v r ih => exact congrArg (· + 1) (ih ..)

theorem mem_rowActive {T : Nat} {act : Nat → Bool} {r j : Nat} : j ∈ rowActive T act r ↔ j / perRow T = r ∧ act j = true :=
  mem_rowElts

/-- The elements of a row stand in its list once each. -/
theorem nodup_rowActive (T : Nat) (act : Nat → Bool) (r : Nat) : (rowActive T act r).Nodup :=
  (List.nodup_range.map fun a b h => by simpa using h).filter _

/-- Where a value stands in a list without repetition, a zip pairs it with the value there. -/
theorem mem_zip_iff_idxOf {α β : Type} [DecidableEq α] {l : List α} {m : List β} (hl : l.Nodup) {a : α} {b : β} :
    (a, b) ∈ l.zip m ↔ a ∈ l ∧ m[l.idxOf a]? = some b := by
  rw [List.mem_iff_getElem?]
  simp only [List.getElem?_zip_eq_some]
  constructor
  · rintro ⟨i, ha, hb⟩
    obtain ⟨hi, rfl⟩ := List.getElem?_eq_some_iff.mp ha
    exact ⟨List.getElem_mem hi, by rw [hl.idxOf_getElem]; exact hb⟩
  · rintro ⟨ha, hb⟩
    exact ⟨l.idxOf a, List.getElem?_idxOf ha, hb⟩

/-- The sums of the rows of a register, each with its element. -/
def rowSums (T : Nat) (act : Nat → Bool) (a : Nat → Nat) : List (Nat × (Num × BitVec 6)) := (List.range 32).flatMap (scanRow T act a)

/-- The exact sum of the active elements of the row of element j, up to it. -/
def sumAt (T : Nat) (act : Nat → Bool) (a : Nat → Nat) (j : Nat) : Num × BitVec 6 :=
  let row := rowActive T act (j / perRow T)
  ((prefixN (.fin true 0 1) 0 (row.map fun e => valueOf T (a e)))[row.idxOf j]?).getD (.nan, 0)

/-- The elements that have a sum are the active ones, each with the sum of its row up to it. -/
theorem mem_rowSums {T : Nat} {act : Nat → Bool} {a : Nat → Nat} {j : Nat} {y : Num × BitVec 6} :
    (j, y) ∈ rowSums T act a ↔ j < elems T ∧ act j = true ∧ y = sumAt T act a j := by
  have hrow (r : Nat) : (j, y) ∈ scanRow T act a r ↔ (j / perRow T = r ∧ act j = true) ∧ y = sumAt T act a j := by
    rw [scanRow, mem_zip_iff_idxOf (nodup_rowActive T act r), mem_rowActive]
    refine and_congr_right fun ⟨hr, hact⟩ => ?_
    have hlt : (rowActive T act r).idxOf j < (prefixN (.fin true 0 1) 0 ((rowActive T act r).map fun e => valueOf T (a e))).length := by
      rw [length_prefixN, List.length_map]
      exact List.idxOf_lt_length_of_mem (mem_rowActive.mpr ⟨hr, hact⟩)
    rw [sumAt, hr]
    simp only [List.getElem?_eq_getElem hlt, Option.getD_some, Option.some.injEq, eq_comm]
  simp only [rowSums, List.mem_flatMap, List.mem_range, hrow]
  rw [elems_eq_rows, ← Nat.div_lt_iff_lt_mul (perRow_pos T)]
  exact ⟨fun ⟨r, hr, ⟨hj, hact⟩, hy⟩ => ⟨hj ▸ hr, hact, hy⟩, fun ⟨hj, hact, hy⟩ => ⟨_, hj, ⟨rfl, hact⟩, hy⟩⟩

/-! ### Tables into which results are entered one by one -/

/-- For each pair of a list in turn, its place in the table takes its value. -/
def entered {β γ : Type} (g : Nat × β → γ) (l : List (Nat × β)) (A : Array (Option γ)) : Array (Option γ) :=
  l.foldl (fun A p => A.setIfInBounds p.1 (some (g p))) A

/-- A place that no pair names keeps what it held. -/
theorem getElem?_entered_of_not_mem {β γ : Type} {g : Nat × β → γ} {l : List (Nat × β)} {j : Nat} (h : ∀ y, (j, y) ∉ l)
    (A : Array (Option γ)) : (entered g l A)[j]? = A[j]? := by
  induction l generalizing A with
  | nil => rfl
  | cons p l ih =>
    have hne : p.1 ≠ j := fun hp => h p.2 (hp ▸ List.mem_cons_self)
    refine (ih (fun y hy => h y (List.mem_cons_of_mem _ hy)) _).trans ?_
    rw [Array.getElem?_setIfInBounds, if_neg hne]

/-- A place that pairs name takes their value, where they give one. -/
theorem getElem?_entered_of_mem {β γ : Type} {g : Nat × β → γ} {l : List (Nat × β)} {j : Nat} {y : β} (h : (j, y) ∈ l)
    (hl : ∀ z, (j, z) ∈ l → z = y) {A : Array (Option γ)} (hj : j < A.size) : (entered g l A)[j]? = some (some (g (j, y))) := by
  induction l generalizing A with
  | nil => cases h
  | cons p l ih =>
    have hsize : j < (A.setIfInBounds p.1 (some (g p))).size := by rwa [Array.size_setIfInBounds]
    by_cases hin : (j, y) ∈ l
    · exact ih hin (fun z hz => hl z (List.mem_cons_of_mem _ hz)) hsize
    · obtain rfl : (j, y) = p := (List.mem_cons.mp h).resolve_right hin
      have hlater : ∀ z, (j, z) ∉ l := fun z hz => hin (hl z (List.mem_cons_of_mem _ hz) ▸ hz)
      refine (getElem?_entered_of_not_mem hlater _).trans ?_
      rw [Array.getElem?_setIfInBounds, if_pos rfl, if_pos hj]

/-- An element of vd after a write of a table of results. -/
theorem setElems_elem (k : Task) {vd : VField} (T : Nat) (tbl : Array (Option (Nat × BitVec 6))) (hreg : isVReg vd = true) {j : Nat}
    (hj : j < elems T) : ((k.setElems vd T tbl).rv vd.toNat).elem (width T) j =
      (tbl[j]?).join.elim ((k.rv vd.toNat).elem (width T) j) fun r => r.1 % 2 ^ width T := by
  rw [Task.setElems, if_pos hreg, rv_wv, if_pos rfl, elem_update _ _ _ hj]
  cases (tbl[j]?).join <;> rfl

end Sys2Proof.Machine

namespace Sys2Proof.Claims
open Sys2Proof Sys2Proof.Machine

/-- The result of VSEL for element j: the bits of the source that its mask chooses, and no flag (R252). -/
def chosen (f : V4) (x : Hd) (j : Nat) : Nat × BitVec 6 :=
  bitsOnly (if maskBit (x.see.rm f.mask.toNat) f.ty.toNat j then raw f x f.va j else raw f x f.vb j)

/-- A table of results without flags raises none. -/
theorem laneTable_noFlags {T : Nat} {act : Nat → Bool} {op : Nat → Nat × BitVec 6} (h : ∀ j, (op j).2 = 0) :
    tableFlags (laneTable T act op) = 0 := by
  refine BitVec.eq_of_getLsbD_eq fun b _ => (Bool.eq_false_iff.mpr fun hb => ?_).trans BitVec.getLsbD_zero.symm
  obtain ⟨j, -, -, hbit⟩ := (laneTable_flags ..).mp hb
  simp [h j] at hbit

/-- VSEL is the elementwise shape on every element within count and rows. -/
theorem vectorSelect : VectorSelect := by
  intro f s s1 hs k e r vals hhead x
  let act := inRange f.pfx (countOf f.pfx x.tk.pfx) f.ty.toNat
  have hcnt : x.cnt = countOf f.pfx x.tk.pfx := by
    rw [Hd.cnt, show x.e.instr = .vsel f from hhead.instr]
    rfl
  have hbody : selBody f x = vecRun x f.vd f.ty.toNat act (chosen f x) := by
    simp only [selBody, hcnt]
    rfl
  obtain ⟨v, hv⟩ := setElems_v k f.vd f.ty.toNat (laneTable f.ty.toNat act (chosen f x))
  have hk2 : withV k v = k.setElems f.vd f.ty.toNat (laneTable f.ty.toNat act (chosen f x)) := hv.symm
  refine ⟨v, issues_of_registers (body := selBody f) (fun _ => rfl) rfl hhead ?_, ?_⟩
  · rw [show seen (.vsel f) s s1 k hs e vals = x from rfl, hbody, vecRun_eq, laneTable_noFlags fun _ => rfl, hk2]
    rfl
  · rw [hk2]
    exact ⟨fun n hn => setElems_other k _ _ hn, fun hreg j hj => setElems_lane k _ act (chosen f x) hreg hj⟩

/-- VRSCAN writes the sums of the rows, each rounded for its element. -/
theorem prefixSums : PrefixSums := by
  intro f s s1 hs k e r vals hhead x T row
  let act := x.active f.pfx f.mask T
  let sums := rowSums T act (x.src T f.va)
  let tbl := entered (fun p => rounded f x p.1 p.2) sums (Array.replicate (elems T) none)
  obtain ⟨v, hv⟩ := setElems_v k f.vd T tbl
  have hk2 : withV k v = k.setElems f.vd T tbl := hv.symm
  have hbody : scanBody f x = .done { s := s1.setTask s.cur (withV k v), flags := tableFlags tbl } := by
    rw [hk2]
    simp only [scanBody, List.foldl_toArray]
    rfl
  refine ⟨v, tableFlags tbl, issues_of_registers (body := scanBody f) (fun _ => rfl) rfl hhead hbody, ?_⟩
  rw [hk2]
  refine ⟨fun n hn => setElems_other k _ _ hn, fun hreg j hj => ?_⟩
  have htbl : tbl[j]? = some (if act j = true then some (rounded f x j (sumAt T act (x.src T f.va) j)) else none) := by
    by_cases hact : act j = true
    · rw [if_pos hact]
      exact getElem?_entered_of_mem (mem_rowSums.mpr ⟨hj, hact, rfl⟩) (fun z hz => (mem_rowSums.mp hz).2.2)
        (by rwa [Array.size_replicate])
    · rw [if_neg hact, getElem?_entered_of_not_mem (fun z hz => hact (mem_rowSums.mp hz).2.1), Array.getElem?_replicate, if_pos hj]
  rw [setElems_elem k T tbl hreg hj, htbl]
  by_cases hact : act j = true
  · rw [if_pos hact, if_pos hact]
    rfl
  · rw [if_neg hact, if_neg hact]
    rfl

/-- Settles O25: VSEL by the elementwise shape, VRSCAN by the table of its rows' sums. -/
theorem rowForms : Obligations.RowForms := ⟨vectorSelect, prefixSums⟩

end Sys2Proof.Claims
end

section
/-! SUPPORT. Heads that change their context beside its queues, and the instructions that write a mask (O26). -/

namespace Sys2Proof.Machine

/-! ### Masks (R246) -/

theorem maskOf_eq_packBits (f : Nat → Bool) (n : Nat) : maskOf f n = packBits 1 (fun j => (f j).toNat) n := by
  induction n with
  | zero => rfl
  | succ n ih => rw [maskOf, packBits, ih]; cases f n <;> simp

/-- Bit j of a mask that a function gives. -/
theorem getLsbD_mkMask (f : Nat → Bool) {j : Nat} (hj : j < 8192) : (mkMask f).getLsbD j = f j := by
  have hbit := packBits_elem 1 (fun j => (f j).toNat) hj
  rw [← maskOf_eq_packBits, Nat.one_mul, Nat.pow_one] at hbit
  rw [mkMask, BitVec.getLsbD_ofNat, Nat.testBit_eq_decide_div_mod_eq, hbit, decide_eq_true hj]
  cases f j <;> rfl

/-- A write of a mask register that is not m0. -/
theorem wm_of_ne_zero (k : Task) {n : Nat} (h : n ≠ 0) (v : BitVec 8192) : k.wm n v = { k with m := put 0 k.m n v } := if_neg h

end Sys2Proof.Machine

namespace Sys2Proof.Claims
open Sys2Proof Sys2Proof.Machine

/-! ### Heads that change their context beside its queues (R240) -/

section
variable {i : Instr} {s s1 : State} {q : Nat} {hs : Bool} {k : Task} {e : Entry} {r : List Entry} {vals : List CtqEntry}
  {body : Hd → Head}

/-- A head whose body does nothing to the state issues with what its effect leaves for later. -/
theorem issues_unchanged {x : Eff} (hruns : RunsAtHead i q body) (h : AtHead i s q hs k e r vals s1)
    (hbody : body (seen i s s1 k hs e vals) = .done x) (hx : x.s = s1) : Issues i s s1 q hs k e r ((x.keeping k i).issued e) := by
  rw [Issues, tookMatrix_eq _ _ _ hruns.unit, head_issues hruns h hbody (k2 := k) (hx ▸ h.task_eq) h.entry, hx]
  rfl

/-- A head whose body writes the context, its queues apart, issues and holds its unit. -/
theorem issues_of_context {k2 : Task} (hruns : RunsAtHead i q body) (h : AtHead i s q hs k e r vals s1)
    (hbody : body (seen i s s1 k hs e vals) = .done { s := s1.setTask s.cur k2 }) (hset : k2.set hs = k.set hs) :
    Issues i s s1 q hs k2 e r (held k e 0) :=
  issues_of_holds hruns h hbody (hset ▸ h.entry)

theorem set_withM (k : Task) (hs : Bool) (m : Assoc (BitVec 8192)) : ({ k with m := m } : Task).set hs = k.set hs := by cases hs <;> rfl

/-- A head whose body writes one mask register. -/
theorem issues_of_mask {n : Nat} {m : BitVec 8192} (hruns : RunsAtHead i q body) (h : AtHead i s q hs k e r vals s1)
    (hn : n ≠ 0) (hbody : body (seen i s s1 k hs e vals) = .done { s := s1.setTask s.cur (k.wm n m) }) :
    Issues i s s1 q hs { k with m := put 0 k.m n m } e r (held k e 0) :=
  issues_of_context hruns h (by rw [hbody, wm_of_ne_zero k hn]) (set_withM ..)

end

/-! ### VCMP, VMSK, VMASKQ (R254, R258, R259) -/

section
variable {f : V4} {c : BitVec 3} {s s1 : State} {hs : Bool} {k : Task} {e : Entry} {r : List Entry} {vals : List CtqEntry}

theorem runsAtHead_vcmp (c : BitVec 3) (f : V4) : RunsAtHead (.vcmp c f) 1 (cmpBody c f) := ⟨fun _ => rfl, rfl, rfl⟩
theorem runsAtHead_vmsk (f : V4) : RunsAtHead (.vmsk f) 1 (mskBody f) := ⟨fun _ => rfl, rfl, rfl⟩
theorem runsAtHead_vmaskq (f : V4) : RunsAtHead (.vmaskq f) 1 (maskqBody f) := ⟨fun _ => rfl, rfl, rfl⟩

/-- The count that a VCMP at its head sees. -/
theorem vcmp_cnt (h : AtHead (.vcmp c f) s 1 hs k e r vals s1) : (seen (.vcmp c f) s s1 k hs e vals).cnt =
    countOf f.pfx (takenOf f.pfx [f.va, f.vb, f.vc] vals).pfx := by
  rw [Hd.cnt, show (seen (.vcmp c f) s s1 k hs e vals).e.instr = .vcmp c f from h.instr]
  rfl

theorem vcmp_writesNothing (h : AtHead (.vcmp c f) s 1 hs k e r vals s1)
    (hzero : noCount (countOf f.pfx (takenOf f.pfx [f.va, f.vb, f.vc] vals).pfx) = true) :
    Issues (.vcmp c f) s s1 1 hs k e r (held k e 0) := by
  have hbody : cmpBody c f (seen (.vcmp c f) s s1 k hs e vals) = .done { s := s1 } := by
    rw [cmpBody, vcmp_cnt h, if_pos hzero]
    rfl
  have hissues := issues_unchanged (runsAtHead_vcmp c f) h hbody rfl
  rw [← h.instr] at hissues ⊢
  exact hissues

theorem vcmp_writesMask (h : AtHead (.vcmp c f) s 1 hs k e r vals s1)
    (hcount : noCount (countOf f.pfx (takenOf f.pfx [f.va, f.vb, f.vc] vals).pfx) = false) (hsink : isSink f.vd = false)
    (hd : f.vd.toNat ≠ 0) : Issues (.vcmp c f) s s1 1 hs
      { k with m := put 0 k.m f.vd.toNat (cmpMask c f (seen (.vcmp c f) s s1 k hs e vals)) } e r (held k e 0) := by
  refine issues_of_mask (runsAtHead_vcmp c f) h hd ?_
  rw [cmpBody, vcmp_cnt h, hcount, if_neg Bool.false_ne_true, Task.setMask, hsink, if_neg Bool.false_ne_true]
  rfl

/-- The operation codes of VMSK (R258). -/
theorem maskOp_code (c : VField) (a b : BitVec 8192) : maskOp c.toNat a b =
    if c = 0 then a &&& b else if c = 1 then a ||| b else if c = 2 then a ^^^ b else if c = 3 then a &&& ~~~b
      else if c = 4 then ~~~a else a := by
  simp only [maskOp, BitVec.toNat_eq (x := c)]
  split <;> simp_all

theorem vmsk_writesMask (h : AtHead (.vmsk f) s 1 hs k e r vals s1) (hd : f.vd.toNat ≠ 0) :
    Issues (.vmsk f) s s1 1 hs { k with m := put 0 k.m f.vd.toNat (
      let a := k.rm f.va.toNat
      let b := k.rm f.vb.toNat
      if f.vc = 0 then a &&& b else if f.vc = 1 then a ||| b else if f.vc = 2 then a ^^^ b else if f.vc = 3 then a &&& ~~~b
      else if f.vc = 4 then ~~~a else a) } e r (held k e 0) := by
  refine issues_of_mask (runsAtHead_vmsk f) h hd ?_
  rw [mskBody, maskOp_code]
  rfl

theorem vmaskq_writesMask (h : AtHead (.vmaskq f) s 1 hs k e r vals s1) (hd : f.vd.toNat ≠ 0)
    (hdesc : descBad (seen (.vmaskq f) s s1 k hs e vals).tk.own.toNat f.ty.toNat = false) :
    Issues (.vmaskq f) s s1 1 hs { k with m := put 0 k.m f.vd.toNat (mkMask fun j => decide (j < elems f.ty.toNat) &&
      descSel (seen (.vmaskq f) s s1 k hs e vals).tk.own.toNat f.ty.toNat j && maskBit (k.rm f.mask.toNat) f.ty.toNat j) } e r
      (held k e 0) := by
  refine issues_of_mask (runsAtHead_vmaskq f) h hd ?_
  rw [maskqBody]
  simp only [hdesc, Bool.false_eq_true, if_false]
  rfl

end

/-- Settles O26: each instruction writes the mask that its body computes, and that mask has the bits that the rules give. -/
theorem maskResults : Obligations.MaskResults := by
  intro f c s s1 hs k e r vals
  refine ⟨vcmp_writesNothing, fun h hcount hsink hd => ⟨_, vcmp_writesMask h hcount hsink hd, fun j hj => getLsbD_mkMask _ hj⟩,
    vmsk_writesMask, ?_⟩
  intro h hd D hdesc
  exact ⟨_, vmaskq_writesMask h hd hdesc, fun j hj => getLsbD_mkMask _ hj⟩

end Sys2Proof.Claims
end

section
/-! SUPPORT. The deferral queues, and the value of VRET (O27, O28). -/

namespace Sys2Proof.Machine

/-! ### The fields of the records that VDRAIN takes (R261) -/

theorem drainTo_v (k : Task) (r n : Nat) (recs : Array (BitVec 128)) : ∃ v, k.drainTo r n recs = { k with v := v } := by
  unfold Task.drainTo
  split
  · exact ⟨k.v, rfl⟩
  · exact ⟨_, rfl⟩

theorem drainTo_other (k : Task) {r m : Nat} (n : Nat) (recs : Array (BitVec 128)) (h : m ≠ r) : (k.drainTo r n recs).rv m = k.rv m := by
  unfold Task.drainTo
  split
  · rfl
  · rw [rv_wv, if_neg h]

/-- Field n of record j is in element j of the register; where there is no such record the element stays. -/
theorem drainTo_elem (k : Task) (r n : Nat) (recs : List (BitVec 128)) {j : Nat} (hj : j < 2048) :
    ((k.drainTo r n recs.toArray).rv r).elem 32 j = (recs[j]?).elim ((k.rv r).elem 32 j) fun c => c.toNat / 2 ^ (32 * n) % 2 ^ 32 := by
  unfold Task.drainTo
  split
  · next hempty =>
    have hnil : recs = [] := by simpa using hempty
    rw [hnil]
    rfl
  · rw [rv_wv, if_pos rfl]
    refine (elem_update _ 13 _ (show j < elems 13 from hj)).trans ?_
    rw [List.getElem?_toArray]
    cases recs[j]? with
    | none => rfl
    | some c => exact Nat.mod_mod ..

/-- The context k once the records have been written to four registers from v on, field by field. -/
def Task.drainAll (k : Task) (v : Nat) (recs : Array (BitVec 128)) : Task :=
  (((k.drainTo v 0 recs).drainTo (v + 1) 1 recs).drainTo (v + 2) 2 recs).drainTo (v + 3) 3 recs

theorem drainAll_v (k : Task) (v : Nat) (recs : Array (BitVec 128)) : ∃ w, k.drainAll v recs = { k with v := w } := by
  obtain ⟨v0, h0⟩ := drainTo_v k v 0 recs
  obtain ⟨v1, h1⟩ := drainTo_v (k.drainTo v 0 recs) (v + 1) 1 recs
  obtain ⟨v2, h2⟩ := drainTo_v ((k.drainTo v 0 recs).drainTo (v + 1) 1 recs) (v + 2) 2 recs
  obtain ⟨v3, h3⟩ := drainTo_v (((k.drainTo v 0 recs).drainTo (v + 1) 1 recs).drainTo (v + 2) 2 recs) (v + 3) 3 recs
  exact ⟨v3, by rw [Task.drainAll, h3, h2, h1, h0]⟩

theorem drainAll_other (k : Task) {v m : Nat} (recs : Array (BitVec 128)) (h : m < v ∨ v + 4 ≤ m) :
    (k.drainAll v recs).rv m = k.rv m := by
  rw [Task.drainAll, drainTo_other _ _ _ (by omega), drainTo_other _ _ _ (by omega), drainTo_other _ _ _ (by omega),
    drainTo_other _ _ _ (by omega)]

theorem drainAll_elem (k : Task) (v : Nat) (recs : List (BitVec 128)) {n j : Nat} (hn : n < 4) (hj : j < 2048) :
    ((k.drainAll v recs.toArray).rv (v + n)).elem 32 j =
      (recs[j]?).elim ((k.rv (v + n)).elem 32 j) fun c => c.toNat / 2 ^ (32 * n) % 2 ^ 32 := by
  have hother (k : Task) {a : Nat} (b : Nat) (h : n ≠ a) : (k.drainTo (v + a) b recs.toArray).rv (v + n) = k.rv (v + n) :=
    drainTo_other k b _ (by omega)
  have hfirst (h : n ≠ 0) : (k.drainTo v 0 recs.toArray).rv (v + n) = k.rv (v + n) := drainTo_other k 0 _ (by omega)
  rw [Task.drainAll]
  interval_cases n
  · rw [hother _ 3 (by decide), hother _ 2 (by decide), hother _ 1 (by decide)]
    exact drainTo_elem k v 0 recs hj
  · rw [hother _ 3 (by decide), hother _ 2 (by decide), drainTo_elem _ _ 1 recs hj, hfirst (by decide)]
  · rw [hother _ 3 (by decide), drainTo_elem _ _ 2 recs hj, hother _ 1 (by decide), hfirst (by decide)]
  · rw [drainTo_elem _ _ 3 recs hj, hother _ 2 (by decide), hother _ 1 (by decide), hfirst (by decide)]

theorem setDq_rv (k : Task) (n m : Nat) (l : List (BitVec 128)) : (k.setDq n l).rv m = k.rv m := by
  unfold Task.setDq; split <;> rfl

theorem setDq_m (k : Task) (n : Nat) (l : List (BitVec 128)) : (k.setDq n l).m = k.m := by
  unfold Task.setDq; split <;> rfl

/-! ### The values that VRET counts (R262) -/

theorem onesOf_eq (m : BitVec 8192) (n : Nat) : onesOf m n = ((List.range n).filter m.getLsbD).length := by
  induction n with
  | zero => rfl
  | succ n ih =>
    rw [onesOf, ih, List.range_succ, List.filter_append, List.length_append, List.filter_singleton]
    cases m.getLsbD n <;> rfl

end Sys2Proof.Machine

namespace Sys2Proof.Claims
open Sys2Proof Sys2Proof.Machine

theorem toNat_eq_zero_iff (v : VField) : v.toNat = 0 ↔ v = 0 := BitVec.toNat_eq (x := v) (y := 0) |>.symm

section
variable {f : V4} {s s1 : State} {hs : Bool} {k : Task} {e : Entry} {r : List Entry} {vals : List CtqEntry}

theorem runsAtHead_vdefer (f : V4) : RunsAtHead (.vdefer f) 1 (deferBody f) := ⟨fun _ => rfl, rfl, rfl⟩
theorem runsAtHead_vdrain (f : V4) : RunsAtHead (.vdrain f) 1 (drainBody f) := ⟨fun _ => rfl, rfl, rfl⟩
theorem runsAtHead_vret (f : V4) : RunsAtHead (.vret f) 1 (retBody f) := ⟨fun _ => rfl, rfl, rfl⟩

/-! ### VDEFER (R260) -/

/-- The active elements that a VDEFER defers, and the record of each (R260). -/
def deferred (f : V4) (x : Hd) : List Nat := activeList (x.active f.pfx f.mask f.ty.toNat) (elems f.ty.toNat)
def deferRecords (f : V4) (x : Hd) : List (BitVec 128) :=
  (deferred f x).map fun j => BitVec.ofNat 128 (j + raw f x f.va j * 2 ^ 32 + raw f x f.vb j * 2 ^ 64 + raw f x f.vc j * 2 ^ 96)

theorem deferBody_room {f : V4} {x : Hd} (h : (x.k.dq f.vd.toNat).length + (deferred f x).length ≤ 4096) :
    deferBody f x = .done { s := x.s.setTask x.t (x.k.setDq f.vd.toNat (x.k.dq f.vd.toNat ++ deferRecords f x)) } :=
  if_neg (Nat.not_lt.mpr h)

theorem deferBody_full {f : V4} {x : Hd} (h : 4096 < (x.k.dq f.vd.toNat).length + (deferred f x).length) :
    deferBody f x = .fault 0x38 0 x.s :=
  if_pos h

theorem vdefer_appends {k2 : Task} (h : AtHead (.vdefer f) s 1 hs k e r vals s1)
    (hroom : (k.dq f.vd.toNat).length + (deferred f (seen (.vdefer f) s s1 k hs e vals)).length ≤ 4096)
    (hk2 : k.setDq f.vd.toNat (k.dq f.vd.toNat ++ deferRecords f (seen (.vdefer f) s s1 k hs e vals)) = k2)
    (hset : k2.set hs = k.set hs) : Issues (.vdefer f) s s1 1 hs k2 e r (held k e 0) := by
  subst hk2
  exact issues_of_context (runsAtHead_vdefer f) h (deferBody_room hroom) hset

theorem vdefer_faults (h : AtHead (.vdefer f) s 1 hs k e r vals s1)
    (hfull : 4096 < (k.dq f.vd.toNat).length + (deferred f (seen (.vdefer f) s s1 k hs e vals)).length) :
    ∃ t, exec (.vdefer f) s = .next t ∧
      (((t.task s.cur).set hs).rq 1).fault = some { cause := 0x38, addr := e.pc, data := 0, src := 2, await := 0, pos := e.pos } ∧
      (t.task s.cur).dq0 = k.dq0 ∧ (t.task s.cur).dq1 = k.dq1 := by
  obtain ⟨n, hrun⟩ := head_faults (runsAtHead_vdefer f).exec rfl h (deferBody_full hfull)
  refine ⟨_, hrun, ?_⟩
  rw [raisePopped_eq, task_setTask, if_pos rfl, h.task_eq]
  exact ⟨faulted_fault .., withSet_dq0 .., withSet_dq1 ..⟩

theorem deferAppends : DeferAppends := by
  intro f s s1 hs k e r vals h x es recs
  refine ⟨fun hd hroom => ?_, fun hd hroom => ?_, vdefer_faults h⟩
  · have hd0 : f.vd.toNat = 0 := (toNat_eq_zero_iff f.vd).mpr hd
    exact vdefer_appends h (by rw [hd0]; exact hroom) (by rw [hd0]; rfl) (by cases hs <;> rfl)
  · have hd1 : f.vd.toNat ≠ 0 := fun h0 => hd ((toNat_eq_zero_iff f.vd).mp h0)
    have hdq : k.dq f.vd.toNat = k.dq1 := if_neg hd1
    exact vdefer_appends h (by rw [hdq]; exact hroom) (by rw [hdq, Task.setDq, if_neg hd1]; rfl) (by cases hs <;> rfl)

/-! ### VDRAIN (R261) -/

/-- The context k once a VDRAIN has taken its records, the oldest of the queue that it names. -/
def afterDrain (f : V4) (k : Task) : Task :=
  let recs := (k.dq f.va.toNat).take 2048
  ((k.setDq f.va.toNat ((k.dq f.va.toNat).drop 2048)).drainAll f.vd.toNat recs.toArray).wm f.mask.toNat
    (BitVec.ofNat 8192 (2 ^ recs.length - 1))

theorem drainBody_eq (f : V4) (x : Hd) : drainBody f x = .done { s := x.s.setTask x.t (afterDrain f x.k) } := rfl

/-- The deferral queue, vector registers and one mask change. -/
theorem afterDrain_form (f : V4) (k : Task) : afterDrain f k =
    { k.setDq f.va.toNat ((k.dq f.va.toNat).drop 2048) with
      v := (afterDrain f k).v,
      m := if f.mask = 0 then k.m
        else put 0 k.m f.mask.toNat (BitVec.ofNat 8192 (2 ^ ((k.dq f.va.toNat).take 2048).length - 1)) } := by
  obtain ⟨w, hw⟩ := drainAll_v (k.setDq f.va.toNat ((k.dq f.va.toNat).drop 2048)) f.vd.toNat ((k.dq f.va.toNat).take 2048).toArray
  have hm0 : f.mask.toNat = 0 ↔ f.mask = 0 := (BitVec.toNat_eq (x := f.mask) (y := 0)).symm
  simp only [afterDrain, hw, Task.wm, hm0, ← setDq_m k f.va.toNat ((k.dq f.va.toNat).drop 2048)]
  split <;> rfl

theorem afterDrain_rv (f : V4) (k : Task) (n : Nat) : (afterDrain f k).rv n =
    ((k.setDq f.va.toNat ((k.dq f.va.toNat).drop 2048)).drainAll f.vd.toNat ((k.dq f.va.toNat).take 2048).toArray).rv n := by
  simp only [afterDrain, Task.wm]
  split <;> rfl

theorem set_afterDrain (f : V4) (k : Task) (hs : Bool) : (afterDrain f k).set hs = k.set hs := by
  rw [afterDrain_form, Task.setDq]
  split <;> cases hs <;> rfl

theorem drainTakes : DrainTakes := by
  intro f s s1 hs k e r vals h recs
  refine ⟨afterDrain f k, issues_of_context (runsAtHead_vdrain f) h (drainBody_eq ..) (set_afterDrain ..), afterDrain_form f k,
    fun n hn j hj => ?_, fun n hn => ?_⟩
  · rw [afterDrain_rv, drainAll_elem _ _ _ hn hj, setDq_rv]
    cases recs[j]? <;> rfl
  · rw [afterDrain_rv, drainAll_other _ _ hn, setDq_rv]

/-! ### VRET (R248, R262) -/

theorem vret_carries (h : AtHead (.vret f) s 1 hs k e r vals s1)
    (hroom : (k.set hs).rtq.length + ((k.set hs).cmq.issued.filter fun i => i.push.isSome).length < if hs then 4 else 16) :
    Issues (.vret f) s s1 1 hs k e r { held k e 0 with push := some (retValue f (seen (.vret f) s s1 k hs e vals)) } := by
  have hbody : retBody f (seen (.vret f) s s1 k hs e vals) =
      .done { s := s1, push := some (retValue f (seen (.vret f) s s1 k hs e vals)) } := if_neg (Nat.not_le.mpr hroom)
  have hissues := issues_unchanged (runsAtHead_vret f) h hbody rfl
  rw [held, h.instr]
  exact hissues

end

/-- Settles O27: both by what the body does with the queue that it names. -/
theorem deferQueues : Obligations.DeferQueues := ⟨deferAppends, drainTakes⟩

/-- Settles O28: with room in the RTQ the body pushes `retValue`, and that is what each of the three forms says. -/
theorem returnValue : Obligations.ReturnValue := by
  intro f s s1 hs k e r vals h hroom
  refine ⟨_, vret_carries h hroom, fun hc => ?_, fun hc => ?_, fun hc => ?_⟩
  · have hcode : f.vc.toNat = 1 := by rw [hc]; rfl
    simp only [retValue, hcode, onesOf_eq]
    rfl
  · have hcode : f.vc.toNat = 2 := by rw [hc]; rfl
    simp only [retValue, hcode]
    rfl
  · have hcode : f.vc.toNat = 0 := by rw [hc]; rfl
    intro x
    cases hfind : (List.range (elems f.ty.toNat)).find? (x.active f.pfx f.mask f.ty.toNat) with
    | none => simp only [retValue, hcode, x, hfind]
    | some j =>
      simp only [retValue, hcode, x, hfind]
      rfl

end Sys2Proof.Claims
end

section
/-! SUPPORT. Vector loads and stores at their heads: the reads and the writes that leave, byte by byte (O29, first part; O30). -/

namespace Sys2Proof.Machine
open Sys2Proof.Claims

/-! ### Reads and writes by bytes (R249) -/

theorem flatMap_flatten_eq {α β : Type} (f : α → List β) (gs : List (List α)) :
    gs.flatten.flatMap f = gs.flatMap (·.flatMap f) := by
  rw [← List.flatMap_id, List.flatMap_assoc]
  rfl

/-- What the reads of a list of groups want: for each element its bytes, the least significant first. -/
theorem wanted_readsOf (n cls pos : Nat) (gs : List (List (Nat × Nat))) : (readsOf n cls pos gs).flatMap wanted =
    gs.flatten.flatMap fun c => (List.range n).map fun j => (n * c.1 + j, c.2 + j) := by
  rw [readsOf, List.flatMap_map, flatMap_flatten_eq]
  rfl

/-- A byte that is read is a byte of an element that an access moves. -/
theorem mem_wanted_readsOf {n cls pos : Nat} {gs : List (List (Nat × Nat))} {p a : Nat} :
    (p, a) ∈ (readsOf n cls pos gs).flatMap wanted ↔ ∃ c ∈ gs.flatten, ∃ b, b < n ∧ p = n * c.1 + b ∧ a = c.2 + b := by
  simp only [wanted_readsOf, List.mem_flatMap, List.mem_map, List.mem_range, Prod.mk.injEq, eq_comm]

/-- The writes that leave for lists of cells, the empty ones left out. -/
def postedWrites (cls wid pos : Nat) (l : List (List (Nat × Byte))) : List Access :=
  (l.filter fun c => !c.isEmpty).map fun c => Access.write c cls wid pos

theorem post_postedWrites (k : Task) (cls pos : Nat) (l : List (List (Nat × Byte))) :
    k.post cls pos l = { k with stqOut := k.stqOut ++ postedWrites cls k.wid pos l, wid := k.wid + 1 } := rfl

/-- They write all of the cells. -/
theorem cells_postedWrites (cls wid pos : Nat) (l : List (List (Nat × Byte))) :
    (postedWrites cls wid pos l).flatMap Access.cells = l.flatten := by
  induction l with
  | nil => rfl
  | cons c l ih =>
    cases c with
    | nil => exact ih
    | cons d c => exact congrArg ((d :: c) ++ ·) ih

/-- The places at which the elements of an access list that passes its checks start. -/
theorem mem_starts {h : Handle} {perm : Bool} {accs : List Acc} {T : Nat} {byRow : Bool} {act : Nat → Bool} {off : Nat → Int}
    (hmoves : Moves accs T byRow act off) (hf : accFault h perm accs = none) {a : Nat} :
    (a ∈ (eltGroups h T byRow accs).flatMap fun g => g.map fun c => c.2) ↔
      ∃ j, j < elems T ∧ act j = true ∧ a = ((h.base : Int) + off j).toNat := by
  rw [List.flatMap_def, ← List.map_flatten, List.mem_map]
  exact ⟨fun ⟨⟨j, _⟩, hmem, hb⟩ => ⟨j, hb ▸ (mem_eltGroups hmoves hf).mp hmem⟩,
    fun ⟨j, h⟩ => ⟨(j, a), (mem_eltGroups hmoves hf).mpr h, rfl⟩⟩

/-- No store is kept out where no place that it starts at is in a read-only page (R58, R85). -/
theorem keepsOut_none {x : Hd} {n : Nat} {l : List Nat} (h : x.k.fw = true ∨ ∀ a ∈ l, x.s.readOnly a n = false) :
    x.keepsOut n l = none := by
  rw [Hd.keepsOut]
  split
  · rfl
  · next hfw =>
    have hnone : l.find? (fun a => x.s.readOnly a n) = none :=
      List.find?_eq_none.mpr fun a ha => by simp [h.resolve_left hfw a ha]
    rw [hnone]
    rfl

end Sys2Proof.Machine

namespace Sys2Proof.Claims
open Sys2Proof Sys2Proof.Machine

theorem isVectorAccess_runsAtHead {i : Instr} {f : VM} {ld : Bool} {q : Nat} {off : Hd → Nat → Int} (h : IsVectorAccess i f ld q off) :
    ∃ byRow, RunsAtHead i q (accessBody f ld byRow (accesses i)) ∧
      ∀ x : Hd, x.see = x.k → Moves (accesses i x) f.ty.toNat byRow (x.active f.pfx f.mask f.ty.toNat) (off x) := by
  obtain ⟨byRow, hva⟩ := isVectorAccess_runs h
  exact ⟨byRow, ⟨hva.exec, hva.notMma, by cases h <;> rfl⟩, hva.moves⟩

/-! ### Loads (R249, R250) -/

/-- The reads of a vector load. -/
def loadReads (f : VM) (byRow : Bool) (accs : Hd → List Acc) (x : Hd) : List Access :=
  readsOf (width f.ty.toNat / 8) (classOf f.pfx f.cls) x.e.pos (eltGroups x.e.h f.ty.toNat byRow (accs x))

/-- A load that passes its checks sends its reads on their way. -/
theorem loadBody_reads {f : VM} {byRow : Bool} {accs : Hd → List Acc} {x : Hd} {rs : List Access} {k2 : Task}
    (hf : accFault x.e.h x.e.h.r (accs x) = none) (hdev : isDevReg x.e.h.base = false) (hrs : rs = loadReads f byRow accs x)
    (hk2 : k2 = { x.k with ldqOut := x.k.ldqOut ++ rs }) : ∃ l, loadBody f byRow accs x =
      .done { s := (x.s.touchAll x.k.coreKey x.e.h l).setTask x.t k2, busy := !rs.isEmpty } := by
  simp only [loadBody, accCheck_good hf hdev, hk2, hrs]
  exact ⟨_, rfl⟩

/-- The entry of a load that has issued: it holds its unit, and goes on where it has a read. -/
theorem issued_of_reads {k : Task} {i : Instr} {e : Entry} (s : State) (rs : List Access) (hi : e.instr = i) (hmma : i.isMma = false) :
    (({ s := s, busy := !rs.isEmpty } : Eff).keeping k i).issued e = if rs = [] then held k e 0 else reading e [] := by
  cases rs with
  | nil => rw [if_pos rfl, held, hi]; rfl
  | cons a rs => rw [if_neg nofun, keeping_of_busy rfl hmma]; rfl

theorem vectorLoadIssues : VectorLoadIssues := by
  intro i f off s s1 hs k e r vals haccess hhead x act n hf hdev
  obtain ⟨byRow, hruns, hmoves⟩ := isVectorAccess_runsAtHead haccess
  obtain ⟨rs, hrs⟩ : ∃ rs, rs = loadReads f byRow (accesses i) x := ⟨_, rfl⟩
  obtain ⟨k2, hk2⟩ : ∃ k2, k2 = { k with ldqOut := k.ldqOut ++ rs } := ⟨_, rfl⟩
  obtain ⟨l, hbody⟩ : ∃ l, accessBody f true byRow (accesses i) (seen i s s1 k hs e vals) =
    .done { s := (s1.touchAll k.coreKey e.h l).setTask s.cur k2, busy := !rs.isEmpty } := loadBody_reads hf hdev hrs hk2
  have hset : k2.set hs = k.set hs := by rw [hk2]; cases hs <;> rfl
  have hrun := head_issues hruns hhead hbody (k2 := k2) (by rw [task_setTask, if_pos rfl]) (hset ▸ hhead.entry)
  rw [issued_of_reads _ _ hhead.instr hruns.notMma, hset] at hrun
  refine ⟨_, rs, hrun, ?_, ?_, fun a ha => ?_, fun p a => ?_⟩
  · exact warmed_trans (warmed_trans (warmed_touchAll ..) (warmed_setTask ..)) (warmed_setTask ..)
  · rw [tasks_setTask, tasks_setTask, touchAll_tasks, ins_ins, ← hk2]
  · rw [hrs] at ha
    obtain ⟨g, -, rfl⟩ := List.mem_map.mp ha
    exact ⟨_, rfl⟩
  · rw [hrs, loadReads, mem_wanted_readsOf]
    constructor
    · rintro ⟨⟨j, d⟩, hmem, b, hb, hp, ha⟩
      obtain ⟨hj, hact, rfl⟩ := (mem_eltGroups (hmoves x rfl) hf).mp hmem
      exact ⟨j, b, hj, hact, hb, hp, ha⟩
    · rintro ⟨j, b, hj, hact, hb, hp, ha⟩
      exact ⟨(j, _), (mem_eltGroups (hmoves x rfl) hf).mpr ⟨hj, hact, rfl⟩, b, hb, hp, ha⟩

/-! ### Stores (R249, R251) -/

/-- The cells of each group of elements of a vector store. -/
def storeCells (f : VM) (byRow : Bool) (accs : Hd → List Acc) (x : Hd) : List (List (Nat × Byte)) :=
  (eltGroups x.e.h f.ty.toNat byRow (accs x)).map fun g => g.flatMap fun c =>
    cellsAt c.2 (bytesOf (width f.ty.toNat / 8) (x.src f.ty.toNat f.v c.1))

/-- A store that passes its checks sends its writes on their way. -/
theorem storeBody_writes {f : VM} {byRow : Bool} {accs : Hd → List Acc} {x : Hd} {off : Nat → Int} {ws : List Access} {k2 : Task}
    (hws : ws = postedWrites (classOf f.pfx f.cls) x.k.wid x.e.pos (storeCells f byRow accs x))
    (hk2 : k2 = { x.k with stqOut := x.k.stqOut ++ ws, wid := x.k.wid + 1 })
    (hmoves : Moves (accs x) f.ty.toNat byRow (x.active f.pfx f.mask f.ty.toNat) off) (hf : accFault x.e.h x.e.h.w (accs x) = none)
    (hdev : isDevReg x.e.h.base = false)
    (hopen : x.k.fw = true ∨ ∀ j, j < elems f.ty.toNat → x.active f.pfx f.mask f.ty.toNat j = true →
      x.s.readOnly ((x.e.h.base : Int) + off j).toNat (width f.ty.toNat / 8) = false) :
    ∃ l, storeBody f byRow accs x = .done { s := (x.s.touchAll x.k.coreKey x.e.h l).setTask x.t k2 } := by
  have hkeeps : x.keepsOut (width f.ty.toNat / 8) ((eltGroups x.e.h f.ty.toNat byRow (accs x)).flatMap fun g => g.map fun c => c.2) =
      none := by
    refine keepsOut_none (hopen.imp_right fun hro a ha => ?_)
    obtain ⟨j, hj, hact, rfl⟩ := (mem_starts hmoves hf).mp ha
    exact hro j hj hact
  simp only [storeBody, accCheck_good hf hdev, hkeeps, hk2, hws]
  exact ⟨_, rfl⟩

/-- Settles O30: a store that passes its checks hands over the cells of the elements that its accesses move. -/
theorem vectorStores : Obligations.VectorStores := by
  intro i f off s s1 hs k e r vals haccess hhead x act hf hdev hopen
  obtain ⟨byRow, hruns, hmoves⟩ := isVectorAccess_runsAtHead haccess
  obtain ⟨ws, hws⟩ : ∃ ws, ws = postedWrites (classOf f.pfx f.cls) k.wid e.pos (storeCells f byRow (accesses i) x) := ⟨_, rfl⟩
  obtain ⟨k2, hk2⟩ : ∃ k2, k2 = { k with stqOut := k.stqOut ++ ws, wid := k.wid + 1 } := ⟨_, rfl⟩
  obtain ⟨l, hbody⟩ : ∃ l, accessBody f false byRow (accesses i) (seen i s s1 k hs e vals) =
    .done { s := (s1.touchAll k.coreKey e.h l).setTask s.cur k2 } := storeBody_writes hws hk2 (hmoves x rfl) hf hdev hopen
  have hset : k2.set hs = k.set hs := by rw [hk2]; cases hs <;> rfl
  have hrun := head_holds hruns hhead hbody (k2 := k2) (by rw [task_setTask, if_pos rfl]) (hset ▸ hhead.entry)
  rw [hset] at hrun
  have hwarmed := warmed_touchAll s1 k.coreKey e.h l
  refine ⟨_, ws, hrun, warmed_trans (warmed_trans hwarmed (warmed_setTask ..)) (warmed_setTask ..), fun a => ?_, ?_, fun w hw => ?_,
    fun a b => ?_⟩
  · rw [byte_setTask, byte_setTask, byte_congr _ _ (mem_of_warmed hwarmed), hhead.byte_eq]
  · rw [tasks_setTask, tasks_setTask, touchAll_tasks, ins_ins, ← hk2]
  · rw [hws] at hw
    obtain ⟨c, -, rfl⟩ := List.mem_map.mp hw
    exact ⟨c, rfl⟩
  · rw [hws, cells_postedWrites, storeCells, ← List.flatMap_def, ← flatMap_flatten_eq, List.mem_flatMap]
    constructor
    · rintro ⟨⟨j, d⟩, hmem, hcell⟩
      obtain ⟨hj, hact, rfl⟩ := (mem_eltGroups (hmoves x rfl) hf).mp hmem
      exact ⟨j, hj, hact, hcell⟩
    · rintro ⟨j, hj, hact, hcell⟩
      exact ⟨(j, _), (mem_eltGroups (hmoves x rfl) hf).mpr ⟨hj, hact, rfl⟩, hcell⟩

end Sys2Proof.Claims
end

section
/-! SUPPORT. The last read of a vector load: the elements that its bytes make up, and what landing them changes (O29, second part). -/

namespace Sys2Proof.Machine

/-! ### Bytes of elements (R4, R49) -/

theorem width_of_bytes {T : Nat} (h : 8 ≤ width T) : 8 * (width T / 8) = width T := by
  unfold width at *
  split at h <;> first | rfl | omega

/-- Byte c of the low b bytes of a number. -/
theorem byte_of_mod (X : Nat) {b c : Nat} (hc : c < b) : X % 2 ^ (8 * b) / 2 ^ (8 * c) % 2 ^ 8 = X / 2 ^ (8 * c) % 2 ^ 8 := by
  refine Nat.eq_of_testBit_eq fun i => ?_
  simp only [Nat.testBit_mod_two_pow, Nat.testBit_div_two_pow]
  by_cases hi : i < 8
  · simp [hi, show i + 8 * c < 8 * b by omega]
  · simp [hi]

/-- Byte c of element j of a register is byte b j + c of the register. -/
theorem elem_byte (v : VReg) {T b j c : Nat} (hb : 8 * b = width T) (hc : c < b) :
    v.elem 8 (b * j + c) = v.elem (width T) j / 2 ^ (8 * c) % 2 ^ 8 := by
  have hrow : (b * j + c) * 8 / 2048 = j * width T / 2048 := by
    have hsplit : (b * j + c) * 8 / width T = j := by
      rw [← hb, Nat.mul_comm, Nat.mul_div_mul_left _ _ (by decide), Nat.mul_add_div (by omega), Nat.div_eq_of_lt hc, Nat.add_zero]
    rw [row_of_elem, ← width_mul_perRow T, ← Nat.div_div_eq_div_mul, hsplit]
  rw [VReg.elem, VReg.elem, hrow]
  split
  · rw [← hb, byte_of_mod _ hc, Nat.div_div_eq_div_mul, ← pow_add]
    congr 3
    ring
  · simp

theorem wordOfBytes_byte (g : Nat → Byte) {n c : Nat} (hc : c < n) :
    wordOfBytes ((List.range n).map g) / 2 ^ (8 * c) % 2 ^ 8 = (g c).toNat := by
  have hplaced : wordOfBytes ((List.range n).map g) = placed ((List.range n).map fun j => (j, g j)) := by
    rw [wordOfBytes_map_range, placed, List.map_map]
    rfl
  have hnodup : (((List.range n).map fun j => (j, g j)).map fun b => b.1).Nodup := by
    rw [List.map_map]
    exact (List.map_id _).symm ▸ List.nodup_range
  rw [hplaced]
  exact placed_at hnodup (b := (c, g c)) (List.mem_map.mpr ⟨c, List.mem_range.mpr hc, rfl⟩)

/-! ### The elements that bytes read make up (R250) -/

/-- The byte read for place p of a register and its poison; where none was read, a poisoned one. -/
def byteGot (got : List (Nat × Byte × Bool)) (p : Nat) : Byte × Bool :=
  (((entered (fun b => b.2) got (Array.replicate 8192 none))[p]?).join).getD (0, true)

theorem byteGot_of_mem {got : List (Nat × Byte × Bool)} (hgot : (got.map fun g => g.1).Nodup) {p : Nat} {y : Byte × Bool}
    (hp : p < 8192) (h : (p, y) ∈ got) : byteGot got p = y := by
  have hunique : ∀ z, (p, z) ∈ got → z = y := fun z hz =>
    (Prod.mk.inj (List.inj_on_of_nodup_map hgot hz h rfl)).2
  rw [byteGot, getElem?_entered_of_mem h hunique (by rwa [Array.size_replicate])]
  rfl

/-- A byte came without poison where one was read there that has none. -/
theorem byteGot_good {got : List (Nat × Byte × Bool)} (hgot : (got.map fun g => g.1).Nodup) {p : Nat} (hp : p < 8192) :
    (byteGot got p).2 = false ↔ ∃ v, (p, v, false) ∈ got := by
  constructor
  · intro hgood
    by_cases h : ∃ y, (p, y) ∈ got
    · obtain ⟨⟨v, bad⟩, hy⟩ := h
      rw [byteGot_of_mem hgot hp hy] at hgood
      exact ⟨v, hgood ▸ hy⟩
    · rw [byteGot, getElem?_entered_of_not_mem (fun y hy => h ⟨y, hy⟩), Array.getElem?_replicate, if_pos hp] at hgood
      cases hgood
  · rintro ⟨v, hv⟩
    rw [byteGot_of_mem hgot hp hv]

/-- Element e of the table of a load: the word of its bytes, where none of them is poisoned or missing. -/
theorem loadTable_getElem? {T : Nat} (got : List (Nat × Byte × Bool)) {e : Nat} (he : e < elems T) : (loadTable T got)[e]? =
    some (if ∀ c, c < width T / 8 → (byteGot got (width T / 8 * e + c)).2 = false
      then some (wordOfBytes ((List.range (width T / 8)).map fun c => (byteGot got (width T / 8 * e + c)).1), 0) else none) := by
  have hany : (((List.range (width T / 8)).map fun c => byteGot got (width T / 8 * e + c)).any fun b => b.2) = false ↔
      ∀ c, c < width T / 8 → (byteGot got (width T / 8 * e + c)).2 = false := by
    simp [List.any_eq_false]
  refine (tabulate_getElem? ..).trans ((if_pos he).trans (congrArg some ?_))
  by_cases hall : ∀ c, c < width T / 8 → (byteGot got (width T / 8 * e + c)).2 = false
  · rw [if_pos hall]
    refine (if_neg (Bool.eq_false_iff.mp (hany.mpr hall))).trans ?_
    rw [List.map_map]
    rfl
  · rw [if_neg hall]
    exact if_pos (Bool.not_eq_false _ ▸ fun h => hall (hany.mp h))

theorem place_lt {T j c : Nat} (hwidth : 8 ≤ width T) (hj : j < elems T) (hc : c < width T / 8) : width T / 8 * j + c < 8192 := by
  have htotal : 8 * (width T / 8 * elems T) = 8 * 8192 := by
    rw [← Nat.mul_assoc, width_of_bytes hwidth, width_mul_elems]
  calc width T / 8 * j + c < width T / 8 * (j + 1) := by rw [Nat.mul_succ]; omega
    _ ≤ width T / 8 * elems T := Nat.mul_le_mul_left _ hj
    _ = 8192 := by omega

/-- What a load whose bytes are got leaves in its register (R250). -/
def VReg.loaded (v : VReg) (T : Nat) (got : List (Nat × Byte × Bool)) : VReg :=
  v.update T fun e => (((loadTable T got)[e]?).join).map fun r => r.1

section
variable {T : Nat} {got : List (Nat × Byte × Bool)} (hwidth : 8 ≤ width T) (hgot : (got.map fun g => g.1).Nodup) (v : VReg) {j : Nat}
  (hj : j < elems T)
include hwidth hgot hj

/-- An element all of whose bytes came without poison takes them. -/
theorem loaded_whole (h : ∀ c, c < width T / 8 → ∃ x, (width T / 8 * j + c, x, false) ∈ got) {c : Nat} (hc : c < width T / 8)
    {x : Byte} (hx : (width T / 8 * j + c, x, false) ∈ got) : (v.loaded T got).elem 8 (width T / 8 * j + c) = x.toNat := by
  have hall : ∀ c, c < width T / 8 → (byteGot got (width T / 8 * j + c)).2 = false := fun c hc =>
    (byteGot_good hgot (place_lt hwidth hj hc)).mpr (h c hc)
  have hword : (v.loaded T got).elem (width T) j =
      wordOfBytes ((List.range (width T / 8)).map fun c => (byteGot got (width T / 8 * j + c)).1) % 2 ^ (8 * (width T / 8)) := by
    rw [width_of_bytes hwidth, VReg.loaded, elem_update _ _ _ hj, loadTable_getElem? _ hj, if_pos hall]
    rfl
  rw [elem_byte _ (width_of_bytes hwidth) hc, hword, byte_of_mod _ hc, wordOfBytes_byte _ hc,
    byteGot_of_mem hgot (place_lt hwidth hj hc) hx]

/-- Any other element stays. -/
theorem loaded_not_whole (h : ¬∀ c, c < width T / 8 → ∃ x, (width T / 8 * j + c, x, false) ∈ got) :
    (v.loaded T got).elem (width T) j = v.elem (width T) j := by
  have hall : ¬∀ c, c < width T / 8 → (byteGot got (width T / 8 * j + c)).2 = false := fun hall =>
    h fun c hc => (byteGot_good hgot (place_lt hwidth hj hc)).mp (hall c hc)
  rw [VReg.loaded, elem_update _ _ _ hj, loadTable_getElem? _ hj, if_neg hall]
  rfl

end

/-! ### The landing of a vector load (R242, R250) -/

/-- An entry of the LDQ of set hs stands at a position. -/
def Task.readsAt (k : Task) (hs : Bool) (pos : Nat) : Bool := (k.set hs).ldq.issued.any fun x => x.entry.pos == pos

/-- The issued entry at a position stands there, in one set or the other. -/
theorem issuedAt_stands {k : Task} {pos : Nat} {it : Issued} (h : k.issuedAt pos = some it) :
    it.entry.pos = pos ∧ ∃ hs, k.readsAt hs pos = true := by
  have hpos : it.entry.pos = pos := by simpa using List.find?_some h
  have hmem : ∀ hs, it ∈ (k.set hs).ldq.issued → k.readsAt hs pos = true := fun hs hin =>
    List.any_eq_true.mpr ⟨it, hin, by simpa using hpos⟩
  refine ⟨hpos, ?_⟩
  rcases List.mem_append.mp (List.mem_of_find?_eq_some h) with hin | hin
  · exact ⟨false, hmem false hin⟩
  · exact ⟨true, hmem true hin⟩

/-- The context k once the entries at a position have bytes more. -/
def Task.gets (k : Task) (pos : Nat) (l : List (Nat × Byte × Bool)) : Task := k.atPos pos fun i => { i with got := i.got ++ l }

theorem gets_nil (k : Task) (pos : Nat) : k.gets pos [] = k := by
  have hsame (q : QSet) : q.atPos pos (fun i => { i with got := i.got ++ [] }) = q := by
    simp [QSet.atPos]
  simp only [Task.gets, Task.atPos, hsame]

/-- Bytes read for a register are kept in the entry (R250). -/
theorem gotBytes_load {s : State} {t pos : Nat} {k : Task} {l : List (Nat × Byte × Bool)} (hl : ∀ b ∈ l, b.1 < 65536) :
    (s.setTask t k).gotBytes t pos l = s.setTask t (k.gets pos l) := by
  have hfind : find (s.setTask t k).tasks t = some k := by rw [tasks_setTask, find_ins, if_pos rfl]
  have hmine : (l.filter fun b => decide (b.1 < 65536)) = l := List.filter_eq_self.mpr fun b hb => decide_eq_true (hl b hb)
  have hnone : (l.filter fun b => decide (65536 ≤ b.1)) = [] :=
    List.filter_eq_nil_iff.mpr fun b hb => by simpa using hl b hb
  simp only [State.gotBytes, hfind, hmine, hnone, List.map_nil, List.eraseDups_nil, each]
  cases l with
  | nil => rw [gets_nil]; rfl
  | cons b l => exact setTask_setTask ..

section
variable (k : Task) (pos : Nat) (vd : VField) (g : VReg → VReg) (hs : Bool)

theorem lands_late : ((k.lands pos vd g).set hs).ldq.late = (k.set hs).ldq.late := by
  unfold Task.lands
  dsimp only
  split <;> cases hs <;> rfl

theorem readsAt_atPos {f : Issued → Issued} (hf : ∀ i, (f i).entry = i.entry) (p : Nat) :
    (k.atPos pos f).readsAt hs p = k.readsAt hs p := by
  have hany (l : List Issued) : ((l.map fun i => if i.entry.pos = pos then f i else i).any fun x => x.entry.pos == p) =
      l.any fun x => x.entry.pos == p := by
    rw [List.any_map]
    refine congrArg l.any (funext fun i => ?_)
    simp only [Function.comp_apply]
    split <;> simp [hf]
  cases hs <;> exact hany _

theorem readsAt_lands (p : Nat) : (k.lands pos vd g).readsAt hs p = k.readsAt hs p := by
  unfold Task.lands
  dsimp only
  split
  · exact Eq.trans (by cases hs <;> rfl)
      (readsAt_atPos k pos hs (f := fun i => { i with busy := false, olds := [(vd.toNat, k.rv vd.toNat)] }) (fun _ => rfl) p)
  · exact readsAt_atPos k pos hs (f := fun i => { i with busy := false, olds := [] }) (fun _ => rfl) p

end

/-- The fault of a load that has read a poisoned byte (R250, R347). -/
def poisonFault (i : Issued) : FaultRec :=
  { cause := 0x40, addr := i.entry.pc, data := 0, src := 1, await := 0, pos := i.entry.pos }

/-- The queues of a set with a fault of the load at a position. -/
def QSet.hitBy (q : QSet) (pos : Nat) (flt : FaultRec) : QSet :=
  if q.ldq.issued.any fun x => x.entry.pos == pos then { q with ldq := { q.ldq with late := q.ldq.late ++ [flt] } } else q

/-- Landing a load, with its fault where a byte is poisoned. -/
theorem landLoad_eq (k : Task) (i : Issued) (vd : VField) (T : Nat) : k.landLoad i vd T =
    let k1 := k.lands i.entry.pos vd fun v => v.loaded T i.got
    if i.got.any fun b => b.2.2 then
      { k1 with ord := k1.ord.hitBy i.entry.pos (poisonFault i), hnd := k1.hnd.hitBy i.entry.pos (poisonFault i) }
    else k1 := rfl

section
variable (k : Task) (i : Issued) (vd : VField) (T : Nat)

theorem landLoad_ldqOut : (k.landLoad i vd T).ldqOut = k.ldqOut := by
  rw [landLoad_eq]
  dsimp only
  split <;> exact lands_ldqOut ..

theorem landLoad_rv (m : Nat) : (k.landLoad i vd T).rv m =
    if isVReg vd = true ∧ m = vd.toNat then (k.rv m).loaded T i.got else k.rv m := by
  rw [landLoad_eq]
  dsimp only
  split <;> exact lands_rv ..

theorem issued_hitBy (q : QSet) (pos : Nat) (flt : FaultRec) : (q.hitBy pos flt).ldq.issued = q.ldq.issued := by
  unfold QSet.hitBy
  split <;> rfl

theorem late_hitBy (q : QSet) (pos : Nat) (flt : FaultRec) : (q.hitBy pos flt).ldq.late =
    q.ldq.late ++ if (q.ldq.issued.any fun x => x.entry.pos == pos) = true then [flt] else [] := by
  unfold QSet.hitBy
  split
  · rfl
  · exact (List.append_nil _).symm

/-- The entry has done its work. -/
theorem landLoad_issuedAt {it : Issued} (hit : k.issuedAt i.entry.pos = some it) :
    ∃ j, (k.landLoad i vd T).issuedAt i.entry.pos = some j ∧ j.busy = false ∧ j.entry = it.entry := by
  have hlands := lands_issuedAt k i.entry.pos vd (fun v => v.loaded T i.got) hit
  rw [landLoad_eq]
  dsimp only
  split
  · simpa only [Task.issuedAt, issued_hitBy] using hlands
  · exact hlands

/-- The faults that wait in the LDQ of a set (R250, R347). -/
theorem landLoad_late (hs : Bool) : ((k.landLoad i vd T).set hs).ldq.late = (k.set hs).ldq.late ++
    if (i.got.any fun b => b.2.2) = true ∧ k.readsAt hs i.entry.pos = true then [poisonFault i] else [] := by
  rw [landLoad_eq]
  obtain ⟨k1, hk1⟩ : ∃ k1, k1 = k.lands i.entry.pos vd fun v => v.loaded T i.got := ⟨_, rfl⟩
  have hlate : (k1.set hs).ldq.late = (k.set hs).ldq.late := by rw [hk1]; exact lands_late ..
  have hreads : k1.readsAt hs i.entry.pos = k.readsAt hs i.entry.pos := by rw [hk1]; exact readsAt_lands ..
  dsimp only
  rw [← hk1, ← hlate, ← hreads]
  split
  · next hbad =>
    simp only [hbad, true_and]
    refine Eq.trans ?_ (late_hitBy (k1.set hs) i.entry.pos (poisonFault i))
    cases hs <;> rfl
  · next hbad => rw [if_neg fun h => hbad h.1, List.append_nil]

end

/-- A vector load with no read left lands (R242). -/
theorem landEntry_load {s : State} {t pos : Nat} {k : Task} {it : Issued} {f : VM} {i : Instr} {off : Hd → Nat → Int}
    (hload : Claims.IsVectorAccess i f true 0 off) (hi : it.entry.instr = i) (hit : k.issuedAt pos = some it)
    (hlast : ∀ a ∈ k.ldqOut, a.posOf ≠ some pos) :
    (s.setTask t k).landEntry t pos = s.setTask t (k.landLoad it f.v f.ty.toNat) := by
  have hfind : find (s.setTask t k).tasks t = some k := by rw [tasks_setTask, find_ins, if_pos rfl]
  have hnone : (k.ldqOut.any fun a => a.posOf == some pos) = false := by
    rw [List.any_eq_false]
    intro a ha
    simp [hlast a ha]
  simp only [State.landEntry, hfind, hnone, hit, hi, Bool.false_eq_true, if_false]
  cases hload <;> exact setTask_setTask ..

end Sys2Proof.Machine

namespace Sys2Proof.Claims
open Sys2Proof Sys2Proof.Machine

/-- The last read of a vector load: the context lands the bytes that its entry has got with it. -/
theorem exec_lastRead {i : Instr} {f : VM} {off : Hd → Nat → Int} {s : State} {k : Task} {t n pos cls : Nat} {want : List (Nat × Nat)}
    {it : Issued} (hload : IsVectorAccess i f true 0 off) (hi : it.entry.instr = i) (hread : mayRead s t k n want cls pos it)
    (hplace : ∀ w ∈ want, w.1 < 65536) (hlast : ∀ a ∈ dropFences (dropAt k.ldqOut n), a.posOf ≠ some pos) :
    ∃ k2 : Task, k2 = { k with ldqOut := dropFences (dropAt k.ldqOut n), ord := k2.ord, hnd := k2.hnd } ∧
      (∀ hs, (k2.set hs).ldq.late = (k.set hs).ldq.late) ∧
      k2.issuedAt pos = some { it with got := it.got ++ bytesRead s want } ∧
      exec (.accessPerformed t n ⟨1, 0⟩) s =
        .next (s.setTask t (k2.landLoad { it with got := it.got ++ bytesRead s want } f.v f.ty.toNat)) := by
  have hrun := exec_read hread
  obtain ⟨-, -, -, -, hit⟩ := hread
  have hl : ∀ b ∈ bytesRead s want, b.1 < 65536 := by
    intro b hb
    obtain ⟨w, hw, rfl⟩ := List.mem_map.mp hb
    exact hplace w hw
  have hgot : (({ k with ldqOut := dropFences (dropAt k.ldqOut n) } : Task).gets pos (bytesRead s want)).issuedAt pos =
      some { it with got := it.got ++ bytesRead s want } := by
    refine (issuedAt_atPos _ pos (f := fun i => { i with got := i.got ++ bytesRead s want }) fun _ => rfl).trans ?_
    exact congrArg (Option.map _) hit
  refine ⟨_, rfl, fun hs => by cases hs <;> rfl, hgot, hrun.trans ?_⟩
  rw [gotBytes_load hl, landEntry_load (it := { it with got := it.got ++ bytesRead s want }) hload hi hgot hlast]

theorem loadLands : LoadLands := by
  intro i f off s k t n pos cls want it hload hi hread hplace hwidth hlast got b whole hgot
  have hpos := (issuedAt_stands hread.2.2.2.2).1
  obtain ⟨k2, hk2, hlate, hit, hrun⟩ := exec_lastRead hload hi hread hplace hlast
  obtain ⟨it2, hit2⟩ : ∃ it2, it2 = { it with got := it.got ++ bytesRead s want } := ⟨_, rfl⟩
  have hgot2 : it2.got = got := by rw [hit2]; rfl
  have hpos2 : it2.entry.pos = pos := by rw [hit2]; exact hpos
  have hrv (m : Nat) : k2.rv m = k.rv m := by rw [hk2]; rfl
  obtain ⟨-, hs0, hstands⟩ := issuedAt_stands hit
  rw [← hit2] at hrun hit
  have hland : (s.setTask t (k2.landLoad it2 f.v f.ty.toNat)).task t = k2.landLoad it2 f.v f.ty.toNat := by
    rw [task_setTask, if_pos rfl]
  have hfaults (hs : Bool) := landLoad_late k2 it2 f.v f.ty.toNat hs
  simp only [hgot2, hpos2, hlate] at hfaults
  refine ⟨_, hrun, rfl, fun m hm => ?_, ?_, fun hreg j hj => ⟨fun h c v hc hv => ?_, fun h => ?_⟩, fun m hm => ?_, ?_, ?_,
    fun hs fl hfl => ?_⟩
  · rw [tasks_setTask, find_ins, if_neg hm]
  · rw [hland, landLoad_ldqOut, hk2]
  · rw [hland, landLoad_rv, if_pos ⟨hreg, rfl⟩, hgot2]
    exact loaded_whole hwidth hgot _ hj h hc hv
  · rw [hland, landLoad_rv, if_pos ⟨hreg, rfl⟩, hgot2, ← hrv]
    exact loaded_not_whole hwidth hgot _ hj h
  · rw [hland, landLoad_rv, if_neg fun h => hm.elim (· h.2) fun hno => by simp [hno] at h, hrv]
  · obtain ⟨j, hj, hbusy, hentry⟩ := landLoad_issuedAt k2 it2 f.v f.ty.toNat (hpos2.symm ▸ hit)
    rw [hland]
    exact ⟨j, hpos2 ▸ hj, hbusy, hentry.trans (by rw [hit2])⟩
  · simp only [hland, hfaults]
    have hany : (got.any fun b => b.2.2) = true ↔ ∃ g ∈ got, g.2.2 = true := List.any_eq_true
    rw [← hany]
    refine ⟨fun hbad => ⟨hs0, ?_⟩, fun ⟨hs, hne⟩ => by_contra fun hgood => hne ?_⟩
    · rw [if_pos ⟨hbad, hstands⟩]
      simp
    · rw [if_neg fun h => hgood h.1, List.append_nil]
  · rw [hland, hfaults] at hfl
    refine (List.mem_append.mp hfl).imp_right fun hnew => ?_
    split at hnew
    · obtain rfl := List.mem_singleton.mp hnew
      exact ⟨rfl, by rw [hit2]; rfl⟩
    · cases hnew

/-- Settles O29: the reads of a load are those of the elements that its accesses move, and the last of them lands what they brought. -/
theorem vectorLoads : Obligations.VectorLoads := ⟨vectorLoadIssues, loadLands⟩

end Sys2Proof.Claims
end

section
/-! SUPPORT. The completion of issued entries, and the other steps of entries, names and tiles (O42). -/

namespace Sys2Proof.Machine
open Sys2Proof.Claims

/-! ### Token signals (R36) -/

theorem nbr_le (q : Nat) : nbrA q ≤ 2 ∧ nbrB q ≤ 2 ∧ nbrA q ≠ nbrB q := by
  unfold nbrA nbrB
  refine ⟨?_, ?_, ?_⟩ <;> (repeat' split) <;> omega

theorem signal_full (qs : QSet) (a b : Nat) (on : Bool) : (qs.signal a b on).2 = (on && decide (63 ≤ qs.chan a b)) := by
  unfold QSet.signal
  cases on
  · rfl
  · by_cases h : qs.chan a b < 63
    · simp [h, show ¬63 ≤ qs.chan a b by omega]
    · simp [h, show 63 ≤ qs.chan a b by omega]

theorem signal_chan (qs : QSet) (a b c d : Nat) (on : Bool) : (qs.signal a b on).1.chan c d =
    qs.chan c d + if 3 * c + d = 3 * a + b ∧ on = true ∧ qs.chan a b < 63 then 1 else 0 := by
  unfold QSet.signal
  cases on
  · simp
  · by_cases h : qs.chan a b < 63
    · by_cases hkey : 3 * c + d = 3 * a + b
      · have hsame : qs.chan c d = qs.chan a b := by simp only [QSet.chan, hkey]
        simp [h, hkey, hsame]
      · simp [h, hkey]
    · simp [h]

theorem signal_rtq (qs : QSet) (a b : Nat) (on : Bool) : (qs.signal a b on).1.rtq = qs.rtq := by
  unfold QSet.signal
  (repeat' split) <;> rfl

theorem signal_nrq (qs : QSet) (a b : Nat) (on : Bool) : (qs.signal a b on).1.nrq = qs.nrq := by
  unfold QSet.signal
  (repeat' split) <;> rfl

section
variable (qs : QSet) (q : Nat) (tok : BitVec 4)

theorem signals_eq : qs.signals q tok =
    (((qs.signal q (nbrA q) (tok.getLsbD 1)).1.signal q (nbrB q) (tok.getLsbD 3)).1,
      (qs.signal q (nbrA q) (tok.getLsbD 1)).2 || ((qs.signal q (nbrA q) (tok.getLsbD 1)).1.signal q (nbrB q) (tok.getLsbD 3)).2) := rfl

/-- The first signal leaves the channel of the second. -/
theorem signal_first : (qs.signal q (nbrA q) (tok.getLsbD 1)).1.chan q (nbrB q) = qs.chan q (nbrB q) := by
  have hne := (nbr_le q).2.2
  rw [signal_chan, if_neg fun h => hne (by omega), Nat.add_zero]

theorem signals_rtq : (qs.signals q tok).1.rtq = qs.rtq := (signal_rtq ..).trans (signal_rtq ..)
theorem signals_nrq : (qs.signals q tok).1.nrq = qs.nrq := (signal_nrq ..).trans (signal_nrq ..)

end

section
variable (qs : QSet) (i : Issued) (q : Nat)

/-- Both signals of the entry, channel by channel. -/
theorem signals_chan {a b : Nat} (hb : b ≤ 2) : (qs.signals q i.entry.instr.tok).1.chan a b =
    qs.chan a b + if a = q ∧ tokenTo i q b = true ∧ qs.chan q b < 63 then 1 else 0 := by
  obtain ⟨hA, hB, hne⟩ := nbr_le q
  have hkeyA : 3 * a + b = 3 * q + nbrA q ↔ a = q ∧ b = nbrA q := by omega
  have hkeyB : 3 * a + b = 3 * q + nbrB q ↔ a = q ∧ b = nbrB q := by omega
  simp only [signals_eq, signal_chan, hkeyA, hkeyB, Nat.add_assoc]
  refine congrArg (qs.chan a b + ·) ?_
  by_cases haq : a = q
  · by_cases hbA : b = nbrA q
    · simp [haq, hbA, hne, tokenTo]
    · by_cases hbB : b = nbrB q
      · simp [haq, hbB, hne.symm, tokenTo]
      · simp [hbA, hbB, tokenTo]
  · simp [haq]

/-- A signal is lost where a channel that the entry signals holds 63 tokens. -/
theorem signals_full : (qs.signals q i.entry.instr.tok).2 = true ↔ ∃ b, b ≤ 2 ∧ tokenTo i q b = true ∧ 63 ≤ qs.chan q b := by
  obtain ⟨hA, hB, -⟩ := nbr_le q
  simp only [signals_eq, signal_full, signal_first, Bool.or_eq_true, Bool.and_eq_true, decide_eq_true_eq, tokenTo, beq_iff_eq]
  constructor
  · rintro (⟨htok, hfull⟩ | ⟨htok, hfull⟩)
    · exact ⟨_, hA, .inl ⟨rfl, htok⟩, hfull⟩
    · exact ⟨_, hB, .inr ⟨rfl, htok⟩, hfull⟩
  · rintro ⟨b, -, ⟨rfl, htok⟩ | ⟨rfl, htok⟩, hfull⟩
    · exact .inl ⟨htok, hfull⟩
    · exact .inr ⟨htok, hfull⟩

end

/-! ### The queues of a set once their oldest entry has completed (R36, R77, R159, R242) -/

section
variable (qs : QSet) {q : Nat} (i : Issued) (r : List Issued)

/-- Token overflow, found as an entry of queue q completes (R36). -/
def overflowFault (i : Issued) (q : Nat) : FaultRec := headFault i.entry q 0x1B 0

/-- The set with the entry gone from queue q, its signals given; and the fault of one that was lost. -/
def QSet.signalled (qs : QSet) (q : Nat) (i : Issued) (r : List Issued) : QSet :=
  let sig := (qs.setRq q { qs.rq q with issued := r }).signals q i.entry.instr.tok
  if sig.2 then sig.1.setRq q { sig.1.rq q with late := (sig.1.rq q).late ++ [overflowFault i q], halted := true } else sig.1

theorem setRq_rtq (q : Nat) (v : RQ) : (qs.setRq q v).rtq = qs.rtq := by
  unfold QSet.setRq; split <;> rfl

theorem setRq_nrq (q : Nat) (v : RQ) : (qs.setRq q v).nrq = qs.nrq := by
  unfold QSet.setRq; split <;> rfl

theorem signalled_rtq : (qs.signalled q i r).rtq = qs.rtq := by
  unfold QSet.signalled
  dsimp only
  split
  · rw [setRq_rtq, signals_rtq, setRq_rtq]
  · rw [signals_rtq, setRq_rtq]

/-- The push of the entry follows. -/
theorem completed_eq : qs.completed q i r = { qs.signalled q i r with rtq := qs.rtq ++ i.push.toList } := by
  have hform : qs.completed q i r =
      match i.push with
      | some v => { qs.signalled q i r with rtq := (qs.signalled q i r).rtq ++ [v] }
      | none => qs.signalled q i r := rfl
  rw [hform, ← signalled_rtq qs i r (q := q)]
  cases i.push with
  | none => rw [Option.toList_none, List.append_nil]
  | some v => rfl

theorem completed_rtq : (qs.completed q i r).rtq = qs.rtq ++ i.push.toList := by rw [completed_eq]

theorem completed_nrq : (qs.completed q i r).nrq = qs.nrq := by
  rw [completed_eq, QSet.signalled]
  dsimp only
  split
  · rw [setRq_nrq, signals_nrq, setRq_nrq]
  · rw [signals_nrq, setRq_nrq]

theorem completed_chan {a b : Nat} (hb : b ≤ 2) : (qs.completed q i r).chan a b =
    qs.chan a b + if a = q ∧ tokenTo i q b = true ∧ qs.chan q b < 63 then 1 else 0 := by
  have hpush : (qs.completed q i r).chan a b = (qs.signalled q i r).chan a b := by rw [completed_eq]; rfl
  rw [hpush, QSet.signalled]
  dsimp only
  split
  · rw [chan_setRq, signals_chan _ _ _ hb, chan_setRq, chan_setRq]
  · rw [signals_chan _ _ _ hb, chan_setRq, chan_setRq]

theorem completed_rq (p : Nat) : (qs.completed q i r).rq p = (qs.signalled q i r).rq p := by
  rw [completed_eq]
  rfl

/-- Where every channel that the entry signals has room, it only leaves its queue. -/
theorem completed_rq_of_room (h : ∀ b, b ≤ 2 → tokenTo i q b = true → qs.chan q b < 63) :
    (qs.completed q i r).rq q = { qs.rq q with issued := r } := by
  have hroom : ¬((qs.setRq q { qs.rq q with issued := r }).signals q i.entry.instr.tok).2 = true := by
    rw [signals_full]
    rintro ⟨b, hb, htok, hfull⟩
    rw [chan_setRq] at hfull
    exact absurd (h b hb htok) (Nat.not_lt.mpr hfull)
  rw [completed_rq, QSet.signalled]
  dsimp only
  rw [if_neg hroom, rq_signals, rq_setRq]

/-- Where one has none, the queue stops with token overflow. -/
theorem completed_rq_of_full (h : ∃ b, b ≤ 2 ∧ tokenTo i q b = true ∧ 63 ≤ qs.chan q b) : (qs.completed q i r).rq q =
    { qs.rq q with issued := r, halted := true, late := (qs.rq q).late ++ [overflowFault i q] } := by
  have hfull : ((qs.setRq q { qs.rq q with issued := r }).signals q i.entry.instr.tok).2 = true := by
    rw [signals_full]
    simpa only [chan_setRq] using h
  rw [completed_rq, QSet.signalled]
  dsimp only
  rw [if_pos hfull, rq_setRq, rq_signals, rq_setRq]

theorem completed_rq_ne {p : Nat} (hp : p ≤ 2) (hq : q ≤ 2) (h : p ≠ q) : (qs.completed q i r).rq p = qs.rq p := by
  rw [completed_rq, QSet.signalled]
  dsimp only
  split
  · rw [rq_setRq_ne _ _ _ _ hp hq h, rq_signals, rq_setRq_ne _ _ _ _ hp hq h]
  · rw [rq_signals, rq_setRq_ne _ _ _ _ hp hq h]

/-- The entries that are left are those of the set with the entry gone. -/
theorem completed_lists {p : Nat} (hp : p ≤ 2) (hq : q ≤ 2) :
    ((qs.completed q i r).rq p).entries = ((qs.setRq q { qs.rq q with issued := r }).rq p).entries ∧
      ((qs.completed q i r).rq p).issued = ((qs.setRq q { qs.rq q with issued := r }).rq p).issued := by
  rw [completed_rq, QSet.signalled]
  dsimp only
  split
  · by_cases h : p = q
    · subst h
      simp only [rq_setRq, rq_signals, and_self]
    · rw [rq_setRq_ne _ _ _ _ hp hq h, rq_signals]
      exact ⟨rfl, rfl⟩
  · rw [rq_signals]
    exact ⟨rfl, rfl⟩

end

/-- Whether all has completed is read off the entries of the three queues. -/
theorem allDone_congr {a b : QSet} (h : ∀ p, p ≤ 2 → (a.rq p).entries = (b.rq p).entries ∧ (a.rq p).issued = (b.rq p).issued) :
    a.allDone = b.allDone := by
  obtain ⟨hldq, hldi⟩ : a.ldq.entries = b.ldq.entries ∧ a.ldq.issued = b.ldq.issued := h 0 (by decide)
  obtain ⟨hcmq, hcmi⟩ : a.cmq.entries = b.cmq.entries ∧ a.cmq.issued = b.cmq.issued := h 1 (by decide)
  obtain ⟨hstq, hsti⟩ : a.stq.entries = b.stq.entries ∧ a.stq.issued = b.stq.issued := h 2 (by decide)
  simp only [QSet.allDone, hldq, hldi, hcmq, hcmi, hstq, hsti]

/-! ### The completion of an entry (R242) -/

theorem finished_of_worked {s : State} {t : Nat} {k : Task} {i : Issued} (h : worked s t k i) : i.finished s t k = true := by
  obtain ⟨hbusy, hhold, hfills⟩ := h
  simp only [Issued.finished, hbusy, hhold, Bool.not_false, Bool.true_and, List.all_eq_true]
  intro p hp
  simpa only [Bool.not_eq_true', Bool.and_eq_false_imp, Bool.and_eq_true, beq_iff_eq, beq_eq_false_iff_ne, and_imp] using hfills p hp

theorem unparks_none {i : Issued} (h : namesNone i) : i.unparks = none := by
  unfold Issued.unparks
  split
  · next f hf => rw [if_pos (h f hf)]
  · rfl

/-- The context k once the oldest issued entry i of queue q has completed. -/
def Task.completing (k : Task) (hs : Bool) (q : Nat) (i : Issued) (r : List Issued) : Task :=
  { k with fflags := k.fflags ||| i.flags }.withSet hs ((k.set hs).completed q i r)

/-- Whether the task is done then. -/
theorem completing_drains (k : Task) (hs : Bool) {q : Nat} (hq : q ≤ 2) (i : Issued) (r : List Issued) :
    ((k.completing hs q i r).hasEnded && !(k.completing hs q i r).inTrap && (k.completing hs q i r).ord.allDone) =
      drainsNow k hs q r := by
  have hdone : (k.completing hs q i r).ord.allDone =
      (k.withSet hs ((k.set hs).setRq q { (k.set hs).rq q with issued := r })).ord.allDone := by
    cases hs with
    | false => exact allDone_congr fun p hp => completed_lists k.ord i r hp hq
    | true => rfl
  rw [drainsNow, if_pos hq, hdone]
  cases hs <;> rfl

/-- What the completion of an entry does to a state: the name that it unparks is dropped (R233). -/
def State.dropUnparked (s : State) (asc : Nat) (i : Issued) : State := i.unparks.elim s fun nm => s.dropName asc nm

/-- An entry whose work is over completes: it leaves its queue, the name that it unparks is dropped, and a task that has ended may be
done. -/
theorem exec_complete {s : State} {t q : Nat} {hs : Bool} {k : Task} {i : Issued} {r : List Issued} (hk : find s.tasks t = some k)
    (hissued : ((k.set hs).rq q).issued = i :: r) (hworked : worked s t k i) : exec (.entryComplete t q hs) s =
      .next (((s.setTask t (k.completing hs q i r)).dropUnparked (s.ascOf k) i).afterTend t) := by
  have hover := finished_of_worked hworked
  simp only [exec, execEntryComplete, hk, hissued, hover, Bool.not_true, Bool.false_eq_true, if_false, State.dropUnparked]
  cases i.unparks <;> rfl

/-- A task that is not done, or has not ended, stays as it is. -/
theorem afterTend_stays {s : State} {t : Nat} {k : Task} (hk : find s.tasks t = some k)
    (h : (k.hasEnded && !k.inTrap && k.ord.allDone) = false) : s.afterTend t = s := by
  simp only [State.afterTend, hk, h, Bool.false_eq_true, if_false]

/-! ### The names of a task that is done (R172) -/

/-- Context k2 is k as far as the end of its task goes: in its flags, its phase and what its queues hold. -/
structure SameEnd (k k2 : Task) : Prop where
  fflags : k2.fflags = k.fflags
  hasEnded : k2.hasEnded = k.hasEnded
  inTrap : k2.inTrap = k.inTrap
  packet : k2.packet = k.packet
  allDone : k2.ord.allDone = k.ord.allDone
  nrq : k2.ord.nrq = k.ord.nrq

theorem SameEnd.refl (k : Task) : SameEnd k k := ⟨rfl, rfl, rfl, rfl, rfl, rfl⟩

theorem SameEnd.trans {k k2 k3 : Task} (h : SameEnd k k2) (h' : SameEnd k2 k3) : SameEnd k k3 :=
  ⟨h'.1.trans h.1, h'.2.trans h.2, h'.3.trans h.3, h'.4.trans h.4, h'.5.trans h.5, h'.6.trans h.6⟩

/-- Revocation takes handles, and no entry. -/
theorem sameEnd_revTask (p : Handle → Bool) (k : Task) : SameEnd k (revTask p k) := by
  refine ⟨rfl, rfl, rfl, rfl, ?_, rfl⟩
  simp only [QSet.allDone, revTask, revSet, revQueue, List.isEmpty_map]

theorem sameEnd_dropName {s : State} {t : Nat} {k : Task} (hk : find s.tasks t = some k) (asc nm : Nat) :
    ∃ k2, find (s.dropName asc nm).tasks t = some k2 ∧ SameEnd k k2 := by
  rw [State.dropName]
  split
  · rw [find_relinquish, hk]
    exact ⟨_, rfl, sameEnd_revTask ..⟩
  · exact ⟨k, hk, .refl k⟩

/-- A task that is done drops the names of its NRQ, one after the other; where no block begins inside another they are all stale then. -/
theorem afterTend_of_apart {s : State} {t : Nat} {k : Task} (hk : find s.tasks t = some k) (hend : k.hasEnded = true)
    (hin : k.inTrap = false) (hdone : k.ord.allDone = true) (hapart : Apart s) :
    (∀ nm ∈ k.ord.nrq, (s.afterTend t).blockOf (s.ascOf k) nm = none) ∧
      ∃ k2, SameEnd k k2 ∧ (s.afterTend t).task t = { k2 with ord := k2.ord.discarded } := by
  have hdrops := afterTend_drops t hk hend hin hdone rfl
  obtain ⟨k2, hk2, hsame⟩ := each_inv (P := fun u => ∃ k2, find u.tasks t = some k2 ∧ SameEnd k k2)
    (f := fun nm u => State.dropName u (u.packet k.packet).asc nm)
    (fun nm u ⟨k2, hk2, hsame⟩ => (sameEnd_dropName hk2 (u.packet k.packet).asc nm).imp fun _ h => ⟨h.1, hsame.trans h.2⟩)
    k.ord.nrq ⟨k, hk, .refl k⟩
  rw [hdrops]
  refine ⟨fun nm hnm => (dropNames_stale k.packet (s.ascOf k) k.ord.nrq hapart rfl).1 nm (.inl hnm), k2, hsame, ?_⟩
  rw [task_setTask, if_pos rfl, task_of_find _ t k2 hk2]

/-- So is the name that an entry unparks. -/
theorem sameEnd_dropUnparked {s : State} {t : Nat} {k : Task} (hk : find s.tasks t = some k) (hapart : Apart s) (asc : Nat) (i : Issued) :
    Apart (s.dropUnparked asc i) ∧ (s.dropUnparked asc i).lfe = s.lfe ∧ (s.dropUnparked asc i).mem = s.mem ∧
      ∃ k2, find (s.dropUnparked asc i).tasks t = some k2 ∧ SameEnd k k2 := by
  unfold State.dropUnparked
  cases i.unparks with
  | none => exact ⟨hapart, rfl, rfl, k, hk, .refl k⟩
  | some nm => exact ⟨(dropName_stale hapart asc nm).1, dropName_lfe .., (dropName_mem ..).1, sameEnd_dropName hk asc nm⟩

/-! ### The end of a unit's holding (R242, R269) -/

/-- Of the entries that hold a unit, the n-th holds it no more. -/
theorem endHold_split (l : List Issued) {n : Nat} (h : n < (l.filter Issued.mayEnd).length) :
    ∃ a i r, l = a ++ i :: r ∧ i.mayEnd = true ∧ endHold l n = a ++ { i with holding := false } :: r := by
  induction l generalizing n with
  | nil => exact absurd h (Nat.not_lt_zero n)
  | cons i l ih =>
    by_cases hend : i.mayEnd = true
    · cases n with
      | zero => exact ⟨[], i, l, rfl, hend, by simp only [endHold, hend, if_true, List.nil_append]⟩
      | succ n =>
        rw [List.filter_cons_of_pos hend, List.length_cons] at h
        obtain ⟨a, j, r, hl, hj, hends⟩ := ih (Nat.lt_of_succ_lt_succ h)
        exact ⟨i :: a, j, r, by rw [hl]; rfl, hj, by simp only [endHold, hend, if_true, hends, List.cons_append]⟩
    · rw [List.filter_cons_of_neg hend] at h
      obtain ⟨a, j, r, hl, hj, hends⟩ := ih h
      exact ⟨i :: a, j, r, by rw [hl]; rfl, hj, by simp only [endHold, hend, hends, List.cons_append, Bool.false_eq_true, if_false]⟩

theorem mayEnd_iff (i : Issued) : i.mayEnd = true ↔ i.holding = true ∧ (i.busy = true → i.entry.instr.isMma = false) := by
  simp only [Issued.mayEnd, Bool.and_eq_true, Bool.not_eq_true', Bool.and_eq_false_imp]

end Sys2Proof.Machine

namespace Sys2Proof.Claims
open Sys2Proof Sys2Proof.Machine

/-! ### The rows of issued entries, names and tiles -/

section
variable {s : State} {t q : Nat} {hs : Bool} {k : Task} {i : Issued} {r : List Issued}

/-- Where the task is not done, the completion of an entry changes its context alone. -/
theorem exec_complete_stays (hk : find s.tasks t = some k) (hq : q ≤ 2) (hissued : ((k.set hs).rq q).issued = i :: r)
    (hworked : worked s t k i) (hname : namesNone i) (hnot : drainsNow k hs q r = false) :
    exec (.entryComplete t q hs) s = .next (s.setTask t (k.completing hs q i r)) := by
  rw [exec_complete hk hissued hworked, State.dropUnparked, unparks_none hname, Option.elim_none,
    afterTend_stays (k := k.completing hs q i r) (by rw [tasks_setTask, find_ins, if_pos rfl])
      ((completing_drains k hs hq i r).trans hnot)]

/-- The last entry of a task that has ended, where no block begins inside another. -/
theorem lastCompletes_of_apart {i : Issued} (hk : find s.tasks t = some k) (hq : q ≤ 2) (hissued : (k.ord.rq q).issued = [i])
    (hworked : worked s t k i) (hdone : drainsNow k false q [] = true) (hapart : Apart s) :
    ∃ u, exec (.entryComplete t q false) s = .next u ∧ (u.task t).fflags = k.fflags ||| i.flags ∧ (u.task t).ord.allDone = true ∧
      (u.task t).ord.nrq = [] ∧ (u.task t).ord.rtq = [] ∧ (u.task t).ord.tok = [] ∧ (∀ p, (u.task t).ord.ctq p = []) ∧
      (∀ nm ∈ k.ord.nrq, u.blockOf (s.ascOf k) nm = none) ∧ ∀ a, u.byte a = s.byte a := by
  obtain ⟨s1, hs1⟩ : ∃ s1, s1 = s.setTask t (k.completing false q i []) := ⟨_, rfl⟩
  have hfind : find s1.tasks t = some (k.completing false q i []) := by rw [hs1, tasks_setTask, find_ins, if_pos rfl]
  have hrun := exec_complete (hs := false) hk hissued hworked
  rw [← hs1] at hrun
  have hends := (completing_drains k false hq i []).trans hdone
  simp only [Bool.and_eq_true, Bool.not_eq_true'] at hends
  obtain ⟨⟨hend, hin⟩, hall⟩ := hends
  obtain ⟨hapart2, hlfe, hmem, k2, hk2, hsame⟩ := sameEnd_dropUnparked hfind (by rw [hs1]; exact hapart) (s.ascOf k) i
  obtain ⟨hstale, k3, hsame3, htask⟩ := afterTend_of_apart hk2 (hsame.hasEnded.trans hend) (hsame.inTrap.trans hin)
    (hsame.allDone.trans hall) hapart2
  have hsame3 := hsame.trans hsame3
  have hasc : (s1.dropUnparked (s.ascOf k) i).ascOf k2 = s.ascOf k := by
    rw [State.ascOf, packet_congr (congrArg Lfe.packets hlfe) k2.packet, hsame.packet, hs1]
    rfl
  have hnrq : k2.ord.nrq = k.ord.nrq := hsame.nrq.trans (completed_nrq k.ord i [])
  rw [hasc, hnrq] at hstale
  refine ⟨_, hrun, ?_, ?_, ?_, ?_, ?_, fun p => ?_, hstale, fun a => ?_⟩
  · rw [htask]
    exact hsame3.fflags
  · rw [htask]
    exact hsame3.allDone.trans hall
  · rw [htask]; rfl
  · rw [htask]; rfl
  · rw [htask]; rfl
  · rw [htask]
    match p with
    | 0 | 1 | _ + 2 => rfl
  · rw [byte_congr _ _ (afterTend_mem ..).1, byte_congr _ _ hmem, hs1, byte_setTask]

/-- The holding of one of the entries that hold a unit ends. -/
theorem holdingEnds (hk : find s.tasks t = some k)
    (hsome : ∃ i ∈ ((k.set hs).rq q).issued, i.holding = true ∧ (i.busy = true → i.entry.instr.isMma = false)) :
    ∃ u, exec (.unitHoldingEnd t q hs) s = .next u ∧ ∃ (l : List Issued) (i : Issued) (r : List Issued),
      ((k.set hs).rq q).issued = l ++ i :: r ∧ i.holding = true ∧ (i.busy = true → i.entry.instr.isMma = false) ∧
      u = { setRq s t k hs q { (k.set hs).rq q with issued := l ++ { i with holding := false } :: r } with tick := s.tick + 1 } := by
  obtain ⟨i, hi, hmay⟩ := hsome
  have hne : (((k.set hs).rq q).issued.filter Issued.mayEnd).length ≠ 0 := by
    rw [Ne, List.length_eq_zero_iff]
    exact List.ne_nil_of_mem (List.mem_filter.mpr ⟨hi, (mayEnd_iff i).mpr hmay⟩)
  obtain ⟨l, j, r, hl, hj, hends⟩ := endHold_split ((k.set hs).rq q).issued
    (Nat.mod_lt s.draw.1 (Nat.pos_of_ne_zero hne))
  obtain ⟨hhold, hbusy⟩ := (mayEnd_iff j).mp hj
  refine ⟨_, ?_, l, j, r, hl, hhold, hbusy, rfl⟩
  rw [← hends]
  simp only [exec, execUnitHoldingEnd, hk, hne, if_false]
  rfl

/-- A write of the STQ that belongs to a serial number. -/
def writesFor (wid : Nat) : Access → Bool
  | .write _ _ w _ => w == wid
  | _ => false

/-- A name whose block has been written is pushed. -/
theorem namePushed {x : NameOut} {r : List NameOut} (hk : find s.tasks t = some k) (hnames : (k.set hs).names = x :: r)
    (hwritten : ∀ a ∈ k.stqOut, writesFor x.wid a = false) (hnot : drainsNow k hs 3 [] = false) :
    exec (.namePush t hs) s = .next (setT s t (k.withSet hs { k.set hs with names := r, nrq := (k.set hs).nrq ++ [x.name] })) := by
  have hnone : k.stqOut.any (writesFor x.wid) = false := by
    rw [List.any_eq_false]
    exact fun a ha => by simp [hwritten a ha]
  obtain ⟨k2, hk2⟩ : ∃ k2, k2 = k.withSet hs { k.set hs with names := r, nrq := (k.set hs).nrq ++ [x.name] } := ⟨_, rfl⟩
  have hdone : (k2.hasEnded && !k2.inTrap && k2.ord.allDone) = false := by
    rw [← hnot, hk2]
    cases hs <;> rfl
  have hstays : (s.setTask t k2).afterTend t = s.setTask t k2 :=
    afterTend_stays (by rw [tasks_setTask, find_ins, if_pos rfl]) hdone
  rw [← hk2]
  refine Eq.trans ?_ (congrArg Host.Outcome.next hstays)
  rw [hk2]
  simp only [exec, execNamePush, hk, hnames]
  exact if_neg (Bool.eq_false_iff.mp hnone)

/-- A head that has waited for its bound raises queue stall. -/
theorem headStalls {e : Entry} {r : List Entry} (hk : find s.tasks t = some k) (hentries : ((k.set hs).rq q).entries = e :: r)
    (hruns : k.headsRun hs = true) (hopen : ((k.set hs).rq q).open = true) (hbound : ((k.set hs).rq q).bound ≠ 0)
    (hwaited : ((k.set hs).rq q).bound.toNat ≤ ((k.set hs).rq q).stall) : exec (.queueStall t q hs) s =
      .next (setRq s t k hs q { (k.set hs).rq q with fault := some (headFault e q 0x20 ((k.set hs).rq q).await) }) := by
  have hraise : (s.raise t hs q e 0x20 0 ((k.set hs).rq q).await) =
      setRq s t k hs q { (k.set hs).rq q with fault := some (headFault e q 0x20 ((k.set hs).rq q).await) } := by
    rw [State.raise, task_of_find s t k hk]
    rfl
  rw [← hraise]
  simp only [exec, execQueueStall, hk, hentries]
  have hstands : (((k.set hs).rq q).bound != 0) = true := bne_iff_ne.mpr hbound
  exact if_pos (by rw [hruns, hopen, hstands, decide_eq_true hwaited]; rfl)

end

/-- A tile that no read on its way is for is filled. -/
theorem tileFilled {s : State} {c p : Nat} (hfilling : (s.tslot c p).state = .filling)
    (hread : ∀ a ∈ (s.task (s.tslot c p).owner).ldqOut, a.posOf = some (s.tslot c p).filler →
      ∀ w ∈ wanted a, w.1 / 65536 ≠ p + 1) :
    exec (.tileFillComplete c p) s = .next (s.setTslot c p { s.tslot c p with state := .live }) := by
  have hnone : (s.task (s.tslot c p).owner).stillFills p (s.tslot c p).filler = false := by
    rw [Task.stillFills, List.any_eq_false]
    intro a ha hfills
    cases a with
    | read want cls pos =>
      obtain ⟨hpos, hslot⟩ := (Bool.and_eq_true ..).mp hfills
      obtain ⟨w, hw, hplace⟩ := List.any_eq_true.mp hslot
      exact hread _ ha (congrArg some (beq_iff_eq.mp hpos)) w hw (beq_iff_eq.mp hplace)
    | _ => cases hfills
  simp only [exec, execTileFillComplete, hfilling, hnone]
  rfl

/-- Where no block begins inside another, each row of the table of issued entries completes. -/
theorem entryStep_completes_of_apart {i : Instr} {pre : State → Prop} {post : State → State → Prop} {s : State}
    (hrow : EntryStep i pre post) (hpre : pre s) (hapart : Apart s) : ∃ u, exec i s = .next u ∧ post s u := by
  cases hrow with
  | complete t q hs k i r =>
    obtain ⟨hk, hq, hissued, hworked, hname, hroom, hnot⟩ := hpre
    refine ⟨_, exec_complete_stays hk hq hissued hworked hname hnot, (k.set hs).completed q i r, rfl,
      completed_rq_of_room _ i r hroom, fun p hp hne => completed_rq_ne _ i r hp hq hne, completed_rtq .., completed_nrq ..,
      fun a b _ hb => ?_⟩
    rw [completed_chan _ i r hb]
    exact congrArg _ (if_congr (and_congr_right fun _ => and_iff_left_of_imp (hroom b hb)) rfl rfl)
  | overflow t q hs k i r =>
    obtain ⟨hk, hq, hissued, hworked, hname, hfull, hnot⟩ := hpre
    exact ⟨_, exec_complete_stays hk hq hissued hworked hname hnot, (k.set hs).completed q i r, rfl,
      completed_rq_of_full _ i r hfull, fun a b _ hb => completed_chan _ i r hb⟩
  | drained t q k i =>
    obtain ⟨hk, hq, hissued, hworked, hdone⟩ := hpre
    exact lastCompletes_of_apart hk hq hissued hworked hdone hapart
  | holdEnd t q hs k => exact holdingEnds hpre.1 hpre.2
  | stall t q hs k e r =>
    obtain ⟨hk, hentries, hruns, hopen, hbound, hwaited⟩ := hpre
    exact ⟨_, headStalls hk hentries hruns hopen hbound hwaited, rfl⟩
  | name t hs k x r =>
    obtain ⟨hk, hnames, hwritten, hnot⟩ := hpre
    refine ⟨_, namePushed hk hnames (fun a ha => ?_) hnot, rfl⟩
    have hother := hwritten a ha
    cases a with
    | write cells cls w pos => exact beq_eq_false_iff_ne.mpr hother
    | _ => rfl
  | fill c p => exact ⟨_, tileFilled hpre.1 hpre.2, rfl⟩

end Sys2Proof.Claims
end

section
/-! SUPPORT. Units that pass between tasks (O42, second part). -/

namespace Sys2Proof.Claims
open Sys2Proof Sys2Proof.Machine

section
variable {s : State} {c u p claimant : Nat} {k : Task}

theorem not_slotUnit (h : u < 16 ∨ 80 ≤ u) : isSlotUnit u = false := by
  rw [isSlotUnit, Bool.and_eq_false_iff, decide_eq_false_iff_not, decide_eq_false_iff_not]
  omega

theorem slotUnit (hp : p < 64) : isSlotUnit (16 + p) = true := by
  rw [isSlotUnit, Bool.and_eq_true, decide_eq_true_eq, decide_eq_true_eq]
  omega

/-- The units of which a task has saved copies, with unit u among them. -/
theorem mem_savedWith (l : List Nat) (u w : Nat) : w ∈ (if l.contains u then l else u :: l) ↔ w = u ∨ w ∈ l := by
  split
  · next h =>
    have hu : u ∈ l := by simpa using h
    exact ⟨.inr, fun hw => hw.elim (· ▸ hu) id⟩
  · exact List.mem_cons

/-- The unit's contents are saved for its holder, and the unit is the claimant's. -/
theorem unitSaved {v : Nat} (hu : u < 16 ∨ 80 ≤ u)
    (hpass : get Machine.PUnit.empty (s.core c).units u = { holder := some v, pass := .saving claimant })
    (hk : find s.tasks v = some k) (hmatrix : u = 12 → k.inMatrix = false) (hnone : (s.task claimant).saved.contains u = false) :
    exec (.unitSaveComplete c u) s = .next (setT (setUnit s c u { holder := some claimant, pass := .idle }) v
      { k with saved := if k.saved.contains u then k.saved else u :: k.saved }) := by
  have hfree : (decide (u = 12) && k.inMatrix) = false := by
    rw [Bool.and_eq_false_imp, decide_eq_true_eq]
    exact hmatrix
  simp only [exec, execUnitSaveComplete, hpass, not_slotUnit hu, saveUnit, hnone, hk, Bool.false_eq_true, if_false, hfree]
  rfl

/-- The claimant's copy goes back, and the unit is its. -/
theorem unitRestored (hu : u < 16 ∨ 80 ≤ u) (hpass : (get Machine.PUnit.empty (s.core c).units u).pass = .restoring claimant)
    (hk : find s.tasks claimant = some k) : exec (.unitRestoreComplete c u) s =
      .next (setT (setUnit s c u { holder := some claimant, pass := .idle }) claimant
        { k with saved := k.saved.filter fun w => w != u }) := by
  simp only [exec, execUnitRestoreComplete, hpass, not_slotUnit hu, hk, Bool.false_eq_true, if_false]
  rfl

/-- Core c once the tile of slot p has been saved for its owner, whose slot it was (R216, R225). -/
def tileSavedCore (s : State) (c p : Nat) : Core :=
  { s.core c with
    slots := put TSlot.empty (s.core c).slots p (s.tslot c p).emptied
    savedTiles := (s.core c).savedTiles ++ [{ task := (s.tslot c p).owner, slot := p - (s.task (s.tslot c p).owner).partBase,
                                              tile := { s.tslot c p with state := .saved } }]
    units := put Machine.PUnit.empty (s.core c).units (16 + p) Machine.PUnit.empty }

theorem tileSaved (hp : p < 64) (hpass : (get Machine.PUnit.empty (s.core c).units (16 + p)).pass = .saving claimant)
    (hlive : (s.tslot c p).state = .live) (howner : (s.tslot c p).owner ≠ claimant)
    (hno : noReads s (s.tslot c p).owner (p - (s.task (s.tslot c p).owner).partBase)) :
    exec (.unitSaveComplete c (16 + p)) s = .next (s.setCore c (tileSavedCore s c p)) := by
  simp only [exec, execUnitSaveComplete, hpass, slotUnit hp, if_true, Nat.add_sub_cancel_left, saveSlot, flushTile_of_noReads hno, hlive,
    beq_eq_false_iff_ne.mpr howner]
  rfl

/-- Core c once the tile y has gone back to slot p (R216). -/
def tileRestoredCore (s : State) (c p : Nat) (y : SavedTile) : Core :=
  { s.core c with
    slots := put TSlot.empty (s.core c).slots p { y.tile with state := .live, gen := (s.tslot c p).gen }
    savedTiles := []
    units := put Machine.PUnit.empty (s.core c).units (16 + p) Machine.PUnit.empty }

theorem tileRestored {y : SavedTile} (hp : p < 64) (hpass : (get Machine.PUnit.empty (s.core c).units (16 + p)).pass = .restoring claimant)
    (hempty : (s.tslot c p).state = .empty) (hsaved : (s.core c).savedTiles = [y]) (htask : y.task = claimant)
    (hslot : (s.task claimant).partBase + y.slot = p) :
    exec (.unitRestoreComplete c (16 + p)) s = .next (s.setCore c (tileRestoredCore s c p y)) := by
  simp only [exec, execUnitRestoreComplete, hpass, slotUnit hp, if_true, Nat.add_sub_cancel_left, restoreSlot, hsaved, htask, hslot,
    List.find?_cons, List.filter_cons, beq_self_eq_true, Bool.and_self, hempty]
  rfl

end

/-- Each row of the table of units completes. -/
theorem unitsPass : UnitsPass := by
  intro i pre post s hrow hpre
  cases hrow with
  | save c u claimant v k =>
    obtain ⟨hu, hpass, hk, hmatrix, hnone⟩ := hpre
    exact ⟨_, unitSaved hu hpass hk hmatrix hnone, _, rfl, mem_savedWith k.saved u⟩
  | restore c u claimant k =>
    obtain ⟨hu, hpass, hk⟩ := hpre
    exact ⟨_, unitRestored hu hpass hk, _, rfl, fun w => by simp [and_comm]⟩
  | saveTile c p claimant =>
    obtain ⟨hp, hpass, hlive, howner, hno⟩ := hpre
    refine ⟨_, tileSaved hp hpass hlive howner hno, ?_, ?_, ?_, rfl⟩
    · rw [State.tslot, core_setCore, if_pos rfl, tileSavedCore, get_put, if_pos rfl]
      rfl
    · rw [core_setCore, if_pos rfl, tileSavedCore]
    · rw [core_setCore, if_pos rfl, tileSavedCore, get_put, if_pos rfl]
  | restoreTile c p claimant y =>
    obtain ⟨hp, hpass, hempty, hsaved, htask, hslot⟩ := hpre
    refine ⟨_, tileRestored hp hpass hempty hsaved htask hslot, ?_, ?_, ?_, rfl⟩
    · rw [State.tslot, core_setCore, if_pos rfl, tileRestoredCore, get_put, if_pos rfl]
    · rw [core_setCore, if_pos rfl, tileRestoredCore]
    · rw [core_setCore, if_pos rfl, tileRestoredCore, get_put, if_pos rfl]

end Sys2Proof.Claims
end

section
/-! SUPPORT. The last entry after TEND, whose completion makes a stale name of the task a name again (O42). -/

namespace Sys2Proof.Claims
open Sys2Proof Sys2Proof.Machine

/-- An entry of the STQ with nothing left to do: a TWB that its predicate skipped. -/
def lastEntry : Issued :=
  { entry := { instr := .twb plainTunpark, pos := 0, pc := 0, h := Handle.invalid, xa := 0, xb := 0, seed := 0, popped := none },
    holding := false, busy := false, skipped := true, flags := 0, push := none, fills := [], got := [], olds := [], oldm := [] }

/-- A task that has ended, with that entry alone in its queues, and the stale name before that of the large block in its NRQ. -/
def endedHolding : Task :=
  { Task.empty with phase := .ended,
                    ord := { (QSet.empty 1 1 1) with nrq := [staleName, largeName], stq := { (RQ.empty 1) with issued := [lastEntry] } } }

/-- That task on the arena in which a block begins inside another. -/
def drainEnding : State := { overlapping with tasks := [(192, endedHolding)] }

/-- The stale name is dropped first, which does nothing; the end of the large block then gives the unit inside it that name's generation. -/
theorem staleBlockAfter_drainEnding : staleBlockAfter (exec (.entryComplete 192 2 false) drainEnding) = some 4096 := by
  decide +kernel

/-- Refutes O42: its row of the last entry after TEND, in a state where a block begins inside another (no arena that NSTV and the freeing of
blocks leave has one). The names of the NRQ are dropped in order, and one that is stale when its turn comes names a block at the end. Where
no block begins inside another every row of issued entries holds (`entryStep_completes_of_apart`), and the rows of units hold in every state
(`unitsPass`). -/
theorem not_entrySteps : ¬ Obligations.EntrySteps := by
  unfold Obligations.EntrySteps
  rintro ⟨hrows, -⟩
  obtain ⟨u, hu, -, -, -, -, -, -, hnames, -⟩ := hrows _ _ _ drainEnding (.drained 192 2 endedHolding lastEntry)
    ⟨rfl, by decide, rfl, ⟨rfl, rfl, fun p hp => absurd hp List.not_mem_nil⟩, rfl⟩
  have hstale : staleBlockAfter (exec (.entryComplete 192 2 false) drainEnding) = none := by
    rw [hu]
    exact hnames staleName List.mem_cons_self
  exact absurd (staleBlockAfter_drainEnding.symm.trans hstale) nofun

end Sys2Proof.Claims
end

section
/-! SUPPORT. Accumulators and runs of registers, the issue of a head of the matrix unit, and the moves of the accumulators (O39, O40). -/

namespace Sys2Proof.Machine

/-! ### Rows of an accumulator (R205, R265) -/

/-- Bit i of the row mask of a function. -/
theorem getLsbD_maskOf (f : Nat → Bool) {w i : Nat} (hi : i < w) : (BitVec.ofNat w (maskOf f w)).getLsbD i = f i := by
  have hbit := packBits_elem 1 (fun i => (f i).toNat) hi
  rw [← maskOf_eq_packBits, Nat.one_mul, Nat.pow_one] at hbit
  rw [BitVec.getLsbD_ofNat, Nat.testBit_eq_decide_div_mod_eq, hbit, decide_eq_true hi]
  cases f i <;> rfl

section
variable (a : Accum) (act : Nat → Bool) (f : Nat → Nat → Nat) {i j : Nat}

theorem written_setRows (hi : i < 128) : (a.setRows act f).written.getLsbD i = (act i || a.written.getLsbD i) := by
  rw [Accum.setRows, BitVec.getLsbD_or, getLsbD_maskOf act hi, Bool.or_comm]

/-- Element j of row i of rows packed one after the other. -/
theorem packed_row (row : Nat → Nat) (hi : i < 128) (hj : j < 128) :
    (BitVec.ofNat 524288 (packBits 4096 row 128)).toNat / 2 ^ (32 * (128 * i + j)) % 2 ^ 32 = row i % 2 ^ 4096 / 2 ^ (32 * j) % 2 ^ 32 := by
  rw [part_of_ofNat _ (by omega), ← packBits_elem 4096 row hi, part_of_part _ _ (by omega),
    show 4096 * i + 32 * j = 32 * (128 * i + j) by ring]

/-- An element after a write of rows: its new value in a selected row, or what it was. -/
theorem elem_setRows (hi : i < 128) (hj : j < 128) : (a.setRows act f).elem i j = if act i then f i j % 2 ^ 32 else a.elem i j := by
  rw [Accum.elem, written_setRows a act f hi]
  cases hact : act i with
  | true =>
    have hfit := packBits_lt 32 (f i) 128
    rw [show 32 * 128 = 4096 from rfl] at hfit
    simp only [Accum.setRows, packed_row _ hi hj, hact, Bool.true_or, if_true, Nat.mod_eq_of_lt hfit, packBits_elem 32 (f i) hj]
  | false =>
    simp only [Accum.setRows, packed_row _ hi hj, hact, Bool.false_or, Bool.false_eq_true, if_false, Nat.mod_mod, Accum.elem]
    rw [part_of_part _ _ (by omega), show 4096 * i + 32 * j = 32 * (128 * i + j) by ring]

end

/-! ### Runs of registers (R280) -/

/-- Each of n registers from b changes as g says. -/
def Task.overRun (k : Task) (b : Nat) (g : Nat → VReg → VReg) (n : Nat) : Task :=
  each (fun j k => k.wv (b + j) (g j (k.rv (b + j)))) (List.range n) k

theorem overRun_succ (k : Task) (b : Nat) (g : Nat → VReg → VReg) (n : Nat) :
    k.overRun b g (n + 1) = (k.overRun b g n).wv (b + n) (g n ((k.overRun b g n).rv (b + n))) := by
  rw [Task.overRun, List.range_succ, each_append]
  rfl

/-- Only the vector registers change. -/
theorem overRun_v (k : Task) (b : Nat) (g : Nat → VReg → VReg) (n : Nat) : ∃ v, k.overRun b g n = { k with v := v } := by
  induction n with
  | zero => exact ⟨k.v, rfl⟩
  | succ n ih =>
    obtain ⟨v, hv⟩ := ih
    rw [overRun_succ, hv]
    exact ⟨_, rfl⟩

/-- The registers of the run, and the others. -/
theorem overRun_rv (k : Task) (b : Nat) (g : Nat → VReg → VReg) (n q : Nat) :
    (k.overRun b g n).rv q = if b ≤ q ∧ q < b + n then g (q - b) (k.rv q) else k.rv q := by
  induction n generalizing q with
  | zero => exact (if_neg (by omega)).symm
  | succ n ih =>
    rw [overRun_succ, rv_wv]
    by_cases hq : q = b + n
    · subst hq
      rw [if_pos rfl, if_pos (by omega), Nat.add_sub_cancel_left, ih, if_neg (by omega)]
    · rw [if_neg hq, ih]
      exact if_congr (by omega) rfl rfl

/-- A run of results: nothing where the field names no register. -/
theorem setRun_eq (k : Task) (vd : VField) (T n : Nat) (tbl : Array (Option (Nat × BitVec 6))) : k.setRun vd T n tbl =
    if isVReg vd then k.overRun vd.toNat (fun j v => v.update T fun e => ((tbl[elems T * j + e]?).join).map fun r => r.1) n else k :=
  rfl

theorem setRun_v (k : Task) (vd : VField) (T n : Nat) (tbl : Array (Option (Nat × BitVec 6))) :
    ∃ v, k.setRun vd T n tbl = { k with v := v } ∧ (isVReg vd = false → v = k.v) := by
  rw [setRun_eq]
  split
  · next hreg =>
    obtain ⟨v, hv⟩ := overRun_v k vd.toNat (fun j v => v.update T fun e => ((tbl[elems T * j + e]?).join).map fun r => r.1) n
    exact ⟨v, hv, fun hsink => absurd (hreg.symm.trans hsink) nofun⟩
  · exact ⟨k.v, rfl, fun _ => rfl⟩

/-- A register outside the run stays. -/
theorem setRun_other (k : Task) (vd : VField) (T n : Nat) (tbl : Array (Option (Nat × BitVec 6))) {q : Nat}
    (hq : q < vd.toNat ∨ vd.toNat + n ≤ q) : (k.setRun vd T n tbl).rv q = k.rv q := by
  rw [setRun_eq]
  split
  · rw [overRun_rv, if_neg (by omega)]
  · rfl

/-- Element E of a run is element E mod elems T of register E / elems T of it. -/
theorem setRun_elem (k : Task) {vd : VField} {T n E : Nat} (tbl : Array (Option (Nat × BitVec 6))) (hreg : isVReg vd = true)
    (hE : E < n * elems T) : ((k.setRun vd T n tbl).rv (vd.toNat + E / elems T)).elem (width T) (E % elems T) =
      (tbl[E]?).join.elim ((k.rv (vd.toNat + E / elems T)).elem (width T) (E % elems T)) fun r => r.1 % 2 ^ width T := by
  have hpos : 0 < elems T := by
    rw [elems_eq_rows]
    exact Nat.mul_pos (by decide) (perRow_pos T)
  have hlt : E / elems T < n := Nat.div_lt_of_lt_mul (Nat.mul_comm n _ ▸ hE)
  rw [setRun_eq, if_pos hreg, overRun_rv, if_pos ⟨Nat.le_add_right .., Nat.add_lt_add_left hlt _⟩, Nat.add_sub_cancel_left,
    elem_update _ _ _ (Nat.mod_lt _ hpos), Nat.div_add_mod]
  cases (tbl[E]?).join <;> rfl

/-- The elements of an accumulator fill the registers of its run (R280). -/
theorem accRun_mul_elems {T : Nat} (hT : T ≤ 4) : accRun T * elems T = 16384 := by
  interval_cases T <;> rfl

/-! ### The bodies of the accumulator moves (R279, R280) -/

/-- What ACCRD gives for element E of an accumulator: nothing where its row is not active (R280). -/
def accrdElem (f : MX) (x : Hd) (E : Nat) : Option (Nat × BitVec 6) :=
  if x.rows f (E / 128) then
    let p := mulN (valueOf 0 ((x.k.racc f.acc.toNat).elem (E / 128) (E % 128))) (valueOf 0 (x.src 0 f.vb (E / 128)))
    let r := roundTo p.1 f.ty.toNat (modeOf f.pfx) (x.rand (modeOf f.pfx) E)
    some (r.1, p.2 ||| r.2)
  else none

theorem accrdBody_eq (f : MX) (x : Hd) : accrdBody f x = .done
    { s := x.s.setTask x.t (x.k.setRun f.va f.ty.toNat (accRun f.ty.toNat) (tabulate (accrdElem f x) 16384)),
      flags := tableFlags (tabulate (accrdElem f x) 16384) } := rfl

end Sys2Proof.Machine

namespace Sys2Proof.Claims
open Sys2Proof Sys2Proof.Machine

/-! ### Heads of the matrix unit (R240, R269) -/

section
variable {i : Instr} {s s1 : State} {q : Nat} {hs : Bool} {k k2 : Task} {e : Entry} {r : List Entry} {vals : List CtqEntry}
  {body : Hd → Head}

/-- A head whose body does x issues, an MMA whose format entry and tiles are there; an MX entry is then the last to have taken the unit. -/
theorem head_takes {x : Eff} (hexec : ∀ s, exec i s = routed i q body s) (h : AtHead i s q hs k e r vals s1)
    (htried : i.isMma = true → ∃ y, tried body s s.cur k hs e (takenOf i.pfx i.fields vals) = .done y)
    (hbody : body (seen i s s1 k hs e vals) = .done x) (hk2 : x.s.task s.cur = k2) (hentry : ((k2.set hs).rq q).entries = e :: r) :
    exec i s = .next ((x.s.setTask s.cur (k2.withSet hs (issuedSet i (k2.set hs) q e r ((x.keeping k i).issued e)))).tookMatrix
      s.cur k i) := by
  have hrun := headRun_body i body s s1 s.cur k hs q e vals h.operands h.fences h.loads h.format h.alone h.units h.count htried
  rw [seen] at hbody
  rw [hbody] at hrun
  rw [hexec, routed_head i q q hs body s h.turn,
    headIssue_runs i body s q hs k e r vals h.task h.entry h.instr h.runs h.isOpen h.gate, hrun]
  simp only [issueHead_eq _ _ _ _ _ _ _ _ _ _ hk2, rq_takeTokens, ctq_takeTokens, hentry, issuedSet]
  rfl

/-- A head whose body writes the accumulators issues and holds its unit. -/
theorem issues_of_accumulators {acc : Assoc Accum} (hexec : ∀ s, exec i s = routed i q body s) (hmma : i.isMma = false)
    (h : AtHead i s q hs k e r vals s1)
    (hbody : body (seen i s s1 k hs e vals) = .done { s := s1.setTask s.cur { k with acc := acc } }) :
    Issues i s s1 q hs { k with acc := acc } e r (held k e 0) := by
  have htask : (s1.setTask s.cur { k with acc := acc }).task s.cur = { k with acc := acc } := by rw [task_setTask, if_pos rfl]
  have hset : ({ k with acc := acc } : Task).set hs = k.set hs := by cases hs <;> rfl
  have hrun := head_takes hexec h (fun hm => absurd hm (by simp [hmma])) hbody htask (hset ▸ h.entry)
  rw [Issues, hrun, setTask_setTask, held, h.instr]
  rfl

end

/-! ### ACCZ, ACCLD, ACCRD (R279, R280) -/

section
variable {f : MX} {s s1 : State} {hs : Bool} {k : Task} {e : Entry} {r : List Entry} {vals : List CtqEntry}

theorem accz_issues (h : AtHead (.accz f) s 1 hs k e r vals s1) : Issues (.accz f) s s1 1 hs (k.wacc f.acc.toNat
    ((k.racc f.acc.toNat).setRows ((seen (.accz f) s s1 k hs e vals).rows f) fun _ _ => 0)) e r (held k e 0) :=
  issues_of_accumulators (body := acczBody f) (fun _ => rfl) rfl h rfl

/-- The bits that ACCLD gives to element j of row i: the source's value, rounded to f32 (R280). -/
def accldVal (f : MX) (x : Hd) (i j : Nat) : Nat :=
  (roundTo (valueOf f.ty.toNat (runSrc x f.ty.toNat f.va (128 * i + j))) 0 Mode.default 0).1

theorem accld_issues (h : AtHead (.accld f) s 1 hs k e r vals s1) : Issues (.accld f) s s1 1 hs (k.wacc f.acc.toNat
    ((k.racc f.acc.toNat).setRows ((seen (.accld f) s s1 k hs e vals).rows f) (accldVal f (seen (.accld f) s s1 k hs e vals)))) e r
    (held k e 0) :=
  issues_of_accumulators (body := accldBody f) (fun _ => rfl) rfl h rfl

/-- An element of the destination run of ACCRD. -/
theorem accrd_elem (x : Hd) (hT : f.ty.toNat ≤ 4) (hreg : isVReg f.va = true) {i j : Nat} (hi : i < 128) (hj : j < 128) :
    let n := f.va.toNat + (128 * i + j) / elems f.ty.toNat
    ((x.k.setRun f.va f.ty.toNat (accRun f.ty.toNat) (tabulate (accrdElem f x) 16384)).rv n).elem (width f.ty.toNat)
        ((128 * i + j) % elems f.ty.toNat) =
      if x.rows f i then (roundTo (mulN (valueOf 0 ((x.k.racc f.acc.toNat).elem i j)) (valueOf 0 (x.src 0 f.vb i))).1 f.ty.toNat
        (modeOf f.pfx) (x.rand (modeOf f.pfx) (128 * i + j))).1 % 2 ^ width f.ty.toNat
      else (x.k.rv n).elem (width f.ty.toNat) ((128 * i + j) % elems f.ty.toNat) := by
  have hE : 128 * i + j < 16384 := by omega
  have hrow : (128 * i + j) / 128 = i := by omega
  have hcol : (128 * i + j) % 128 = j := by omega
  intro n
  rw [setRun_elem x.k _ hreg (by rwa [accRun_mul_elems hT]), tabulate_getElem?, if_pos hE, accrdElem, hrow, hcol]
  cases x.rows f i <;> rfl

end

/-- Settles O39: the accumulator that ACCZ leaves is its old one with the active rows written with +0. -/
theorem accumulatorClear : Obligations.AccumulatorClear := by
  refine ⟨fun f s s1 hs k e r vals hhead => ?_, decodeWords_of_encode rfl rfl rfl rfl⟩
  exact ⟨_, accz_issues hhead, fun i hi => written_setRows _ _ _ hi, fun i j hi hj => elem_setRows _ _ _ hi hj⟩

/-- Settles O40: ACCLD writes the active rows of an accumulator, ACCRD a run of registers from them. -/
theorem accumulatorMoves : Obligations.AccumulatorMoves := by
  intro f s s1 hs k e r vals
  refine ⟨fun hhead => ⟨_, accld_issues hhead, fun i j hi hj => elem_setRows _ _ _ hi hj⟩, ?_⟩
  intro hhead hT x
  obtain ⟨v, hv, hsink⟩ := setRun_v k f.va f.ty.toNat (accRun f.ty.toNat) (tabulate (accrdElem f x) 16384)
  have hbody : accrdBody f x = .done { s := s1.setTask s.cur (withV k v), flags := tableFlags (tabulate (accrdElem f x) 16384) } := by
    rw [accrdBody_eq, withV, ← hv]
    rfl
  refine ⟨v, _, issues_of_registers (fun _ => rfl) rfl hhead hbody, hsink, fun n hn => ?_, fun hreg i j hi hj => ?_⟩
  · show (withV k v).rv n = k.rv n
    rw [withV, ← hv]
    exact setRun_other k _ _ _ _ hn
  · show ((withV k v).rv _).elem _ _ = _
    rw [withV, ← hv]
    exact accrd_elem x hT hreg hi hj

end Sys2Proof.Claims
end

section
/-! SUPPORT. The issue of an MMA, and its groups one after the other (O38, first part). -/

namespace Sys2Proof.Machine

/-! ### Claims of units leave the tiles (R358) -/

/-- A claim changes the core's table of units at most. -/
theorem claim_eq_setCore (s : State) (t : Nat) (k : Task) (u : Nat) : (s.claim t k u).2 = s ∨
    ∃ us, (s.claim t k u).2 = s.setCore k.coreKey { s.core k.coreKey with units := us } := by
  unfold State.claim
  dsimp only
  split
  · exact .inl rfl
  · split
    · split
      · exact .inr ⟨_, rfl⟩
      · exact .inr ⟨_, rfl⟩
    · split
      · split
        · exact .inr ⟨_, rfl⟩
        · exact .inl rfl
      · exact .inr ⟨_, rfl⟩

theorem claim_tiles (s : State) (t : Nat) (k : Task) (u c : Nat) : ((s.claim t k u).2.core c).slots = (s.core c).slots ∧
    ((s.claim t k u).2.core c).savedTiles = (s.core c).savedTiles := by
  obtain hs | ⟨us, hs⟩ := claim_eq_setCore s t k u <;> rw [hs]
  · exact ⟨rfl, rfl⟩
  · rw [core_setCore]
    split
    · next hc => rw [hc]; exact ⟨rfl, rfl⟩
    · exact ⟨rfl, rfl⟩

theorem claims_tiles (s : State) (t : Nat) (k : Task) (l : List Nat) (c : Nat) : ((s.claims t k l).2.core c).slots = (s.core c).slots ∧
    ((s.claims t k l).2.core c).savedTiles = (s.core c).savedTiles := by
  induction l generalizing s with
  | nil => exact ⟨rfl, rfl⟩
  | cons u l ih =>
    obtain ⟨hslots, hsaved⟩ := claim_tiles s t k u c
    obtain ⟨hslots', hsaved'⟩ := ih (s.claim t k u).2
    exact ⟨hslots'.trans hslots, hsaved'.trans hsaved⟩

/-- A value found in a table is an element of it. -/
theorem mem_of_find {α : Type} {l : Assoc α} {n : Nat} {v : α} (h : find l n = some v) : (n, v) ∈ l := by
  induction l with
  | nil => cases h
  | cons p r ih =>
    obtain ⟨m, w⟩ := p
    rw [find] at h
    split at h
    · next hm =>
      cases h
      rw [hm]
      exact List.mem_cons_self
    · exact List.mem_cons_of_mem _ (ih h)

/-! ### MMAs that have ended (R217, R270) -/

/-- The only issued entry of the CMQ goes on no more. -/
theorem mmaReads_of_idle {k : Task} {it : Issued} (hone : k.ord.cmq.issued = [it]) (hidle : it.busy = false) (n : Nat) :
    k.mmaReads n = false := by
  simp [Task.mmaReads, hone, hidle]

/-- No MMA reads the tile of a context that runs none. -/
theorem mmaOn_of_idle {s : State} {t c p : Nat} {k : Task} (hk : find s.tasks t = some k) (hidle : ∀ n, k.mmaReads n = false)
    (howner : (s.tslot c p).state ≠ .empty → (s.tslot c p).owner = t) : s.mmaOn c p = false := by
  by_cases hstate : (s.tslot c p).state = .empty
  · simp [State.mmaOn, hstate]
  · simp [State.mmaOn, howner hstate, hk, hidle]

/-- The end of an MMA's read changes the physical slot of its tile at most. -/
theorem consumeSlot_eq_setTslot {s : State} {t n : Nat} (hno : Claims.noReads s t n) (k : Task) (c : Bool) :
    s.consumeSlot t k n c = s ∨ ∃ x, s.consumeSlot t k n c = s.setTslot k.coreKey (k.phys n) x := by
  simp only [State.consumeSlot, Claims.flushTile_of_noReads hno]
  split
  · split
    · exact .inr ⟨_, rfl⟩
    · exact .inr ⟨_, rfl⟩
  · exact .inl rfl

section
variable {s : State} {t n : Nat} {k : Task} {c : Bool} (hno : Claims.noReads s t n)
include hno

theorem consumeSlot_frame : ∃ cs, s.consumeSlot t k n c = { s with cores := cs } := by
  obtain h | ⟨x, h⟩ := consumeSlot_eq_setTslot hno k c
  · exact ⟨s.cores, h⟩
  · exact ⟨_, h⟩

theorem consumeSlot_tasks : (s.consumeSlot t k n c).tasks = s.tasks := by
  obtain ⟨cs, h⟩ := consumeSlot_frame (k := k) (c := c) hno
  rw [h]

theorem consumeSlot_savedTiles (d : Nat) : ((s.consumeSlot t k n c).core d).savedTiles = (s.core d).savedTiles := by
  obtain h | ⟨x, h⟩ := consumeSlot_eq_setTslot hno k c
  · rw [h]
  · rw [h, State.setTslot, core_setCore]
    split
    · next hd => rw [hd]
    · rfl

/-- Another physical slot of the core keeps its tile. -/
theorem consumeSlot_other {p : Nat} (hp : p ≠ k.phys n) : (s.consumeSlot t k n c).tslot k.coreKey p = s.tslot k.coreKey p := by
  obtain h | ⟨x, h⟩ := consumeSlot_eq_setTslot hno k c
  · rw [h]
  · rw [h, tslot_setTslot, if_neg hp]

/-- The slot of a consuming read whose task runs no MMA any more: the share is 1 less, and without a share the slot is EMPTY. -/
theorem consumeSlot_counts {tl : TSlot} (hk : find s.tasks t = some k) (hidle : ∀ n, k.mmaReads n = false)
    (hview : s.view t k n = .tile tl) : (s.consumeSlot t k n true).tslot k.coreKey (k.phys n) =
      tl.withShares (setShare tl.shares t (shareOf tl.shares t - 1)) := by
  obtain ⟨hslot, -, howner⟩ := view_tile hview
  have hmma : s.mmaOn k.coreKey (k.phys n) = false := mmaOn_of_idle hk hidle fun _ => by rw [Task.phys, hslot, howner]
  simp only [State.consumeSlot, Claims.flushTile_of_noReads hno, hview, if_true, State.consume, State.setShares, hmma,
    Bool.false_eq_true, if_false, tslot_setTslot_self]

/-- The end of two reads. -/
theorem consumeTwo_frame {m : Nat} {d : Bool} (hno' : Claims.noReads s t m) :
    ∃ cs, (s.consumeSlot t k n c).consumeSlot t k m d = { s with cores := cs } := by
  obtain ⟨cs, h⟩ := consumeSlot_frame (k := k) (c := c) hno
  obtain ⟨ds, h'⟩ := consumeSlot_frame (s := s.consumeSlot t k n c) (k := k) (c := d)
    (Claims.noReads_congr (consumeSlot_tasks hno) hno')
  exact ⟨ds, h'.trans (by rw [h])⟩

end

/-! ### A group of an MMA (R270) -/

/-- The context k after a group g of the MMA m, its issued entry it: the accumulator, the flags, and the next group if there is one. -/
def Task.afterGroup (k : Task) (m : MmaRun) (it : Issued) (g : Accum × BitVec 6) (last : Bool) : Task :=
  { k.wacc m.acc g.1 with
    ord := { k.ord with cmq := { k.ord.cmq with issued := [{ it with flags := it.flags ||| g.2, busy := !last }] } },
    mma := if last then none else some { m with next := m.next + 1 } }

theorem racc_afterGroup (k : Task) (m : MmaRun) (it : Issued) (g : Accum × BitVec 6) (last : Bool) (n : Nat) :
    (k.afterGroup m it g last).racc n = if n = m.acc then g.1 else k.racc n := get_put ..

/-- The state after the group: a last group counts the reads of the tiles. -/
def State.afterGroup (s : State) (f : MX) (k1 : Task) (last : Bool) : State :=
  if last then ((s.setTask s.cur k1).consumeSlot s.cur k1 f.ta.toNat (f.ac == 1)).consumeSlot s.cur k1 f.tb.toNat (f.bc == 1)
  else s.setTask s.cur k1

/-- The block scales of an MMA that no other queue is writing are seen as they stand (R243). -/
theorem seen_of_alone {k : Task} {hs : Bool} {q : Nat} {uses : List Nat} (s : State)
    (h : racing ((k.set hs).others q) uses = ([], [])) : s.seen k hs q uses = (k, s) := by
  simp only [State.seen, h]
  rfl

/-- A running MMA that holds the unit takes a group. -/
theorem mmaMicroStep_runs {s : State} {k : Task} {f : MX} {m : MmaRun} {it : Issued} (hk : find s.tasks s.cur = some k)
    (hmma : k.mma = some m) (hgoes : m.stopped = false) (hheld : m.held = true)
    (halone : racing (k.ord.others 1) ((Instr.mma f).blockScales m.desc) = ([], [])) (hphase : k.phase = .running)
    (htrap : k.inTrap = false) (hone : k.ord.cmq.issued = [it]) (hbusy : it.busy = true) (hinstr : it.entry.instr = .mma f) :
    exec .mmaMicroStep s = .next (s.afterGroup f (k.afterGroup m it
      (microStep k f m (s.tileData s.cur k f.ta.toNat) (s.tileData s.cur k f.tb.toNat)) (decide (microSteps m ≤ m.next + 1)))
      (decide (microSteps m ≤ m.next + 1))) := by
  have htask : s.task s.cur = k := task_of_find s s.cur k hk
  have hruns : k.headsRun false = true := by simp [Task.headsRun, htrap, hphase]
  have hseen := seen_of_alone (hs := false) s halone
  have hfind : ([it].find? fun i => i.busy) = some it := by simp [hbusy]
  have hstep (fl : BitVec 6) (last : Bool) : it.stepped fl last = { it with flags := it.flags ||| fl, busy := !last } := if_pos hbusy
  have hrun : ({ m with next := m.next + 1, stopped := false, held := true } : MmaRun) = { m with next := m.next + 1 } := by
    rw [← hgoes, ← hheld]
  show execMmaMicroStep s = _
  unfold execMmaMicroStep
  conv_lhs => zeta
  rw [htask, hmma, hone, hfind]
  split
  · next m' it' hm hit =>
    cases hm
    cases hit
    split
    · next f' hf =>
      obtain rfl : f = f' := by simpa [hinstr] using hf
      rw [if_neg (by simp [hgoes]), if_neg (by simp [hheld]), hinstr, hseen]
      split
      next kv s0 hpair =>
      cases hpair
      split
      next acc fl hgroup =>
      rw [hgroup, hruns]
      simp only [List.map_cons, List.map_nil, hstep, Bool.not_true, Bool.not_false, hrun]
      rfl
    · next hne => exact absurd hinstr (hne f)
  · next hne => exact absurd rfl (hne m it rfl)

end Sys2Proof.Machine

namespace Sys2Proof.Claims
open Sys2Proof Sys2Proof.Machine

/-- Reads on their way stay those of a context that is replaced by one with the same. -/
theorem noReads_setTask {s : State} {t c n : Nat} {k k2 : Task} (hk : find s.tasks c = some k) (hout : k2.ldqOut = k.ldqOut)
    (hno : noReads s t n) : noReads (s.setTask c k2) t n := by
  intro p hp a ha
  rcases mem_ins hp with rfl | hp
  · exact hno (c, k) (mem_of_find hk) a (hout ▸ ha)
  · exact hno p hp a ha

/-! ### The issue of an MMA (R266, R268, R278) -/

section
variable {f : MX} {s s1 : State} {hs : Bool} {k : Task} {e : Entry} {r : List Entry} {vals : List CtqEntry} {a b : TSlot}
  {desc : BitVec 10} {band : W64} {fr : List (BitVec 10 × W64)}

/-- The run that an MMA at its head begins. -/
def startedRun (f : MX) (x : Hd) (desc : BitVec 10) (band : W64) : MmaRun :=
  { acc := f.acc.toNat, next := 0, rows := BitVec.ofNat 128 (maskOf (x.rows f) 128), desc := desc, band := band, stopped := false,
    held := true }

/-- The state in which one more MMA has run on the core of context k (R272). -/
def countedMma (s : State) (k : Task) : State :=
  s.setCore k.coreKey { s.core k.coreKey with mmas := (s.core k.coreKey).mmas + 1 }

theorem mmas_countedMma (s : State) (k : Task) : ((countedMma s k).core k.coreKey).mmas = (s.core k.coreKey).mmas + 1 := by
  rw [countedMma, core_setCore, if_pos rfl]

theorem mmas_tookMatrix (s : State) (t : Nat) (k : Task) (i : Instr) (c : Nat) :
    ((s.tookMatrix t k i).core c).mmas = (s.core c).mmas := by
  unfold State.tookMatrix
  split
  · rw [core_setCore]
    split
    · next hc => rw [hc]
    · rfl
  · rfl

theorem noReads_of_readable {t n : Nat} {c : BitVec 1} {tl : TSlot} (h : readable s t k n c tl) : noReads s t n := by
  obtain ⟨-, -, -, -, -, -, hno⟩ := h
  exact hno

/-- An MMA with a format entry and readable tiles begins its run. -/
theorem mmaBody_starts {x : Hd} (hk : x.s.task x.t = x.k) (hfmt : x.k.fmtq = (desc, band) :: fr)
    (ha : readable x.s x.t x.k f.ta.toNat f.ac a) (hb : readable x.s x.t x.k f.tb.toNat f.bc b) : mmaBody f x = .done
      { s := (countedMma x.s x.k).setTask x.t { x.k with fmtq := fr, mma := some (startedRun f x desc band) }, busy := true } := by
  have hflush {n : Nat} (hno : noReads x.s x.t n) : x.flushed x.t n = x := by
    simp only [Hd.flushed, flushTile_of_noReads hno, hk]
  simp only [mmaBody, hflush (noReads_of_readable ha), hflush (noReads_of_readable hb), readTile_of_readableBy ha,
    readTile_of_readableBy hb, hfmt]
  rfl

/-- Claims of units leave a tile readable. -/
theorem AtHead.readable_before {i : Instr} {q n : Nat} {c : BitVec 1} {tl : TSlot} (h : AtHead i s q hs k e r vals s1)
    (hread : readable s1 s.cur k n c tl) : readable s s.cur k n c tl := by
  have hs1 : (s.claims s.cur k (i.units k)).2 = s1 := by rw [h.units]
  obtain ⟨hslots, hsaved⟩ := claims_tiles s s.cur k (i.units k) k.coreKey
  rw [hs1] at hslots hsaved
  obtain ⟨hview, hlive, hgood, hsum, hother, hown, hno⟩ := hread
  rw [view_congr hsaved (tslot_congr hslots _)] at hview
  exact ⟨hview, hlive, hgood, hsum, hother, hown, noReads_congr h.tasks_eq.symm hno⟩

/-- The clause of O38 on the issue. -/
theorem mmaIssues : MmaIssues := by
  intro f s s1 hs k e r vals a b desc band fr hhead hfmt ha hb
  let run := startedRun f (seen (.mma f) s s1 k hs e vals) desc band
  let k2 : Task := { k with fmtq := fr, mma := some run }
  have htried := mmaBody_starts (x := { seen (.mma f) s s1 k hs e vals with s := s }) (task_of_find s s.cur k hhead.task) hfmt
    (hhead.readable_before ha) (hhead.readable_before hb)
  have hbody := mmaBody_starts (x := seen (.mma f) s s1 k hs e vals) hhead.task_eq hfmt ha hb
  have hset : k2.set hs = k.set hs := by cases hs <;> rfl
  have hrun := head_takes (k2 := k2) (body := mmaBody f) (fun _ => rfl) hhead (fun _ => ⟨_, htried⟩) hbody
    (by rw [task_setTask]; exact if_pos rfl) (hset ▸ hhead.entry)
  refine ⟨_, run, hrun, ?_, rfl, rfl, rfl, rfl, rfl, rfl, fun i hi => ?_, rfl, ?_⟩
  · rw [← hset, held, hhead.instr]
    exact ins_ins s1.tasks s.cur k2 _
  · rw [show run.rows.getLsbD i = (seen (.mma f) s s1 k hs e vals).rows f i from getLsbD_maskOf _ hi, Hd.rows, decide_eq_true hi]
    rfl
  · rw [mmas_tookMatrix]
    exact mmas_countedMma s1 k

end

/-! ### The tiles after the last group (R217, R270) -/

/-- A tile whose shares change is EMPTY or its owner's still. -/
theorem owner_withShares {x : TSlot} {l : List (Nat × Nat)} (h : (x.withShares l).state ≠ .empty) :
    (x.withShares l).owner = x.owner := by
  unfold TSlot.withShares at h ⊢
  split
  · next hsum => exact absurd (by rw [if_pos hsum]; rfl) h
  · rfl

/-- A tile whose share has been counted down, of a context that runs no MMA more (R217, R218). -/
theorem consumed_of_idle {s : State} {c p t : Nat} {k : Task} {tl : TSlot} (hk : find s.tasks t = some k)
    (hidle : ∀ n, k.mmaReads n = false) (howner : tl.owner = t)
    (hslot : s.tslot c p = tl.withShares (setShare tl.shares t (shareOf tl.shares t - 1))) : s.tslot c p = consumed s c p tl t := by
  have hmma : s.mmaOn c p = false := mmaOn_of_idle hk hidle fun h => by
    rw [hslot] at h ⊢
    rw [owner_withShares h, howner]
  rw [hslot]
  simp only [consumed, hmma, true_and]
  rfl

section
variable {s : State} {t m n : Nat} {k : Task} {c d : Bool} {tl : TSlot} (hk : find s.tasks t = some k)
  (hidle : ∀ n, k.mmaReads n = false) (hm : noReads s t m) (hn : noReads s t n) (hne : m ≠ n)
include hk hidle hm hn hne

/-- The tile of the read that ends first. -/
theorem consumed_first (hview : s.view t k m = .tile tl) (hc : c = true) :
    ((s.consumeSlot t k m c).consumeSlot t k n d).tslot k.coreKey (k.phys m) =
      consumed ((s.consumeSlot t k m c).consumeSlot t k n d) k.coreKey (k.phys m) tl t := by
  have hn' : noReads (s.consumeSlot t k m c) t n := noReads_congr (consumeSlot_tasks hm) hn
  obtain ⟨-, -, howner⟩ := view_tile hview
  refine consumed_of_idle (k := k) (by rw [consumeSlot_tasks hn', consumeSlot_tasks hm, hk]) hidle howner ?_
  rw [consumeSlot_other hn' (p := k.phys m) fun h => hne (Nat.add_left_cancel h), hc, consumeSlot_counts hm hk hidle hview]

/-- The tile of the read that ends second. -/
theorem consumed_second (hview : s.view t k n = .tile tl) (hd : d = true) :
    ((s.consumeSlot t k m c).consumeSlot t k n d).tslot k.coreKey (k.phys n) =
      consumed ((s.consumeSlot t k m c).consumeSlot t k n d) k.coreKey (k.phys n) tl t := by
  have hn' : noReads (s.consumeSlot t k m c) t n := noReads_congr (consumeSlot_tasks hm) hn
  have hk' : find (s.consumeSlot t k m c).tasks t = some k := by rw [consumeSlot_tasks hm, hk]
  have hview' : (s.consumeSlot t k m c).view t k n = .tile tl := by
    rw [view_congr (consumeSlot_savedTiles hm _) (consumeSlot_other hm (p := k.phys n) fun h => hne (Nat.add_left_cancel h).symm), hview]
  obtain ⟨-, -, howner⟩ := view_tile hview
  refine consumed_of_idle (k := k) (by rw [consumeSlot_tasks hn', hk']) hidle howner ?_
  rw [hd, consumeSlot_counts hn' hk' hidle hview']

end

/-! ### A group of an MMA (R270) -/

/-- An entry that goes on after a group changes its flags alone. -/
theorem goesOn {it : Issued} (hbusy : it.busy = true) (fl : BitVec 6) :
    ({ it with flags := fl, busy := true } : Issued) = { it with flags := fl } := by
  rw [← hbusy]

section
variable {s : State} {f : MX} {k1 : Task} (hnoA : noReads (s.setTask s.cur k1) s.cur f.ta.toNat)
  (hnoB : noReads (s.setTask s.cur k1) s.cur f.tb.toNat) (last : Bool)
include hnoA hnoB

/-- Beside its context, a group changes the cores alone. -/
theorem afterGroup_frame : ∃ cs, s.afterGroup f k1 last = { s.setTask s.cur k1 with cores := cs } := by
  cases last with
  | true => exact consumeTwo_frame hnoA hnoB
  | false => exact ⟨s.cores, rfl⟩

theorem task_afterGroup : (s.afterGroup f k1 last).task s.cur = k1 := by
  obtain ⟨cs, h⟩ := afterGroup_frame hnoA hnoB last
  rw [h]
  exact (task_setTask s s.cur s.cur k1).trans (if_pos rfl)

end

/-- The clause of O38 on a group. -/
theorem mmaGroup : MmaGroup := by
  intro s k f m it hk hmma hgoes hheld hnoA hnoB halone hphase htrap hone hbusy hinstr g
  have hno (last : Bool) {n : Nat} (h : noReads s s.cur n) : noReads (s.setTask s.cur (k.afterGroup m it g last)) s.cur n :=
    noReads_setTask hk rfl h
  refine ⟨_, mmaMicroStep_runs hk hmma hgoes hheld halone hphase htrap hone hbusy hinstr, ?_⟩
  rw [task_afterGroup (hno _ hnoA) (hno _ hnoB), racc_afterGroup, if_pos rfl]
  refine ⟨rfl, fun n hn => by rw [racc_afterGroup, if_neg hn], fun hmore => ?_, fun hlast => ?_⟩
  · rw [decide_eq_false (Nat.not_le.mpr hmore), ← goesOn hbusy]
    rfl
  · rw [decide_eq_true hlast]
    have hk1 : find (s.setTask s.cur (k.afterGroup m it g true)).tasks s.cur = some (k.afterGroup m it g true) := by
      rw [tasks_setTask, find_ins, if_pos rfl]
    have hidle : ∀ n, (k.afterGroup m it g true).mmaReads n = false := mmaReads_of_idle rfl rfl
    obtain ⟨cs, hframe⟩ := afterGroup_frame (hno true hnoA) (hno true hnoB) true
    refine ⟨hframe ▸ rfl, hframe ▸ rfl, fun hne tl => ?_⟩
    have hslots : f.ta.toNat ≠ f.tb.toNat := fun h => hne (BitVec.eq_of_toNat_eq h)
    exact ⟨fun hview hc => consumed_first hk1 hidle (hno true hnoA) (hno true hnoB) hslots hview (by simp [hc]),
      fun hview hc => consumed_second hk1 hidle (hno true hnoA) (hno true hnoB) hslots hview (by simp [hc])⟩

end Sys2Proof.Claims
end

section
/-! SUPPORT. Exact values as rational numbers, the operands of an MMA, and the sums of a group (O38, second part). -/

namespace Sys2Proof.Machine

/-! ### Denominators (R61, R71) -/

/-- A fraction has a denominator that is not 0. -/
def Num.proper : Num → Prop
  | .fin _ _ d => 0 < d
  | _ => True

theorem proper_finPow (neg : Bool) (k : Nat) (e : Int) : (finPow neg k e).proper := by
  unfold finPow
  split
  · exact Nat.one_pos
  · exact Nat.two_pow_pos _

/-- Every pattern's value is proper. -/
theorem proper_valueOf (T b : Nat) : (valueOf T b).proper := by
  unfold valueOf
  split
  · exact Nat.one_pos
  · unfold floatValue
    dsimp only
    split
    · split <;> trivial
    · split
      · trivial
      · split <;> exact proper_finPow ..

theorem proper_mulN {x y : Num} (hx : x.proper) (hy : y.proper) : (mulN x y).1.proper := by
  unfold mulN
  split
  · trivial
  · trivial
  · trivial
  · split <;> trivial
  · split <;> trivial
  · exact Nat.mul_pos hx hy
  · exact hx

theorem proper_mmaVal (k : Task) (tile T mode reg lo hi i j : Nat) : (mmaVal k tile T mode reg lo hi i j).1.proper := by
  have hscaled {x : Num} (hx : x.proper) (T b : Nat) (c : Prop) [Decidable c] :
      (if c then mulN x (valueOf T b) else (x, 0)).1.proper := by
    split
    · exact proper_mulN hx (proper_valueOf ..)
    · exact hx
  unfold mmaVal scaleBy
  dsimp only
  split
  · exact hscaled (proper_valueOf ..) ..
  · exact proper_mulN (hscaled (proper_valueOf ..) ..) (proper_valueOf ..)

/-! ### Sums of fractions (R71) -/

theorem signed_mul (a b : Bool) (m n : Nat) : signed (a != b) (m * n) = signed a m * signed b n := by
  cases a <;> cases b <;> simp [signed]

theorem signed_natAbs (n : Int) : signed (decide (n < 0)) n.natAbs = n := by
  unfold signed
  split
  · next h => have := of_decide_eq_true h; omega
  · next h => have := of_decide_eq_false (Bool.eq_false_iff.mpr h); omega

/-- The sum of two fractions is a fraction. -/
theorem addFrac_eq {n1 n2 : Int} {d1 d2 : Nat} (h1 : 0 < d1) (h2 : 0 < d2) :
    0 < (addFrac n1 d1 n2 d2).2 ∧ ((addFrac n1 d1 n2 d2).1 : Rat) / (addFrac n1 d1 n2 d2).2 = (n1 : Rat) / d1 + (n2 : Rat) / d2 := by
  have hq1 : (d1 : Rat) ≠ 0 := by exact_mod_cast h1.ne'
  have hq2 : (d2 : Rat) ≠ 0 := by exact_mod_cast h2.ne'
  unfold addFrac
  split
  · next h =>
    subst h
    exact ⟨h1, by push_cast; exact add_div ..⟩
  · split
    · next h =>
      obtain ⟨c, rfl⟩ := Nat.dvd_of_mod_eq_zero h
      refine ⟨h2, ?_⟩
      rw [Nat.mul_div_cancel_left c h1]
      push_cast at hq2 ⊢
      have hc := right_ne_zero_of_mul hq2
      field_simp
    · split
      · next h =>
        obtain ⟨c, rfl⟩ := Nat.dvd_of_mod_eq_zero h
        refine ⟨h1, ?_⟩
        rw [Nat.mul_div_cancel_left c h2]
        push_cast at hq1 ⊢
        have hc := right_ne_zero_of_mul hq1
        field_simp
      · refine ⟨Nat.mul_pos h1 h2, ?_⟩
        push_cast
        field_simp

end Sys2Proof.Machine

namespace Sys2Proof.Claims
open Sys2Proof Sys2Proof.Machine

/-! ### Exact values as rational numbers -/

theorem rat_fin (neg : Bool) (n d : Nat) : rat (.fin neg n d) = some ((signed neg n : Rat) / d) := by
  cases neg <;> simp [rat, signed, neg_div]

theorem fin_of_rat {x : Machine.Num} {q : Rat} (h : rat x = some q) : ∃ neg n d, x = .fin neg n d ∧ (signed neg n : Rat) / d = q := by
  cases x with
  | fin neg n d =>
    rw [rat_fin, Option.some.injEq] at h
    exact ⟨neg, n, d, rfl, h⟩
  | _ => cases h

theorem rat_mulN {x y : Machine.Num} {p q : Rat} (hx : rat x = some p) (hy : rat y = some q) : rat (mulN x y).1 = some (p * q) := by
  obtain ⟨a, m, c, rfl, rfl⟩ := fin_of_rat hx
  obtain ⟨b, n, d, rfl, rfl⟩ := fin_of_rat hy
  show rat (.fin (a != b) (m * n) (c * d)) = _
  rw [rat_fin, signed_mul, div_mul_div_comm]
  push_cast
  rfl

theorem rat_wholeN (x : Machine.Num) : rat (wholeN x) = rat x := by
  unfold wholeN
  split
  · simp only [rat_fin, signed]
    split <;> simp
  · rfl

theorem proper_wholeN {x : Machine.Num} (h : x.proper) : (wholeN x).proper := by
  unfold wholeN
  split <;> exact h

/-- The exact sum of two rational values (R71). -/
theorem rat_addN {x y : Machine.Num} {p q : Rat} (hx : x.proper) (hy : y.proper) (hp : rat x = some p) (hq : rat y = some q) :
    (addN false x y).1.proper ∧ rat (addN false x y).1 = some (p + q) := by
  obtain ⟨a, m, c, rfl, rfl⟩ := fin_of_rat hp
  obtain ⟨b, n, d, rfl, rfl⟩ := fin_of_rat hq
  obtain ⟨hpos, hsum⟩ := addFrac_eq (n1 := signed a m) (n2 := signed b n) hx hy
  rw [← hsum, addN]
  generalize addFrac (signed a m) c (signed b n) d = r at hpos
  dsimp only
  split
  · next hzero =>
    refine ⟨Nat.one_pos, ?_⟩
    rw [rat_fin, hzero]
    simp [signed]
  · exact ⟨hpos, by rw [rat_fin, signed_natAbs]⟩

/-- The exact sum of rational values (R80, R256). -/
theorem rat_sumN {α : Type} (l : List α) {v : α → Machine.Num} {q : α → Rat}
    (h : ∀ a ∈ l, (v a).proper ∧ rat (v a) = some (q a)) :
    (sumN (l.map v)).1.proper ∧ rat (sumN (l.map v)).1 = some (l.map q).sum := by
  induction l with
  | nil => exact ⟨Nat.one_pos, by simp [sumN, rat]⟩
  | cons a l ih =>
    obtain ⟨hproper, hrat⟩ := h a List.mem_cons_self
    obtain ⟨hproper', hrat'⟩ := ih fun b hb => h b (List.mem_cons_of_mem _ hb)
    cases l with
    | nil => exact ⟨hproper, by simpa [sumN] using hrat⟩
    | cons b l =>
      have hsome {x : Machine.Num} {p : Rat} (hx : rat x = some p) : x.isNan = false := by
        obtain ⟨_, _, _, rfl, -⟩ := fin_of_rat hx
        rfl
      have hsum : sumN ((a :: b :: l).map v) = addN false (v a) (sumN ((b :: l).map v)).1 := by
        show (if (v a).isNan || (sumN ((b :: l).map v)).1.isNan then _ else _) = _
        rw [hsome hrat, hsome hrat']
        rfl
      rw [hsum]
      exact rat_addN hproper hproper' hrat hrat'

/-- The clause of O38 on operands. -/
theorem operandValues : OperandValues := by
  intro k tile T mode reg lo hi i j x blk band hx hblk hband
  unfold mmaVal scaleBy
  dsimp only
  have hscaled : rat (if mode = 2 then mulN (valueOf T (tile / 2 ^ (4096 * i + width T * j) % 2 ^ width T)) (valueOf 6
      (if mode = 2 then (k.rv (reg + i / 64)).byte (i % 64 * 128 + j / 8) else 0))
      else (valueOf T (tile / 2 ^ (4096 * i + width T * j) % 2 ^ width T), 0)).1 = some (x * blk) := by
    split
    · next hmode =>
      rw [if_pos hmode] at hblk
      exact rat_mulN hx hblk
    · next hmode =>
      rw [if_neg hmode] at hblk
      rw [hblk, mul_one, hx]
  split
  · next hmode =>
    rw [if_pos hmode] at hband
    rw [hband, mul_one]
    exact hscaled
  · next hmode =>
    rw [if_neg hmode] at hband
    exact rat_mulN hscaled hband

/-! ### The sum of a group (R80, R81) -/

/-- Operand n of row i of the A tile in the group that an MMA takes next (R263, R278). -/
def operandA (k : Task) (f : MX) (m : MmaRun) (tile i n : Nat) : Machine.Num × BitVec 6 :=
  mmaVal k tile (formatType (m.desc.toNat % 8)) (m.desc.toNat / 64 % 4) f.va.toNat (m.band.toNat / 2 ^ (16 * 0) % 65536)
    (m.band.toNat / 2 ^ (16 * 1) % 65536) i (32 * m.next + n)

/-- Operand n of column j of the B tile in that group. -/
def operandB (k : Task) (f : MX) (m : MmaRun) (tile j n : Nat) : Machine.Num × BitVec 6 :=
  mmaVal k tile (formatType (m.desc.toNat / 8 % 8)) (m.desc.toNat / 256 % 4) f.vb.toNat (m.band.toNat / 2 ^ (16 * 2) % 65536)
    (m.band.toNat / 2 ^ (16 * 3) % 65536) j (32 * m.next + n)

/-- A group's sum is rounded, and its sum with the accumulator is rounded again (R80). -/
theorem groupStep_bits (md : Mode) (old : Nat) (s : Machine.Num) : (groupStep md old s).1 =
    (roundTo (addN false (valueOf 0 old) (valueOf 0 (roundTo s 0 md 0).1)).1 0 md 0).1 := by
  unfold groupStep
  generalize roundTo = round
  rfl

/-- The exact sum of the group for element j of row i. -/
def sumOfGroup (k : Task) (f : MX) (m : MmaRun) (ta tb i j : Nat) : Machine.Num :=
  (groupSum (formatType (m.desc.toNat % 8) == 7) (tabulate (operandA k f m ta i) 32) (tabulate (operandB k f m tb j) 32) 32).1

/-- A product of a group; whole: of i8 operands, whose zero has no sign (R278). -/
def groupProduct (whole : Bool) (x y : Machine.Num) : Machine.Num := if whole then wholeN (mulN x y).1 else (mulN x y).1

theorem rat_groupProduct (whole : Bool) {x y : Machine.Num} {p q : Rat} (hx : x.proper) (hy : y.proper) (hp : rat x = some p)
    (hq : rat y = some q) : (groupProduct whole x y).proper ∧ rat (groupProduct whole x y) = some (p * q) := by
  have hproper := proper_mulN hx hy
  have hrat := rat_mulN hp hq
  cases whole with
  | true => exact ⟨proper_wholeN hproper, (rat_wholeN _).trans hrat⟩
  | false => exact ⟨hproper, hrat⟩

/-- The sum of the products of rational operands is rational. -/
theorem rat_groupSum (whole : Bool) {a b : Nat → Machine.Num × BitVec 6} {x y : Nat → Rat} (n : Nat)
    (ha : ∀ i, (a i).1.proper) (hb : ∀ i, (b i).1.proper)
    (h : ∀ i, i < n → rat (a i).1 = some (x i) ∧ rat (b i).1 = some (y i)) :
    rat (groupSum whole (tabulate a n) (tabulate b n) n).1 = some ((List.range n).map fun i => x i * y i).sum := by
  have hproducts : (groupSum whole (tabulate a n) (tabulate b n) n).1 =
      (sumN ((List.range n).map fun i => groupProduct whole (a i).1 (b i).1)).1 := by
    simp only [groupSum, List.map_map]
    refine congrArg (fun l => (sumN l).1) (List.map_congr_left fun i hi => ?_)
    simp only [Function.comp_apply, tabulate_getElem?, if_pos (List.mem_range.mp hi), Option.getD_some]
    rfl
  rw [hproducts]
  refine (rat_sumN _ fun i hi => ?_).2
  obtain ⟨hx, hy⟩ := h i (List.mem_range.mp hi)
  exact rat_groupProduct whole (ha i) (hb i) hx hy

/-- An entry of a table. -/
theorem getD_tabulate {α : Type} (f : Nat → α) (d : α) {n j : Nat} (hj : j < n) : ((tabulate f n)[j]?).getD d = f j := by
  rw [tabulate_getElem?, if_pos hj, Option.getD_some]

/-- A row of a table whose rows stand only where they are active. -/
theorem getD_activeRow {α : Type} (act : Nat → Bool) (g : Nat → Array α) (d : Array α) {n i : Nat} (hi : i < n)
    (hact : act i = true) : ((tabulate (fun i => if act i then g i else d) n)[i]?).getD d = g i := by
  rw [getD_tabulate _ _ hi, if_pos hact]

/-- An entry of an active row. -/
theorem getD_rows {α : Type} (act : Nat → Bool) (g : Nat → Nat → α) (d : α) {n l i j : Nat} (hi : i < n) (hj : j < l)
    (hact : act i = true) :
    ((((tabulate (fun i => if act i then tabulate (g i) l else #[]) n)[i]?).getD #[])[j]?).getD d = g i j := by
  rw [getD_activeRow act (fun i => tabulate (g i) l) #[] hi hact, getD_tabulate _ _ hj]

/-- The accumulator after a group: its active rows are written. -/
theorem microStep_rows (k : Task) (f : MX) (m : MmaRun) (ta tb : Nat) :
    ∃ val, (microStep k f m ta tb).1 = (k.racc m.acc).setRows (fun i => m.rows.getLsbD i) val ∧ ∀ i j, i < 128 → j < 128 →
      m.rows.getLsbD i = true → val i j = (groupStep { modeOf f.pfx with rnd := 0 } ((k.racc m.acc).elem i j) (sumOfGroup k f m ta tb i j)).1 := by
  refine ⟨_, rfl, fun i j hi hj hact => ?_⟩
  refine (congrArg Prod.fst (getD_rows _ _ _ hi hj hact)).trans ?_
  split
  next sum fl hsum =>
  split
  next bits g hbits =>
  rw [getD_activeRow _ _ _ hi hact, getD_tabulate _ _ hj] at hsum
  have hgroup : groupSum (formatType (m.desc.toNat % 8) == 7) (tabulate (operandA k f m ta i) 32) (tabulate (operandB k f m tb j) 32) 32
      = (sum, fl) := hsum
  rw [sumOfGroup, hgroup, hbits]

/-- The clause of O38 on the sums of a group. -/
theorem groupSums : GroupSums := by
  intro k f m ta tb i j hi hj d band a b md acc new
  obtain ⟨val, hnew, hval⟩ := microStep_rows k f m ta tb
  replace hnew : new = acc.setRows (fun i => m.rows.getLsbD i) val := hnew
  have helem : new.elem i j = if m.rows.getLsbD i then val i j % 2 ^ 32 else acc.elem i j := by
    rw [hnew, elem_setRows _ _ _ hi hj]
  refine ⟨fun hrow => by rw [helem, hrow, if_neg Bool.false_ne_true], fun hrow =>
    ⟨?_, sumOfGroup k f m ta tb i j, ?_, fun x y h => ?_⟩⟩
  · rw [hnew, written_setRows _ _ _ hi, hrow, Bool.true_or]
  · rw [helem, hrow, if_pos rfl, hval i j hi hj hrow, groupStep_bits]
  · exact rat_groupSum _ 32 (fun _ => proper_mmaVal ..) (fun _ => proper_mmaVal ..) h

/-- Settles O38, clause by clause. -/
theorem matrixRuns : Obligations.MatrixRuns := ⟨mmaIssues, mmaGroup, operandValues, groupSums⟩

end Sys2Proof.Claims
end
